-- ==== Sys2Proof/Word.lean ====
section
/-! DEFINITION. The word types of the SX48 (spec/00_scope.md R7: little-endian, two's complement) and their plainest
arithmetic. Everything that a reading of the spec could change stands in Decode.lean or under Machine/. -/

namespace Sys2Proof

/-- One byte of memory, core store or segment. -/
abbrev Byte := BitVec 8

/-- A 32-bit plane element, accumulator element or instruction word's value. -/
abbrev Word32 := BitVec 32

/-- A 64-bit scalar register, control register or doubleword. -/
abbrev Word := BitVec 64

end Sys2Proof
end

