-- ==== Sys2Proof/Config.lean ====
section
/-! DEFINITION. What the implementation fixes, and the free values: what the spec leaves open. A free value is an
opaque constant applied to a counter of the state or to the operands; nothing in Lean can tell its value. -/

namespace Sys2Proof.Config

/-- Core cycles of one ring slot (R11). -/
def slotCycles : Nat := 360

/-- Cycles from a segment's arrival to its expiry (R264). -/
def hoopCycles : Nat := 17280

/-- Bytes of a segment's slot in the transit store or the hoop, slots of the hoop, the largest transit store, the firmware reserve (R14). -/
def segmentBytes : Nat := 2304000
def hoopSlots : Nat := 48
def transitMax : Nat := 1864 * segmentBytes
def reserveBytes : Nat := 96 * 2 ^ 20

/-- Bytes of a core's instruction cache (R16), in lines of a fetch block (log 83). -/
def icacheBytes : Nat := 2 ^ 17

/-- Stations of a module (R10), cores of a station (R12), thread contexts of a core (R15). -/
def stations : Nat := 48
def cores : Nat := 8
def threadContexts : Nat := 6

/-- Entries of one issue queue (R26) and of a store buffer (R197). -/
def queueEntries : Nat := 32
def storeBufferEntries : Nat := 16

/-- FREE VALUE (log 3): which of the enabled asynchronous steps comes next. -/
opaque freeChoice : Nat → Nat

/-- FREE VALUE (log 10): the set of the shared TLB that a context and a leaf's virtual base and span name. -/
opaque tlbSet : Nat → Nat → Nat → Nat

/-- FREE VALUE (log 7): nanoseconds by which TB moves in one step of the clock. -/
opaque tbAdvance : Nat → Nat

/-- FREE VALUE (log 14, log 15): which of two values the spec allows is the one read. -/
opaque freeBit : Nat → Bool

/-- FREE VALUE (log 16): an element that the spec leaves undefined. -/
opaque freeWord32 : Nat → BitVec 32

/-- FREE VALUE (log 17): a doubleword that the spec leaves undefined. -/
opaque freeWord : Nat → BitVec 64

/-- Banks of the core store (R142). -/
def csBanks : Nat := 48

/-- FREE VALUE (log 19): whether a signature verifies over the bytes under the Knamos image-signing key (R396). -/
opaque imageSignatureOk : List Byte → List Byte → Bool

/-- FREE VALUE (log 19): the RSASSA-PSS signature of the device identity key over the bytes of a report (R398). -/
opaque attestSign : List Byte → List Byte

end Sys2Proof.Config
end

