-- ==== Sys2Proof/Syntax.lean ====
section
/-! DEFINITION. The instruction syntax: one constructor of `Instr` per row of spec/opcode_table.json. The first 187 rows
are instruction words (R24 to R49); the other 99 rows are hardware steps ("each whole and indivisible",
spec/95_what_each_step_holds.md). A hardware step names its agent; one that acts on a register write or on something that
comes from outside the module finds its data in the state (`State.cbw`, `State.inputs`). -/

namespace Sys2Proof

/-- Register names as the words encode them (R38, R43, R45). -/
abbrev SReg := Fin 32
abbrev PReg := Fin 8
abbrev KReg := Fin 4
abbrev LReg := Fin 4
abbrev ZReg := Fin 8
abbrev GReg := Fin 16
abbrev Token := Fin 8

/-- Access sizes B, H, W, D (R39). -/
inductive Size where
  | b | h | w | d
  deriving DecidableEq, Repr, Inhabited

/-- Bytes of an access size. -/
def Size.bytes : Size → Nat
  | .b => 1 | .h => 2 | .w => 4 | .d => 8

/-- Condition codes (R41). -/
inductive Cond where
  | eq | ne | lt | ge | le | gt | ltn | gen | len | gtn
  deriving DecidableEq, Repr, Inhabited

/-- Directions of a plane operand (R43, R106). -/
inductive Dir where
  | row | col | diag | anti
  deriving DecidableEq, Repr, Inhabited

/-- A plane operand (R43): the plane's name, the direction, the cursor. -/
structure PlaneOp where
  z : ZReg
  dir : Dir
  k : KReg
  deriving DecidableEq, Repr, Inhabited

/-- Element formats (R37); `dflt` is the instruction's own. -/
inductive Fmt where
  | dflt | i4 | i8 | i32 | q4g32 | q4g64 | q4g128 | q8g32 | q8g64 | q8g128 | e4m3 | e5m2 | fp16 | bf16 | fp32
  deriving DecidableEq, Repr, Inhabited

/-- The group formats, codes 0x4 to 0x9 (R61, R123). -/
inductive GroupFmt where
  | q4g32 | q4g64 | q4g128 | q8g32 | q8g64 | q8g128
  deriving DecidableEq, Repr, Inhabited

/-- RND of the modifier word (R36). -/
inductive Rnd where
  | rm | rne | rtz | rup | rdn | dth
  deriving DecidableEq, Repr, Inhabited

/-- MASK of the modifier word (R36): 0 is the default L0. -/
inductive MaskSel where
  | l0 | l1 | l2 | l3 | all
  deriving DecidableEq, Repr, Inhabited

/-- SCOPE of the modifier word (R36). -/
inductive Scope where
  | unset | thread | core | station | modul | domain | system
  deriving DecidableEq, Repr, Inhabited

/-- ORD of the modifier word (R36). -/
inductive Order where
  | plain | acquire | release | acqRel
  deriving DecidableEq, Repr, Inhabited

/-- FLUSH of the modifier word (R36). -/
inductive Flush where
  | fz | flush | noFlush
  deriving DecidableEq, Repr, Inhabited

/-- A modifier extension word (R36). -/
structure Mods where
  type : Fmt := .dflt
  rnd : Rnd := .rm
  sat : Bool := false
  mask : MaskSel := .l0
  gen : Bool := false
  gneg : Bool := false
  gp : PReg := 0
  scope : Scope := .unset
  ord : Order := .plain
  flush : Flush := .fz
  deriving DecidableEq, Repr, Inhabited

/-- What every word carries beside its payload: V and D (R25), the modifier word, the immediate EXT words in order (R35),
and whether any reserved field of the word or of its EXT words was nonzero (R32). -/
structure Ctl where
  v : Fin 4 := 0
  d : Fin 4 := 0
  mods : Option Mods := none
  imms : List (Fin (2 ^ 27)) := []
  rsv : Bool := false
  deriving DecidableEq, Repr, Inhabited

/-- The control registers of R97, by name. -/
inductive CReg where
  | cyc | tb | tbskew | dl | bud | ywin | preq | rm | fz | dph | flags | segtag | slate | jobid | cprog
  | dt (i : Fin 4) | lc | ec | kinc | pred | rrb
  deriving DecidableEq, Repr, Inhabited

/-- AMO operations (R40). -/
inductive AmoOp where
  | add | and | or | xor | min | max | minn | maxn | xchg
  deriving DecidableEq, Repr, Inhabited

/-- Kinds of FENCE (R200). -/
inductive FenceKind where
  | acqRel | acq | rel
  deriving DecidableEq, Repr, Inhabited

/-- Operations of CMO (R203). -/
inductive CmoOp where
  | clean | inval | flush
  deriving DecidableEq, Repr, Inhabited

/-- Operations of VSCAN (R126). -/
inductive ScanOp where
  | sum | max | min
  deriving DecidableEq, Repr, Inhabited

/-- A thread of the module: station, core, thread context (0-3 job, 4-5 handler; R15). -/
structure Tid where
  st : Nat
  co : Nat
  tx : Nat
  deriving DecidableEq, Repr, Inhabited

/-- Which request a home slice performs: one of a thread's outstanding operations, a write of a core's L1 or store
buffer, or one that arrived from another module. -/
inductive ReqRef where
  | thr (t : Tid) (id : Nat)
  | wb (st co id : Nat)
  | rem (id : Nat)
  deriving DecidableEq, Repr, Inhabited

/-- Privilege levels (R320). -/
inductive Priv where
  | user | supervisor | firmware
  deriving DecidableEq, Repr, Inhabited

/-- Which of the five queues (R26). -/
inductive QName where
  | s | v | m | c | x
  deriving DecidableEq, Repr, Inhabited

/-- One instruction word with its EXT words decoded, or one hardware step. -/
inductive Instr where
  | add (c : Ctl) (d a b : SReg)
  | sub (c : Ctl) (d a b : SReg)
  | mul (c : Ctl) (d a b : SReg)
  | mulhi (c : Ctl) (d a b : SReg)
  | mulhn (c : Ctl) (d a b : SReg)
  | div (c : Ctl) (d a b : SReg)
  | divn (c : Ctl) (d a b : SReg)
  | rem (c : Ctl) (d a b : SReg)
  | remn (c : Ctl) (d a b : SReg)
  | and (c : Ctl) (d a b : SReg)
  | or (c : Ctl) (d a b : SReg)
  | xor (c : Ctl) (d a b : SReg)
  | andn (c : Ctl) (d a b : SReg)
  | shl (c : Ctl) (d a b : SReg)
  | shr (c : Ctl) (d a b : SReg)
  | sar (c : Ctl) (d a b : SReg)
  | rol (c : Ctl) (d a b : SReg)
  | min (c : Ctl) (d a b : SReg)
  | max (c : Ctl) (d a b : SReg)
  | minn (c : Ctl) (d a b : SReg)
  | maxn (c : Ctl) (d a b : SReg)
  | clz (c : Ctl) (d a : SReg)
  | popc (c : Ctl) (d a : SReg)
  | brev (c : Ctl) (d a : SReg)
  | sel (c : Ctl) (d a b : SReg) (n : Bool) (p : PReg)
  | cmp (c : Ctl) (p : PReg) (a b : SReg) (cc : Cond)
  | pand (c : Ctl) (d a b : PReg)
  | por (c : Ctl) (d a b : PReg)
  | pxor (c : Ctl) (d a b : PReg)
  | pnot (c : Ctl) (d a : PReg)
  | lea (c : Ctl) (d a b : SReg) (sh : Fin 16)
  | getc (c : Ctl) (d : SReg) (r : CReg)
  | setc (c : Ctl) (d : SReg) (r : CReg)
  | addi (c : Ctl) (d a : SReg) (i : Fin 512)
  | andi (c : Ctl) (d a : SReg) (i : Fin 512)
  | ori (c : Ctl) (d a : SReg) (i : Fin 512)
  | xori (c : Ctl) (d a : SReg) (i : Fin 512)
  | shli (c : Ctl) (d a : SReg) (i : Fin 512)
  | shri (c : Ctl) (d a : SReg) (i : Fin 512)
  | sari (c : Ctl) (d a : SReg) (i : Fin 512)
  | li (c : Ctl) (d : SReg) (i : Fin 16384)
  | cmpi (c : Ctl) (p : PReg) (a : SReg) (i : Fin 512) (cc : Cond)
  | br (c : Ctl) (disp : Fin 32768)
  | brc (c : Ctl) (p : PReg) (n : Bool) (disp : Fin 32768)
  | call (c : Ctl) (disp : Fin 32768)
  | ret (c : Ctl) (a : SReg)
  | jtab (c : Ctl) (a b : SReg)
  | loop (c : Ctl) (d a : SReg) (ki rot : Bool)
  | loopend (c : Ctl) (disp : Fin 32768)
  | brk (c : Ctl) (code : Fin 16)
  | slate (c : Ctl) (d : SReg) (item : Fin 8)
  | retire (c : Ctl)
  | lds (c : Ctl) (sz : Size) (m a : SReg) (off : Fin 512)
  | sts (c : Ctl) (sz : Size) (m a : SReg) (off : Fin 512)
  | ld (c : Ctl) (sz : Size) (m a : SReg) (off : Fin 512)
  | st (c : Ctl) (sz : Size) (m a : SReg) (off : Fin 512)
  | ldp (c : Ctl) (sz : Size) (m a : SReg) (w : Fin 8) (off : Fin 64)
  | amo (c : Ctl) (dbl : Bool) (d a b : SReg) (op : AmoOp)
  | cas (c : Ctl) (dbl : Bool) (d a b : SReg)
  | enq (c : Ctl) (d a b : SReg)
  | deq (c : Ctl) (d a b : SReg)
  | fence (c : Ctl) (kind : FenceKind) (scope : Scope)
  | xfence (c : Ctl)
  | cmo (c : Ctl) (a b : SReg) (op : CmoOp) (home : Bool)
  | pref (c : Ctl) (wr : Bool) (a : SReg) (off : Fin 512)
  | postS (c : Ctl) (t : Token)
  | waitS (c : Ctl) (t : Token)
  | rdv (c : Ctl)
  | binit (c : Ctl) (a b : SReg)
  | barv (c : Ctl) (a b : SReg)
  | bexp (c : Ctl) (a b : SReg)
  | bwait (c : Ctl) (a : SReg)
  | yield_ (c : Ctl)
  | pchk (c : Ctl) (d : SReg)
  | budg (c : Ctl) (a : SReg)
  | segwait (c : Ctl) (a : SReg)
  | accept (c : Ctl) (a b : SReg)
  | commit (c : Ctl) (a : SReg)
  | timewait (c : Ctl) (a : SReg) (late : Bool)
  | ttarm (c : Ctl) (a b : SReg)
  | syscall (c : Ctl) (code : Fin 512)
  | trap (c : Ctl) (code : Fin 512)
  | sqtrap (c : Ctl) (a : SReg) (code : Fin 512)
  | telm (c : Ctl) (a b : SReg)
  | frzinfo (c : Ctl) (d a : SReg)
  | frzrd (c : Ctl) (d a : SReg) (cls : Fin 16)
  | frzwr (c : Ctl) (a b : SReg) (cls : Fin 16)
  | frzld (c : Ctl) (d a b : SReg)
  | frzst (c : Ctl) (d a b : SReg)
  | frzarv (c : Ctl) (a b : SReg)
  | frzres (c : Ctl) (a b : SReg)
  | frzkil (c : Ctl) (a : SReg)
  | haltx (c : Ctl) (a : SReg)
  | vadd (c : Ctl) (d a b : PlaneOp)
  | vsub (c : Ctl) (d a b : PlaneOp)
  | vmul (c : Ctl) (d a b : PlaneOp)
  | vfma (c : Ctl) (d a b : PlaneOp)
  | vfms (c : Ctl) (d a b : PlaneOp)
  | vmin (c : Ctl) (d a b : PlaneOp)
  | vmax (c : Ctl) (d a b : PlaneOp)
  | vabs (c : Ctl) (d a : PlaneOp)
  | vneg (c : Ctl) (d a : PlaneOp)
  | vmov (c : Ctl) (d a : PlaneOp)
  | vrsum (c : Ctl) (d a : PlaneOp)
  | vrmax (c : Ctl) (d a : PlaneOp)
  | vrmin (c : Ctl) (d a : PlaneOp)
  | vrssq (c : Ctl) (d a : PlaneOp)
  | vexp2 (c : Ctl) (d a : PlaneOp)
  | viadd (c : Ctl) (d a b : PlaneOp)
  | visub (c : Ctl) (d a b : PlaneOp)
  | vimul (c : Ctl) (d a b : PlaneOp)
  | vimac (c : Ctl) (d a b : PlaneOp)
  | vimin (c : Ctl) (d a b : PlaneOp)
  | vimax (c : Ctl) (d a b : PlaneOp)
  | vshl (c : Ctl) (d a b : PlaneOp)
  | vshr (c : Ctl) (d a b : PlaneOp)
  | vsar (c : Ctl) (d a b : PlaneOp)
  | vand (c : Ctl) (d a b : PlaneOp)
  | vor (c : Ctl) (d a b : PlaneOp)
  | vxor (c : Ctl) (d a b : PlaneOp)
  | vcmp (c : Ctl) (d : LReg) (a b : PlaneOp) (cc : Cond)
  | vsel (c : Ctl) (d a b : PlaneOp) (m : LReg)
  | vcvt (c : Ctl) (d a : PlaneOp) (src : Fmt)
  | vqnt (c : Ctl) (d a g : PlaneOp) (fmt : GroupFmt)
  | vdqnt (c : Ctl) (d a g : PlaneOp) (fmt : GroupFmt)
  | vlog2 (c : Ctl) (d a : PlaneOp)
  | vrcp (c : Ctl) (d a : PlaneOp)
  | vrsq (c : Ctl) (d a : PlaneOp)
  | vimaxIdx (c : Ctl) (d : SReg) (a : PlaneOp) (val : SReg)
  | vbcst (c : Ctl) (d : PlaneOp) (a : SReg)
  | vld (c : Ctl) (d : PlaneOp) (a : SReg) (off : Fin 4096)
  | vst (c : Ctl) (d : PlaneOp) (a : SReg) (off : Fin 4096)
  | vgth (c : Ctl) (d : PlaneOp) (a : SReg) (b : PlaneOp)
  | vperm (c : Ctl) (d a b : PlaneOp) (x : Fin 128)
  | vshf (c : Ctl) (d a b : PlaneOp) (s : Fin 128)
  | vscan (c : Ctl) (d a : PlaneOp) (op : ScanOp)
  | vkset (c : Ctl) (k : KReg) (a : SReg) (val : Fin 1024)
  | vkadd (c : Ctl) (k : KReg) (a : SReg) (val : Fin 1024)
  | mskand (c : Ctl) (d a b : LReg)
  | mskor (c : Ctl) (d a b : LReg)
  | mskxor (c : Ctl) (d a b : LReg)
  | msknot (c : Ctl) (d a : LReg)
  | mskmov (c : Ctl) (d : LReg) (a : SReg)
  | mskget (c : Ctl) (a : SReg) (d : LReg)
  | vrand (c : Ctl) (d : PlaneOp) (key ctr : SReg) (unit : Bool)
  | postV (c : Ctl) (t : Token)
  | waitV (c : Ctl) (t : Token)
  | mlease (c : Ctl)
  | mfree (c : Ctl)
  | mstrl (c : Ctl) (g : GReg) (a : SReg)
  | mstrs (c : Ctl) (g : GReg) (a : SReg)
  | mstrf (c : Ctl) (g : GReg) (a : SReg) (f : Fin 32)
  | mnest (c : Ctl) (a : SReg)
  | mmm (c : Ctl) (g h : GReg) (a : SReg) (init nest : Bool)
  | mmc (c : Ctl) (g : GReg) (a : SReg) (init : Bool)
  | aclr (c : Ctl) (a : SReg)
  | ard (c : Ctl) (p : ZReg) (q : Fin 4) (a : SReg)
  | awr (c : Ctl) (p : ZReg) (q : Fin 4) (a : SReg)
  | acpyToCoreStore (c : Ctl) (a b : SReg)
  | acpyToAccumulator (c : Ctl) (a b : SReg)
  | mchk (c : Ctl) (k : Fin 32)
  | mwait (c : Ctl) (post : Bool) (t : Token)
  | postM (c : Ctl) (t : Token)
  | waitM (c : Ctl) (t : Token)
  | cpy (c : Ctl) (a b : SReg)
  | cgth (c : Ctl) (a b x : SReg)
  | csct (c : Ctl) (a b x : SReg)
  | cbcst (c : Ctl) (a b x : SReg)
  | xput (c : Ctl) (a b x : SReg)
  | xget (c : Ctl) (a b : SReg)
  | kvapp (c : Ctl) (a b x : SReg)
  | kvcmp (c : Ctl) (a b x : SReg)
  | seghold (c : Ctl) (a b x : SReg)
  | cwait (c : Ctl) (post : Bool) (t : Token)
  | ccncl (c : Ctl)
  | postC (c : Ctl) (t : Token)
  | waitC (c : Ctl) (t : Token)
  | tapsel (c : Ctl) (t : Fin 16) (a : SReg)
  | tapstr (c : Ctl) (t : Fin 16) (a : SReg) (z : ZReg)
  | tapdot (c : Ctl) (t : Fin 16) (a b : SReg) (z : ZReg)
  | tapeval (c : Ctl) (t : Fin 16) (a b : SReg) (m : LReg)
  | tapclr (c : Ctl) (a : SReg)
  | taprd (c : Ctl) (t : Fin 16) (a b : SReg)
  | tapprb (c : Ctl) (t : Fin 16) (a b : SReg)
  | tapstv (c : Ctl) (a b : SReg)
  | postX (c : Ctl) (t : Token)
  | waitX (c : Ctl) (t : Token)
  -- the hardware steps, rows 187 to 285
  | splitterFetch (t : Tid)
  | fixedLatencyWriteLand (t : Tid)
  | loadComplete (t : Tid) (id : Nat)
  | storeBufferDrain (t : Tid)
  | dirtyLineWriteback (st co line : Nat)
  | releaseMarkerLeave (st co : Nat)
  | l1InvalidateComplete (t : Tid)
  | pageWalk (t : Tid) (id : Nat)
  | homeSliceRead (r : ReqRef)
  | homeSliceWrite (r : ReqRef)
  | homeAtomic (r : ReqRef)
  | homeQueueOp (r : ReqRef)
  | homeBarrierUpdate (r : ReqRef)
  | forwardedAccess (id : Nat)
  | ackFlit (port : Nat)
  | accessUndeliverable (r : ReqRef)
  | mirrorWrite (st : Nat)
  | copyPiece (st id piece : Nat)
  | vatLeaseGrant (st co : Nat)
  | handlerReserveClaim (t : Tid)
  | vatAccept (st co : Nat)
  | vatComplete (st co : Nat)
  | deviationLogAppend (st co : Nat)
  | xWordComplete (t : Tid)
  | segmentReceive (st : Nat)
  | slateForm (st frame : Nat)
  | segmentExpire (st frame : Nat)
  | declaringCycle (st job : Nat)
  | launchArbiter (st co : Nat)
  | jobComplete (t : Tid)
  | budgetExhausted (t : Tid)
  | preemptRaise (st co : Nat) (jobs : Fin 16)
  | preemptWithdraw (st co : Nat) (jobs : Fin 16)
  | forcedSave (t : Tid)
  | saveRecordWrite (t : Tid)
  | timetablePreq (st co e : Nat)
  | timetableLaunch (st co e : Nat)
  | dbgHaltThread (t : Tid)
  | dbgReleaseThread (t : Tid)
  | dbgHaltCore (st co : Nat)
  | dbgReleaseCore (st co : Nat)
  | dbgSave (t : Tid)
  | copyqSettle (st co : Nat)
  | recordMoveDone (st : Nat)
  | tlbInvalidateDone (st : Nat)
  | faultDetect (t : Tid)
  | freezeComplete (t : Tid)
  | handlerSpawn (st co : Nat)
  | handlerSlotTake (t : Tid)
  | intakeDeliver (st tier : Nat)
  | completionRecord (st ctx : Nat)
  | tileWalkPermit (engine : Nat)
  | tileWalkDone (engine : Nat)
  | selfTestStart (st : Nat)
  | afrUpdate (st : Nat)
  -- hardware steps whose data stand in the state: the register write being performed, or the input that has come
  | devlogSizeWrite
  | telemetrySizeWrite
  | capRevoke
  | contextTeardown
  | descriptorWrite
  | tileWalkStopClear
  | registerWrite
  | tlbInvalidate
  | recordMove
  | timetableWrite
  | moduleLeaseAcquire
  | moduleLeaseRelease
  | migenClear
  | ringSlotStart
  | hostRdmaWrite
  | hostRdmaWriteImm
  | hostRdmaRead
  | roceUnsupportedRequest
  | controllerCommand
  | imageVerify
  | fuseCommit
  | attestRequest
  | selfTestEnd
  | bankScanRow
  | kvRebuild
  | ringSyncLoss
  | powerDecision
  | thermalTrip
  | railFault
  | pllUnlock
  | resetRelease
  | hostLinkAcknowledge
  | stationControllerRestart
  | ieee1588Timestamp
  | fabricTrain
  | laneFailRetrain
  | fabricFlitReplay
  | skipFlitReplay
  | intakeSubmit
  | delegateInstall
  | returnPageReceive
  | migrationReady
  | migrationClosing
  | migrationClosed
  deriving DecidableEq, Repr

end Sys2Proof
end

