-- ==== Sys2Proof/WellFormed.lean ====
section
/-! DEFINITION. Which terms of `Instr` are the reading of some word (R32, R35, R80, R90, R113, R128, R200). -/

namespace Sys2Proof

/-- How a form takes EXT kind 0b00 words. -/
inductive ImmUse where
  | refused | reserved | value
  deriving DecidableEq, Repr

/-- The control part of a word; none for a hardware step. -/
def Instr.ctl : Instr → Option Ctl
  | .add c _ _ _ => some c
  | .sub c _ _ _ => some c
  | .mul c _ _ _ => some c
  | .mulhi c _ _ _ => some c
  | .mulhn c _ _ _ => some c
  | .div c _ _ _ => some c
  | .divn c _ _ _ => some c
  | .rem c _ _ _ => some c
  | .remn c _ _ _ => some c
  | .and c _ _ _ => some c
  | .or c _ _ _ => some c
  | .xor c _ _ _ => some c
  | .andn c _ _ _ => some c
  | .shl c _ _ _ => some c
  | .shr c _ _ _ => some c
  | .sar c _ _ _ => some c
  | .rol c _ _ _ => some c
  | .min c _ _ _ => some c
  | .max c _ _ _ => some c
  | .minn c _ _ _ => some c
  | .maxn c _ _ _ => some c
  | .clz c _ _ => some c
  | .popc c _ _ => some c
  | .brev c _ _ => some c
  | .sel c _ _ _ _ _ => some c
  | .cmp c _ _ _ _ => some c
  | .pand c _ _ _ => some c
  | .por c _ _ _ => some c
  | .pxor c _ _ _ => some c
  | .pnot c _ _ => some c
  | .lea c _ _ _ _ => some c
  | .getc c _ _ => some c
  | .setc c _ _ => some c
  | .addi c _ _ _ => some c
  | .andi c _ _ _ => some c
  | .ori c _ _ _ => some c
  | .xori c _ _ _ => some c
  | .shli c _ _ _ => some c
  | .shri c _ _ _ => some c
  | .sari c _ _ _ => some c
  | .li c _ _ => some c
  | .cmpi c _ _ _ _ => some c
  | .br c _ => some c
  | .brc c _ _ _ => some c
  | .call c _ => some c
  | .ret c _ => some c
  | .jtab c _ _ => some c
  | .loop c _ _ _ _ => some c
  | .loopend c _ => some c
  | .brk c _ => some c
  | .slate c _ _ => some c
  | .retire c => some c
  | .lds c _ _ _ _ => some c
  | .sts c _ _ _ _ => some c
  | .ld c _ _ _ _ => some c
  | .st c _ _ _ _ => some c
  | .ldp c _ _ _ _ _ => some c
  | .amo c _ _ _ _ _ => some c
  | .cas c _ _ _ _ => some c
  | .enq c _ _ _ => some c
  | .deq c _ _ _ => some c
  | .fence c _ _ => some c
  | .xfence c => some c
  | .cmo c _ _ _ _ => some c
  | .pref c _ _ _ => some c
  | .postS c _ => some c
  | .waitS c _ => some c
  | .rdv c => some c
  | .binit c _ _ => some c
  | .barv c _ _ => some c
  | .bexp c _ _ => some c
  | .bwait c _ => some c
  | .yield_ c => some c
  | .pchk c _ => some c
  | .budg c _ => some c
  | .segwait c _ => some c
  | .accept c _ _ => some c
  | .commit c _ => some c
  | .timewait c _ _ => some c
  | .ttarm c _ _ => some c
  | .syscall c _ => some c
  | .trap c _ => some c
  | .sqtrap c _ _ => some c
  | .telm c _ _ => some c
  | .frzinfo c _ _ => some c
  | .frzrd c _ _ _ => some c
  | .frzwr c _ _ _ => some c
  | .frzld c _ _ _ => some c
  | .frzst c _ _ _ => some c
  | .frzarv c _ _ => some c
  | .frzres c _ _ => some c
  | .frzkil c _ => some c
  | .haltx c _ => some c
  | .vadd c _ _ _ => some c
  | .vsub c _ _ _ => some c
  | .vmul c _ _ _ => some c
  | .vfma c _ _ _ => some c
  | .vfms c _ _ _ => some c
  | .vmin c _ _ _ => some c
  | .vmax c _ _ _ => some c
  | .vabs c _ _ => some c
  | .vneg c _ _ => some c
  | .vmov c _ _ => some c
  | .vrsum c _ _ => some c
  | .vrmax c _ _ => some c
  | .vrmin c _ _ => some c
  | .vrssq c _ _ => some c
  | .vexp2 c _ _ => some c
  | .viadd c _ _ _ => some c
  | .visub c _ _ _ => some c
  | .vimul c _ _ _ => some c
  | .vimac c _ _ _ => some c
  | .vimin c _ _ _ => some c
  | .vimax c _ _ _ => some c
  | .vshl c _ _ _ => some c
  | .vshr c _ _ _ => some c
  | .vsar c _ _ _ => some c
  | .vand c _ _ _ => some c
  | .vor c _ _ _ => some c
  | .vxor c _ _ _ => some c
  | .vcmp c _ _ _ _ => some c
  | .vsel c _ _ _ _ => some c
  | .vcvt c _ _ _ => some c
  | .vqnt c _ _ _ _ => some c
  | .vdqnt c _ _ _ _ => some c
  | .vlog2 c _ _ => some c
  | .vrcp c _ _ => some c
  | .vrsq c _ _ => some c
  | .vimaxIdx c _ _ _ => some c
  | .vbcst c _ _ => some c
  | .vld c _ _ _ => some c
  | .vst c _ _ _ => some c
  | .vgth c _ _ _ => some c
  | .vperm c _ _ _ _ => some c
  | .vshf c _ _ _ _ => some c
  | .vscan c _ _ _ => some c
  | .vkset c _ _ _ => some c
  | .vkadd c _ _ _ => some c
  | .mskand c _ _ _ => some c
  | .mskor c _ _ _ => some c
  | .mskxor c _ _ _ => some c
  | .msknot c _ _ => some c
  | .mskmov c _ _ => some c
  | .mskget c _ _ => some c
  | .vrand c _ _ _ _ => some c
  | .postV c _ => some c
  | .waitV c _ => some c
  | .mlease c => some c
  | .mfree c => some c
  | .mstrl c _ _ => some c
  | .mstrs c _ _ => some c
  | .mstrf c _ _ _ => some c
  | .mnest c _ => some c
  | .mmm c _ _ _ _ _ => some c
  | .mmc c _ _ _ => some c
  | .aclr c _ => some c
  | .ard c _ _ _ => some c
  | .awr c _ _ _ => some c
  | .acpyToCoreStore c _ _ => some c
  | .acpyToAccumulator c _ _ => some c
  | .mchk c _ => some c
  | .mwait c _ _ => some c
  | .postM c _ => some c
  | .waitM c _ => some c
  | .cpy c _ _ => some c
  | .cgth c _ _ _ => some c
  | .csct c _ _ _ => some c
  | .cbcst c _ _ _ => some c
  | .xput c _ _ _ => some c
  | .xget c _ _ => some c
  | .kvapp c _ _ _ => some c
  | .kvcmp c _ _ _ => some c
  | .seghold c _ _ _ => some c
  | .cwait c _ _ => some c
  | .ccncl c => some c
  | .postC c _ => some c
  | .waitC c _ => some c
  | .tapsel c _ _ => some c
  | .tapstr c _ _ _ => some c
  | .tapdot c _ _ _ _ => some c
  | .tapeval c _ _ _ _ => some c
  | .tapclr c _ => some c
  | .taprd c _ _ _ => some c
  | .tapprb c _ _ _ => some c
  | .tapstv c _ _ => some c
  | .postX c _ => some c
  | .waitX c _ => some c
  | .splitterFetch _ => none
  | .fixedLatencyWriteLand _ => none
  | .loadComplete _ _ => none
  | .storeBufferDrain _ => none
  | .dirtyLineWriteback _ _ _ => none
  | .releaseMarkerLeave _ _ => none
  | .l1InvalidateComplete _ => none
  | .pageWalk _ _ => none
  | .homeSliceRead _ => none
  | .homeSliceWrite _ => none
  | .homeAtomic _ => none
  | .homeQueueOp _ => none
  | .homeBarrierUpdate _ => none
  | .forwardedAccess _ => none
  | .ackFlit _ => none
  | .accessUndeliverable _ => none
  | .mirrorWrite _ => none
  | .copyPiece _ _ _ => none
  | .vatLeaseGrant _ _ => none
  | .handlerReserveClaim _ => none
  | .vatAccept _ _ => none
  | .vatComplete _ _ => none
  | .deviationLogAppend _ _ => none
  | .xWordComplete _ => none
  | .segmentReceive _ => none
  | .slateForm _ _ => none
  | .segmentExpire _ _ => none
  | .declaringCycle _ _ => none
  | .launchArbiter _ _ => none
  | .jobComplete _ => none
  | .budgetExhausted _ => none
  | .preemptRaise _ _ _ => none
  | .preemptWithdraw _ _ _ => none
  | .forcedSave _ => none
  | .saveRecordWrite _ => none
  | .timetablePreq _ _ _ => none
  | .timetableLaunch _ _ _ => none
  | .dbgHaltThread _ => none
  | .dbgReleaseThread _ => none
  | .dbgHaltCore _ _ => none
  | .dbgReleaseCore _ _ => none
  | .dbgSave _ => none
  | .copyqSettle _ _ => none
  | .recordMoveDone _ => none
  | .tlbInvalidateDone _ => none
  | .faultDetect _ => none
  | .freezeComplete _ => none
  | .handlerSpawn _ _ => none
  | .handlerSlotTake _ => none
  | .intakeDeliver _ _ => none
  | .completionRecord _ _ => none
  | .tileWalkPermit _ => none
  | .tileWalkDone _ => none
  | .selfTestStart _ => none
  | .afrUpdate _ => none
  | .devlogSizeWrite => none
  | .telemetrySizeWrite => none
  | .capRevoke => none
  | .contextTeardown => none
  | .descriptorWrite => none
  | .tileWalkStopClear => none
  | .registerWrite => none
  | .tlbInvalidate => none
  | .recordMove => none
  | .timetableWrite => none
  | .moduleLeaseAcquire => none
  | .moduleLeaseRelease => none
  | .migenClear => none
  | .ringSlotStart => none
  | .hostRdmaWrite => none
  | .hostRdmaWriteImm => none
  | .hostRdmaRead => none
  | .roceUnsupportedRequest => none
  | .controllerCommand => none
  | .imageVerify => none
  | .fuseCommit => none
  | .attestRequest => none
  | .selfTestEnd => none
  | .bankScanRow => none
  | .kvRebuild => none
  | .ringSyncLoss => none
  | .powerDecision => none
  | .thermalTrip => none
  | .railFault => none
  | .pllUnlock => none
  | .resetRelease => none
  | .hostLinkAcknowledge => none
  | .stationControllerRestart => none
  | .ieee1588Timestamp => none
  | .fabricTrain => none
  | .laneFailRetrain => none
  | .fabricFlitReplay => none
  | .skipFlitReplay => none
  | .intakeSubmit => none
  | .delegateInstall => none
  | .returnPageReceive => none
  | .migrationReady => none
  | .migrationClosing => none
  | .migrationClosed => none

/-- How a word takes EXT kind 0b00 words (R35, R80, R90, R113, R295): as its value, as reserved bits, or not at all. -/
def Instr.immUse : Instr → ImmUse
  | .add _ _ _ _ => .refused
  | .sub _ _ _ _ => .refused
  | .mul _ _ _ _ => .refused
  | .mulhi _ _ _ _ => .refused
  | .mulhn _ _ _ _ => .refused
  | .div _ _ _ _ => .refused
  | .divn _ _ _ _ => .refused
  | .rem _ _ _ _ => .refused
  | .remn _ _ _ _ => .refused
  | .and _ _ _ _ => .refused
  | .or _ _ _ _ => .refused
  | .xor _ _ _ _ => .refused
  | .andn _ _ _ _ => .refused
  | .shl _ _ _ _ => .refused
  | .shr _ _ _ _ => .refused
  | .sar _ _ _ _ => .refused
  | .rol _ _ _ _ => .refused
  | .min _ _ _ _ => .refused
  | .max _ _ _ _ => .refused
  | .minn _ _ _ _ => .refused
  | .maxn _ _ _ _ => .refused
  | .clz _ _ _ => .refused
  | .popc _ _ _ => .refused
  | .brev _ _ _ => .refused
  | .sel _ _ _ _ _ _ => .refused
  | .cmp _ _ _ _ _ => .refused
  | .pand _ _ _ _ => .refused
  | .por _ _ _ _ => .refused
  | .pxor _ _ _ _ => .refused
  | .pnot _ _ _ => .refused
  | .lea _ _ _ _ _ => .refused
  | .getc _ _ _ => .refused
  | .setc _ _ _ => .refused
  | .addi _ _ _ _ => .value
  | .andi _ _ _ _ => .value
  | .ori _ _ _ _ => .value
  | .xori _ _ _ _ => .value
  | .shli _ _ _ _ => .reserved
  | .shri _ _ _ _ => .reserved
  | .sari _ _ _ _ => .reserved
  | .li _ _ _ => .value
  | .cmpi _ _ _ _ _ => .value
  | .br _ _ => .value
  | .brc _ _ _ _ => .value
  | .call _ _ => .value
  | .ret _ _ => .refused
  | .jtab _ _ _ => .refused
  | .loop _ _ _ _ _ => .reserved
  | .loopend _ _ => .value
  | .brk _ _ => .refused
  | .slate _ _ _ => .refused
  | .retire _ => .refused
  | .lds _ _ _ _ _ => .value
  | .sts _ _ _ _ _ => .value
  | .ld _ _ _ _ _ => .value
  | .st _ _ _ _ _ => .value
  | .ldp _ _ _ _ _ _ => .refused
  | .amo _ _ _ _ _ _ => .refused
  | .cas _ _ _ _ _ => .refused
  | .enq _ _ _ _ => .refused
  | .deq _ _ _ _ => .refused
  | .fence _ _ _ => .refused
  | .xfence _ => .refused
  | .cmo _ _ _ _ _ => .refused
  | .pref _ _ _ _ => .value
  | .postS _ _ => .refused
  | .waitS _ _ => .refused
  | .rdv _ => .refused
  | .binit _ _ _ => .refused
  | .barv _ _ _ => .refused
  | .bexp _ _ _ => .refused
  | .bwait _ _ => .refused
  | .yield_ _ => .refused
  | .pchk _ _ => .refused
  | .budg _ _ => .refused
  | .segwait _ _ => .refused
  | .accept _ _ _ => .refused
  | .commit _ _ => .refused
  | .timewait _ _ _ => .refused
  | .ttarm _ _ _ => .refused
  | .syscall _ _ => .reserved
  | .trap _ _ => .reserved
  | .sqtrap _ _ _ => .reserved
  | .telm _ _ _ => .refused
  | .frzinfo _ _ _ => .refused
  | .frzrd _ _ _ _ => .refused
  | .frzwr _ _ _ _ => .refused
  | .frzld _ _ _ _ => .refused
  | .frzst _ _ _ _ => .refused
  | .frzarv _ _ _ => .refused
  | .frzres _ _ _ => .refused
  | .frzkil _ _ => .refused
  | .haltx _ _ => .refused
  | .vadd _ _ _ _ => .refused
  | .vsub _ _ _ _ => .refused
  | .vmul _ _ _ _ => .refused
  | .vfma _ _ _ _ => .refused
  | .vfms _ _ _ _ => .refused
  | .vmin _ _ _ _ => .refused
  | .vmax _ _ _ _ => .refused
  | .vabs _ _ _ => .refused
  | .vneg _ _ _ => .refused
  | .vmov _ _ _ => .refused
  | .vrsum _ _ _ => .refused
  | .vrmax _ _ _ => .refused
  | .vrmin _ _ _ => .refused
  | .vrssq _ _ _ => .refused
  | .vexp2 _ _ _ => .refused
  | .viadd _ _ _ _ => .reserved
  | .visub _ _ _ _ => .reserved
  | .vimul _ _ _ _ => .reserved
  | .vimac _ _ _ _ => .reserved
  | .vimin _ _ _ _ => .reserved
  | .vimax _ _ _ _ => .reserved
  | .vshl _ _ _ _ => .reserved
  | .vshr _ _ _ _ => .reserved
  | .vsar _ _ _ _ => .reserved
  | .vand _ _ _ _ => .reserved
  | .vor _ _ _ _ => .reserved
  | .vxor _ _ _ _ => .reserved
  | .vcmp _ _ _ _ _ => .reserved
  | .vsel _ _ _ _ _ => .reserved
  | .vcvt _ _ _ _ => .reserved
  | .vqnt _ _ _ _ _ => .reserved
  | .vdqnt _ _ _ _ _ => .reserved
  | .vlog2 _ _ _ => .reserved
  | .vrcp _ _ _ => .reserved
  | .vrsq _ _ _ => .reserved
  | .vimaxIdx _ _ _ _ => .reserved
  | .vbcst _ _ _ => .reserved
  | .vld _ _ _ _ => .value
  | .vst _ _ _ _ => .value
  | .vgth _ _ _ _ => .reserved
  | .vperm _ _ _ _ _ => .reserved
  | .vshf _ _ _ _ _ => .reserved
  | .vscan _ _ _ _ => .reserved
  | .vkset _ _ _ _ => .reserved
  | .vkadd _ _ _ _ => .reserved
  | .mskand _ _ _ _ => .reserved
  | .mskor _ _ _ _ => .reserved
  | .mskxor _ _ _ _ => .reserved
  | .msknot _ _ _ => .reserved
  | .mskmov _ _ _ => .reserved
  | .mskget _ _ _ => .reserved
  | .vrand _ _ _ _ _ => .reserved
  | .postV _ _ => .reserved
  | .waitV _ _ => .reserved
  | .mlease _ => .refused
  | .mfree _ => .refused
  | .mstrl _ _ _ => .refused
  | .mstrs _ _ _ => .refused
  | .mstrf _ _ _ _ => .refused
  | .mnest _ _ => .refused
  | .mmm _ _ _ _ _ _ => .refused
  | .mmc _ _ _ _ => .refused
  | .aclr _ _ => .refused
  | .ard _ _ _ _ => .refused
  | .awr _ _ _ _ => .refused
  | .acpyToCoreStore _ _ _ => .refused
  | .acpyToAccumulator _ _ _ => .refused
  | .mchk _ _ => .refused
  | .mwait _ _ _ => .refused
  | .postM _ _ => .refused
  | .waitM _ _ => .refused
  | .cpy _ _ _ => .refused
  | .cgth _ _ _ _ => .refused
  | .csct _ _ _ _ => .refused
  | .cbcst _ _ _ _ => .refused
  | .xput _ _ _ _ => .refused
  | .xget _ _ _ => .refused
  | .kvapp _ _ _ _ => .refused
  | .kvcmp _ _ _ _ => .refused
  | .seghold _ _ _ _ => .refused
  | .cwait _ _ _ => .refused
  | .ccncl _ => .refused
  | .postC _ _ => .refused
  | .waitC _ _ => .refused
  | .tapsel _ _ _ => .refused
  | .tapstr _ _ _ _ => .refused
  | .tapdot _ _ _ _ _ => .refused
  | .tapeval _ _ _ _ _ => .refused
  | .tapclr _ _ => .refused
  | .taprd _ _ _ _ => .refused
  | .tapprb _ _ _ _ => .refused
  | .tapstv _ _ _ => .refused
  | .postX _ _ => .refused
  | .waitX _ _ => .refused
  | .splitterFetch _ => .refused
  | .fixedLatencyWriteLand _ => .refused
  | .loadComplete _ _ => .refused
  | .storeBufferDrain _ => .refused
  | .dirtyLineWriteback _ _ _ => .refused
  | .releaseMarkerLeave _ _ => .refused
  | .l1InvalidateComplete _ => .refused
  | .pageWalk _ _ => .refused
  | .homeSliceRead _ => .refused
  | .homeSliceWrite _ => .refused
  | .homeAtomic _ => .refused
  | .homeQueueOp _ => .refused
  | .homeBarrierUpdate _ => .refused
  | .forwardedAccess _ => .refused
  | .ackFlit _ => .refused
  | .accessUndeliverable _ => .refused
  | .mirrorWrite _ => .refused
  | .copyPiece _ _ _ => .refused
  | .vatLeaseGrant _ _ => .refused
  | .handlerReserveClaim _ => .refused
  | .vatAccept _ _ => .refused
  | .vatComplete _ _ => .refused
  | .deviationLogAppend _ _ => .refused
  | .xWordComplete _ => .refused
  | .segmentReceive _ => .refused
  | .slateForm _ _ => .refused
  | .segmentExpire _ _ => .refused
  | .declaringCycle _ _ => .refused
  | .launchArbiter _ _ => .refused
  | .jobComplete _ => .refused
  | .budgetExhausted _ => .refused
  | .preemptRaise _ _ _ => .refused
  | .preemptWithdraw _ _ _ => .refused
  | .forcedSave _ => .refused
  | .saveRecordWrite _ => .refused
  | .timetablePreq _ _ _ => .refused
  | .timetableLaunch _ _ _ => .refused
  | .dbgHaltThread _ => .refused
  | .dbgReleaseThread _ => .refused
  | .dbgHaltCore _ _ => .refused
  | .dbgReleaseCore _ _ => .refused
  | .dbgSave _ => .refused
  | .copyqSettle _ _ => .refused
  | .recordMoveDone _ => .refused
  | .tlbInvalidateDone _ => .refused
  | .faultDetect _ => .refused
  | .freezeComplete _ => .refused
  | .handlerSpawn _ _ => .refused
  | .handlerSlotTake _ => .refused
  | .intakeDeliver _ _ => .refused
  | .completionRecord _ _ => .refused
  | .tileWalkPermit _ => .refused
  | .tileWalkDone _ => .refused
  | .selfTestStart _ => .refused
  | .afrUpdate _ => .refused
  | .devlogSizeWrite => .refused
  | .telemetrySizeWrite => .refused
  | .capRevoke => .refused
  | .contextTeardown => .refused
  | .descriptorWrite => .refused
  | .tileWalkStopClear => .refused
  | .registerWrite => .refused
  | .tlbInvalidate => .refused
  | .recordMove => .refused
  | .timetableWrite => .refused
  | .moduleLeaseAcquire => .refused
  | .moduleLeaseRelease => .refused
  | .migenClear => .refused
  | .ringSlotStart => .refused
  | .hostRdmaWrite => .refused
  | .hostRdmaWriteImm => .refused
  | .hostRdmaRead => .refused
  | .roceUnsupportedRequest => .refused
  | .controllerCommand => .refused
  | .imageVerify => .refused
  | .fuseCommit => .refused
  | .attestRequest => .refused
  | .selfTestEnd => .refused
  | .bankScanRow => .refused
  | .kvRebuild => .refused
  | .ringSyncLoss => .refused
  | .powerDecision => .refused
  | .thermalTrip => .refused
  | .railFault => .refused
  | .pllUnlock => .refused
  | .resetRelease => .refused
  | .hostLinkAcknowledge => .refused
  | .stationControllerRestart => .refused
  | .ieee1588Timestamp => .refused
  | .fabricTrain => .refused
  | .laneFailRetrain => .refused
  | .fabricFlitReplay => .refused
  | .skipFlitReplay => .refused
  | .intakeSubmit => .refused
  | .delegateInstall => .refused
  | .returnPageReceive => .refused
  | .migrationReady => .refused
  | .migrationClosing => .refused
  | .migrationClosed => .refused

/-- The long forms of the V engine, which always carry a kind 0b10 word (R44, R113). -/
def Instr.isLong : Instr → Bool
  | .viadd _ _ _ _ => true
  | .visub _ _ _ _ => true
  | .vimul _ _ _ _ => true
  | .vimac _ _ _ _ => true
  | .vimin _ _ _ _ => true
  | .vimax _ _ _ _ => true
  | .vshl _ _ _ _ => true
  | .vshr _ _ _ _ => true
  | .vsar _ _ _ _ => true
  | .vand _ _ _ _ => true
  | .vor _ _ _ _ => true
  | .vxor _ _ _ _ => true
  | .vcmp _ _ _ _ _ => true
  | .vsel _ _ _ _ _ => true
  | .vcvt _ _ _ _ => true
  | .vqnt _ _ _ _ _ => true
  | .vdqnt _ _ _ _ _ => true
  | .vlog2 _ _ _ => true
  | .vrcp _ _ _ => true
  | .vrsq _ _ _ => true
  | .vimaxIdx _ _ _ _ => true
  | .vbcst _ _ _ => true
  | .vld _ _ _ _ => true
  | .vst _ _ _ _ => true
  | .vgth _ _ _ _ => true
  | .vperm _ _ _ _ _ => true
  | .vshf _ _ _ _ _ => true
  | .vscan _ _ _ _ => true
  | .vkset _ _ _ _ => true
  | .vkadd _ _ _ _ => true
  | .mskand _ _ _ _ => true
  | .mskor _ _ _ _ => true
  | .mskxor _ _ _ _ => true
  | .msknot _ _ _ => true
  | .mskmov _ _ _ => true
  | .mskget _ _ _ => true
  | .vrand _ _ _ _ _ => true
  | .postV _ _ => true
  | .waitV _ _ => true
  | _ => false

/-- At most two EXT words attach to one instruction (R35), kind 0b00 words only where the form takes them, and reserved
bits are zero: a nonzero reserved bit is executed as zero (R32), so a well-formed term has none. -/
def Ctl.wf (c : Ctl) (use : ImmUse) (long : Bool) : Bool :=
  !c.rsv &&
  decide (c.imms.length + c.mods.isSome.toNat + long.toNat ≤ 2) &&
  (match use with
   | .refused => c.imms.isEmpty
   | .reserved => c.imms.all (· == 0)
   | .value => true)

/-- The checks of a form's own fields: reserved immediate bits of the shifts (R80), the unassigned scopes of FENCE (R39),
the reserved b field of VPERM without a lane selector (R128). -/
def Instr.fieldsWf : Instr → Bool
  | .shli _ _ _ i => decide (i.val < 64)
  | .shri _ _ _ i => decide (i.val < 64)
  | .sari _ _ _ i => decide (i.val < 64)
  | .fence _ _ s => decide (s ≠ .unset)
  | .vperm _ _ _ b x => decide (64 ≤ x.val) || b == ⟨0, .row, 0⟩
  | _ => true

/-- Well-formed words. A hardware step is no word and is well-formed as it stands. -/
def Instr.wf (i : Instr) : Bool :=
  match i.ctl with
  | none => true
  | some c => c.wf i.immUse i.isLong && i.fieldsWf

end Sys2Proof
end

