-- ==== Sys2Proof/Decode.lean ====
section
/-! DEFINITION. The decoder, total on any words and any bytes, rejecting by name (R32, R35 to R47), and after it the
encoder, written from the same encoding tables. Bit 0 is the least significant bit of the first word. -/

namespace Sys2Proof

/-- Why a word is no instruction (R32). The first group is an illegal-encoding fault, the last an illegal-instruction
fault. Where several apply, the first in this order is reported (log 8). -/
inductive DecErr where
  | noWord            -- no 32-bit word at all
  | engine            -- E = 0b110
  | orphanExt         -- an EXT word with nothing to attach to
  | extKind           -- an EXT word of kind 0b11
  | extDuplicate      -- two EXT words of one kind other than 0b00
  | modUnassigned     -- an unassigned value in a modifier field
  | extRefused        -- an EXT kind the instruction does not accept
  | longMissing       -- V long form without its kind 0b10 word
  | opUnassigned      -- an unassigned opcode, function code or condition code
  deriving DecidableEq, Repr

/-- Illegal encoding (cause 0x03) or illegal instruction (cause 0x02, subcause opcode). -/
def DecErr.isEncoding : DecErr → Bool
  | .opUnassigned => false
  | _ => true

/-- The field of a word that starts at bit `lo` and has `n` values. -/
def fld (n : Nat) [NeZero n] (w lo : Nat) : Fin n := Fin.ofNat n (w / 2 ^ lo)

/-- The same field as a number. -/
def fldN (w lo len : Nat) : Nat := w / 2 ^ lo % 2 ^ len

/-- One-bit field. -/
def bit (w lo : Nat) : Bool := w / 2 ^ lo % 2 == 1

/-! Field codes, decoded and encoded. -/

def Size.code : Size → Nat
  | .b => 0 | .h => 1 | .w => 2 | .d => 3

def Size.ofCode : Nat → Size
  | 0 => .b | 1 => .h | 2 => .w | _ => .d

def Cond.code : Cond → Nat
  | .eq => 0 | .ne => 1 | .lt => 2 | .ge => 3 | .le => 4 | .gt => 5 | .ltn => 6 | .gen => 7 | .len => 8 | .gtn => 9

def Cond.ofCode : Nat → Option Cond
  | 0 => some .eq | 1 => some .ne | 2 => some .lt | 3 => some .ge | 4 => some .le | 5 => some .gt
  | 6 => some .ltn | 7 => some .gen | 8 => some .len | 9 => some .gtn | _ => none

def Dir.code : Dir → Nat
  | .row => 0 | .col => 1 | .diag => 2 | .anti => 3

def Dir.ofCode : Nat → Dir
  | 0 => .row | 1 => .col | 2 => .diag | _ => .anti

/-- A plane operand field (R43). -/
def PlaneOp.code (p : PlaneOp) : Nat := 16 * p.z.val + 4 * p.dir.code + p.k.val

def PlaneOp.ofCode (n : Nat) : PlaneOp := ⟨fld 8 n 4, Dir.ofCode (fldN n 2 2), fld 4 n 0⟩

def Fmt.code : Fmt → Nat
  | .dflt => 0 | .i4 => 1 | .i8 => 2 | .i32 => 3 | .q4g32 => 4 | .q4g64 => 5 | .q4g128 => 6 | .q8g32 => 7
  | .q8g64 => 8 | .q8g128 => 9 | .e4m3 => 10 | .e5m2 => 11 | .fp16 => 12 | .bf16 => 13 | .fp32 => 14

def Fmt.ofCode : Nat → Option Fmt
  | 0 => some .dflt | 1 => some .i4 | 2 => some .i8 | 3 => some .i32 | 4 => some .q4g32 | 5 => some .q4g64
  | 6 => some .q4g128 | 7 => some .q8g32 | 8 => some .q8g64 | 9 => some .q8g128 | 10 => some .e4m3
  | 11 => some .e5m2 | 12 => some .fp16 | 13 => some .bf16 | 14 => some .fp32 | _ => none

def GroupFmt.code : GroupFmt → Nat
  | .q4g32 => 4 | .q4g64 => 5 | .q4g128 => 6 | .q8g32 => 7 | .q8g64 => 8 | .q8g128 => 9

def GroupFmt.ofCode : Nat → Option GroupFmt
  | 4 => some .q4g32 | 5 => some .q4g64 | 6 => some .q4g128 | 7 => some .q8g32 | 8 => some .q8g64
  | 9 => some .q8g128 | _ => none

def Rnd.code : Rnd → Nat
  | .rm => 0 | .rne => 1 | .rtz => 2 | .rup => 3 | .rdn => 4 | .dth => 5

def Rnd.ofCode : Nat → Option Rnd
  | 0 => some .rm | 1 => some .rne | 2 => some .rtz | 3 => some .rup | 4 => some .rdn | 5 => some .dth | _ => none

def MaskSel.code : MaskSel → Nat
  | .l0 => 0 | .l1 => 1 | .l2 => 2 | .l3 => 3 | .all => 4

def MaskSel.ofCode : Nat → Option MaskSel
  | 0 => some .l0 | 1 => some .l1 | 2 => some .l2 | 3 => some .l3 | 4 => some .all | _ => none

def Scope.code : Scope → Nat
  | .unset => 0 | .thread => 1 | .core => 2 | .station => 3 | .modul => 4 | .domain => 5 | .system => 6

def Scope.ofCode : Nat → Option Scope
  | 0 => some .unset | 1 => some .thread | 2 => some .core | 3 => some .station | 4 => some .modul
  | 5 => some .domain | 6 => some .system | _ => none

def Order.code : Order → Nat
  | .plain => 0 | .acquire => 1 | .release => 2 | .acqRel => 3

def Order.ofCode : Nat → Order
  | 0 => .plain | 1 => .acquire | 2 => .release | _ => .acqRel

def Flush.code : Flush → Nat
  | .fz => 0 | .flush => 1 | .noFlush => 2

def Flush.ofCode : Nat → Option Flush
  | 0 => some .fz | 1 => some .flush | 2 => some .noFlush | _ => none

def AmoOp.code : AmoOp → Nat
  | .add => 0 | .and => 1 | .or => 2 | .xor => 3 | .min => 4 | .max => 5 | .minn => 6 | .maxn => 7 | .xchg => 8

def AmoOp.ofCode : Nat → Option AmoOp
  | 0 => some .add | 1 => some .and | 2 => some .or | 3 => some .xor | 4 => some .min | 5 => some .max
  | 6 => some .minn | 7 => some .maxn | 8 => some .xchg | _ => none

def FenceKind.code : FenceKind → Nat
  | .acqRel => 0 | .acq => 1 | .rel => 2

def FenceKind.ofCode : Nat → Option FenceKind
  | 0 => some .acqRel | 1 => some .acq | 2 => some .rel | _ => none

def CmoOp.code : CmoOp → Nat
  | .clean => 0 | .inval => 1 | .flush => 2

def CmoOp.ofCode : Nat → Option CmoOp
  | 0 => some .clean | 1 => some .inval | 2 => some .flush | _ => none

def ScanOp.code : ScanOp → Nat
  | .sum => 0 | .max => 1 | .min => 2

def ScanOp.ofCode : Nat → Option ScanOp
  | 0 => some .sum | 1 => some .max | 2 => some .min | _ => none

/-- Control register numbers (R97). -/
def CReg.number : CReg → Nat
  | .cyc => 0x000 | .tb => 0x001 | .tbskew => 0x002 | .dl => 0x008 | .bud => 0x009 | .ywin => 0x00A | .preq => 0x00B
  | .rm => 0x010 | .fz => 0x011 | .dph => 0x012 | .flags => 0x013 | .segtag => 0x018 | .slate => 0x019
  | .jobid => 0x01A | .cprog => 0x01B | .dt i => 0x020 + i.val | .lc => 0x028 | .ec => 0x029 | .kinc => 0x02A
  | .pred => 0x02B | .rrb => 0x02C

def CReg.ofNumber : Nat → Option CReg
  | 0x000 => some .cyc | 0x001 => some .tb | 0x002 => some .tbskew | 0x008 => some .dl | 0x009 => some .bud
  | 0x00A => some .ywin | 0x00B => some .preq | 0x010 => some .rm | 0x011 => some .fz | 0x012 => some .dph
  | 0x013 => some .flags | 0x018 => some .segtag | 0x019 => some .slate | 0x01A => some .jobid | 0x01B => some .cprog
  | 0x020 => some (.dt 0) | 0x021 => some (.dt 1) | 0x022 => some (.dt 2) | 0x023 => some (.dt 3)
  | 0x028 => some .lc | 0x029 => some .ec | 0x02A => some .kinc | 0x02B => some .pred | 0x02C => some .rrb
  | _ => none

/-! Extension words (R35, R36). -/

/-- The modifier word's fields; none where a field holds an unassigned value. The flag says whether bits 3:0 are nonzero. -/
def Mods.ofBody (b : Nat) : Option (Mods × Bool) := do
  let type ← Fmt.ofCode (fldN b 23 4)
  let rnd ← Rnd.ofCode (fldN b 20 3)
  let mask ← MaskSel.ofCode (fldN b 16 3)
  let scope ← Scope.ofCode (fldN b 8 3)
  let fl ← Flush.ofCode (fldN b 4 2)
  pure ({ type := type, rnd := rnd, sat := bit b 19, mask := mask, gen := bit b 15, gneg := bit b 14, gp := fld 8 b 11,
          scope := scope, ord := Order.ofCode (fldN b 6 2), flush := fl }, fldN b 0 4 != 0)

/-- The body of a modifier word. -/
def Mods.body (m : Mods) : Nat :=
  m.type.code * 2 ^ 23 + m.rnd.code * 2 ^ 20 + m.sat.toNat * 2 ^ 19 + m.mask.code * 2 ^ 16 + m.gen.toNat * 2 ^ 15
    + m.gneg.toNat * 2 ^ 14 + m.gp.val * 2 ^ 11 + m.scope.code * 2 ^ 8 + m.ord.code * 2 ^ 6 + m.flush.code * 2 ^ 4

/-- What the EXT words of one instruction hold, gathered. -/
structure Exts where
  imms : List (Fin (2 ^ 27)) := []
  mods : Option Mods := none
  long : Option Nat := none
  rsv : Bool := false

/-- Adds one EXT word (32 bits, E = 0b111). -/
def Exts.add (e : Exts) (w : Nat) : Except DecErr Exts :=
  match fldN w 27 2 with
  | 0 => .ok { e with imms := e.imms ++ [fld (2 ^ 27) w 0] }
  | 1 =>
    match e.mods with
    | some _ => .error .extDuplicate
    | none =>
      match Mods.ofBody (fldN w 0 27) with
      | none => .error .modUnassigned
      | some (m, r) => .ok { e with mods := some m, rsv := e.rsv || r }
  | 2 =>
    match e.long with
    | some _ => .error .extDuplicate
    | none => .ok { e with long := some (fldN w 0 27) }
  | _ => .error .extKind

/-- The EXT words in stream order. -/
def Exts.gather : List Nat → Exts → Except DecErr Exts
  | [], e => .ok e
  | w :: ws, e =>
    match e.add w with
    | .error r => .error r
    | .ok e' => gather ws e'

/-- What a payload decodes to before its control part is filled in: the form, and whether a reserved field is nonzero. -/
abbrev Form := (Ctl → Instr) × Bool

/-- A form without a nonzero reserved field exactly where the given reserved bits are zero. -/
def form (rsvBits : Nat) (mk : Ctl → Instr) : Option Form := some (mk, rsvBits != 0)

/-! Payloads. -/

/-- ALU groups 0 and 1 (R40). -/
def decodeAlu0 (d a b : SReg) : Nat → Option Form
  | 0 => form 0 (.add · d a b)
  | 1 => form 0 (.sub · d a b)
  | 2 => form 0 (.mul · d a b)
  | 3 => form 0 (.mulhi · d a b)
  | 4 => form 0 (.mulhn · d a b)
  | 5 => form 0 (.div · d a b)
  | 6 => form 0 (.divn · d a b)
  | 7 => form 0 (.rem · d a b)
  | 8 => form 0 (.remn · d a b)
  | 9 => form 0 (.and · d a b)
  | 10 => form 0 (.or · d a b)
  | 11 => form 0 (.xor · d a b)
  | 12 => form 0 (.andn · d a b)
  | 13 => form 0 (.shl · d a b)
  | 14 => form 0 (.shr · d a b)
  | 15 => form 0 (.sar · d a b)
  | _ => none

def decodeAlu1 (d a b : SReg) : Nat → Option Form
  | 0 => form 0 (.rol · d a b)
  | 1 => form 0 (.min · d a b)
  | 2 => form 0 (.max · d a b)
  | 3 => form 0 (.minn · d a b)
  | 4 => form 0 (.maxn · d a b)
  | 5 => form b.val (.clz · d a)
  | 6 => form b.val (.popc · d a)
  | 7 => form b.val (.brev · d a)
  | _ => none

/-- S words (R38 to R41). The payload is bits 24:0 of the word. -/
def decodeS (p : Nat) : Option Form :=
  let d := fld 32 p 14
  let a := fld 32 p 9
  let b := fld 32 p 4
  let f := fldN p 0 4
  let i9 := fld 512 p 0
  let disp := fld 32768 p 0
  let sz := Size.ofCode (fldN p 19 2)
  match fldN p 19 6 with
  | 0x00 => decodeAlu0 d a b f
  | 0x01 => decodeAlu1 d a b f
  | 0x02 => form 0 (.sel · d a b (bit p 3) (fld 8 p 0))
  | 0x03 => (Cond.ofCode f).bind fun cc => form (fldN p 17 2) (.cmp · (fld 8 p 14) a b cc)
  | 0x04 =>
    let hi := fldN p 17 2 + fldN p 12 2 + fldN p 7 2
    match f with
    | 0 => form hi (.pand · (fld 8 p 14) (fld 8 p 9) (fld 8 p 4))
    | 1 => form hi (.por · (fld 8 p 14) (fld 8 p 9) (fld 8 p 4))
    | 2 => form hi (.pxor · (fld 8 p 14) (fld 8 p 9) (fld 8 p 4))
    | 3 => form (fldN p 17 2 + fldN p 12 2 + b.val) (.pnot · (fld 8 p 14) (fld 8 p 9))
    | _ => none
  | 0x05 => form 0 (.lea · d a b (fld 16 p 0))
  | 0x06 => (CReg.ofNumber (fldN p 4 10)).bind fun r => form f (.getc · d r)
  | 0x07 => (CReg.ofNumber (fldN p 4 10)).bind fun r => form f (.setc · d r)
  | 0x08 => form 0 (.addi · d a i9)
  | 0x09 => form 0 (.andi · d a i9)
  | 0x0A => form 0 (.ori · d a i9)
  | 0x0B => form 0 (.xori · d a i9)
  | 0x0C => form (fldN p 6 3) (.shli · d a i9)
  | 0x0D => form (fldN p 6 3) (.shri · d a i9)
  | 0x0E => form (fldN p 6 3) (.sari · d a i9)
  | 0x0F => form 0 (.li · d (fld 16384 p 0))
  | 0x10 => (Cond.ofCode (fldN p 17 2)).bind fun cc => form 0 (.cmpi · (fld 8 p 14) a i9 cc)
  | 0x11 => (Cond.ofCode (4 + fldN p 17 2)).bind fun cc => form 0 (.cmpi · (fld 8 p 14) a i9 cc)
  | 0x12 => (Cond.ofCode (8 + fldN p 17 2)).bind fun cc => form 0 (.cmpi · (fld 8 p 14) a i9 cc)
  | 0x14 => form (fldN p 15 4) (.br · disp)
  | 0x15 => form 0 (.brc · (fld 8 p 16) (bit p 15) disp)
  | 0x16 => form (fldN p 15 4) (.call · disp)
  | 0x17 => form (d.val + b.val + f) (.ret · a)
  | 0x18 => form (d.val + f) (.jtab · a b)
  | 0x19 => form (fldN p 2 7) (.loop · d a (bit p 1) (bit p 0))
  | 0x1A => form (fldN p 15 4) (.loopend · disp)
  | 0x1B => form (d.val + a.val + b.val) (.brk · (fld 16 p 0))
  | 0x1C => if f < 8 then form (a.val + b.val) (.slate · d (fld 8 p 0)) else none
  | 0x1D => form (d.val + a.val + b.val + f) .retire
  | 0x20 => form 0 (.lds · sz d a i9)
  | 0x21 => form 0 (.lds · sz d a i9)
  | 0x22 => form 0 (.lds · sz d a i9)
  | 0x23 => form 0 (.lds · sz d a i9)
  | 0x24 => form 0 (.sts · sz d a i9)
  | 0x25 => form 0 (.sts · sz d a i9)
  | 0x26 => form 0 (.sts · sz d a i9)
  | 0x27 => form 0 (.sts · sz d a i9)
  | 0x28 => form 0 (.ld · sz d a i9)
  | 0x29 => form 0 (.ld · sz d a i9)
  | 0x2A => form 0 (.ld · sz d a i9)
  | 0x2B => form 0 (.ld · sz d a i9)
  | 0x2C => form 0 (.st · sz d a i9)
  | 0x2D => form 0 (.st · sz d a i9)
  | 0x2E => form 0 (.st · sz d a i9)
  | 0x2F => form 0 (.st · sz d a i9)
  | 0x30 => form 0 (.ldp · sz d a (fld 8 p 6) (fld 64 p 0))
  | 0x31 => form 0 (.ldp · sz d a (fld 8 p 6) (fld 64 p 0))
  | 0x32 => form 0 (.ldp · sz d a (fld 8 p 6) (fld 64 p 0))
  | 0x33 => form 0 (.ldp · sz d a (fld 8 p 6) (fld 64 p 0))
  | 0x34 => (AmoOp.ofCode f).bind fun op => form 0 (.amo · false d a b op)
  | 0x35 => (AmoOp.ofCode f).bind fun op => form 0 (.amo · true d a b op)
  | 0x36 => form f (.cas · false d a b)
  | 0x37 => form f (.cas · true d a b)
  | 0x38 => form f (.enq · d a b)
  | 0x39 => form f (.deq · d a b)
  | 0x3A =>
    match FenceKind.ofCode (fldN p 14 2), Scope.ofCode (fldN p 0 3) with
    | some k, some s =>
      if s = .unset then none else form (fldN p 16 3 + a.val + b.val + fldN p 3 1) (.fence · k s)
    | _, _ => none
  | 0x3B => form (d.val + a.val + b.val + f) .xfence
  | 0x3C =>
    match CmoOp.ofCode (fldN p 0 2), fldN p 2 2 with
    | some op, 0 => form d.val (.cmo · a b op false)
    | some op, 1 => form d.val (.cmo · a b op true)
    | _, _ => none
  | 0x3D =>
    match d.val with
    | 0 => form 0 (.pref · false a i9)
    | 1 => form 0 (.pref · true a i9)
    | _ => none
  | 0x3E =>
    match f with
    | 0 => form (fldN p 17 2 + a.val + b.val) (.postS · (fld 8 p 14))
    | 1 => form (fldN p 17 2 + a.val + b.val) (.waitS · (fld 8 p 14))
    | 2 => form (d.val + a.val + b.val) .rdv
    | _ => none
  | _ => none

/-- Y words (R42). -/
def decodeY (p : Nat) : Option Form :=
  let d := fld 32 p 14
  let a := fld 32 p 9
  let b := fld 32 p 4
  let f := fldN p 0 4
  let i9 := fld 512 p 0
  match fldN p 19 6 with
  | 0x00 => form (d.val + f) (.binit · a b)
  | 0x01 => form (d.val + f) (.barv · a b)
  | 0x02 => form (d.val + f) (.bexp · a b)
  | 0x03 => form (d.val + b.val + f) (.bwait · a)
  | 0x04 => form (d.val + a.val + b.val + f) .yield_
  | 0x05 => form (a.val + b.val + f) (.pchk · d)
  | 0x06 => form (d.val + b.val + f) (.budg · a)
  | 0x07 => form (d.val + b.val + f) (.segwait · a)
  | 0x08 => form (d.val + f) (.accept · a b)
  | 0x09 => form (d.val + b.val + f) (.commit · a)
  | 0x0A => form (d.val + b.val + fldN p 1 3) (.timewait · a (bit p 0))
  | 0x0B => form (d.val + f) (.ttarm · a b)
  | 0x0C => form (d.val + a.val) (.syscall · i9)
  | 0x0D => form (d.val + a.val) (.trap · i9)
  | 0x0E => form d.val (.sqtrap · a i9)
  | 0x0F => form (d.val + f) (.telm · a b)
  | 0x10 => form (b.val + f) (.frzinfo · d a)
  | 0x11 => form b.val (.frzrd · d a (fld 16 p 0))
  | 0x12 => form d.val (.frzwr · a b (fld 16 p 0))
  | 0x13 => form f (.frzld · d a b)
  | 0x14 => form f (.frzst · d a b)
  | 0x15 => form (d.val + f) (.frzarv · a b)
  | 0x16 => form (d.val + f) (.frzres · a b)
  | 0x17 => form (d.val + b.val + f) (.frzkil · a)
  | 0x18 => form (d.val + b.val + f) (.haltx · a)
  | _ => none

/-- V short forms (R43). -/
def decodeVShort (p : Nat) : Option Form :=
  let d := PlaneOp.ofCode (fldN p 14 7)
  let a := PlaneOp.ofCode (fldN p 7 7)
  let b := PlaneOp.ofCode (fldN p 0 7)
  let bn := fldN p 0 7
  match fldN p 21 4 with
  | 0 => form 0 (.vadd · d a b)
  | 1 => form 0 (.vsub · d a b)
  | 2 => form 0 (.vmul · d a b)
  | 3 => form 0 (.vfma · d a b)
  | 4 => form 0 (.vfms · d a b)
  | 5 => form 0 (.vmin · d a b)
  | 6 => form 0 (.vmax · d a b)
  | 7 => form bn (.vabs · d a)
  | 8 => form bn (.vneg · d a)
  | 9 => form bn (.vmov · d a)
  | 10 => form bn (.vrsum · d a)
  | 11 => form bn (.vrmax · d a)
  | 12 => form bn (.vrmin · d a)
  | 13 => form bn (.vrssq · d a)
  | 14 => form bn (.vexp2 · d a)
  | _ => none

/-- V long forms (R44): the payload and the body of the kind 0b10 word. -/
def decodeVLong (p l : Nat) : Option Form :=
  let d := PlaneOp.ofCode (fldN p 14 7)
  let a := PlaneOp.ofCode (fldN p 7 7)
  let b := PlaneOp.ofCode (fldN p 0 7)
  let dn := fldN p 14 7
  let an := fldN p 7 7
  let bn := fldN p 0 7
  let c := fldN l 12 7
  let i := fldN l 0 12
  match fldN l 19 8 with
  | 0x10 => form (c + i) (.viadd · d a b)
  | 0x11 => form (c + i) (.visub · d a b)
  | 0x12 => form (c + i) (.vimul · d a b)
  | 0x13 => form (c + i) (.vimac · d a b)
  | 0x14 => form (c + i) (.vimin · d a b)
  | 0x15 => form (c + i) (.vimax · d a b)
  | 0x16 => form (c + i) (.vshl · d a b)
  | 0x17 => form (c + i) (.vshr · d a b)
  | 0x18 => form (c + i) (.vsar · d a b)
  | 0x19 => form (c + i) (.vand · d a b)
  | 0x1a => form (c + i) (.vor · d a b)
  | 0x1b => form (c + i) (.vxor · d a b)
  | 0x20 => (Cond.ofCode (fldN l 0 4)).bind fun cc => form (fldN p 16 5 + c + fldN l 4 8) (.vcmp · (fld 4 p 14) a b cc)
  | 0x21 => form (c + fldN l 2 10) (.vsel · d a b (fld 4 l 0))
  | 0x22 => (Fmt.ofCode (fldN l 0 4)).bind fun s => form (bn + c + fldN l 4 8) (.vcvt · d a s)
  | 0x23 => (GroupFmt.ofCode (fldN l 0 4)).bind fun g => form (bn + fldN l 4 8) (.vqnt · d a (PlaneOp.ofCode c) g)
  | 0x24 => (GroupFmt.ofCode (fldN l 0 4)).bind fun g => form (bn + fldN l 4 8) (.vdqnt · d a (PlaneOp.ofCode c) g)
  | 0x28 => form (bn + c + i) (.vlog2 · d a)
  | 0x29 => form (bn + c + i) (.vrcp · d a)
  | 0x2A => form (bn + c + i) (.vrsq · d a)
  | 0x30 => form (fldN p 19 2 + bn + fldN l 17 2 + i) (.vimaxIdx · (fld 32 p 14) a (fld 32 l 12))
  | 0x38 => form (fldN p 12 2 + bn + c + i) (.vbcst · d (fld 32 p 7))
  | 0x39 => form (fldN p 12 2 + bn + c) (.vld · d (fld 32 p 7) (fld 4096 l 0))
  | 0x3A => form (fldN p 12 2 + bn + c) (.vst · d (fld 32 p 7) (fld 4096 l 0))
  | 0x3B => form (fldN p 12 2 + c + i) (.vgth · d (fld 32 p 7) b)
  | 0x3C =>
    if bit l 6 then form (c + fldN l 7 5) (.vperm · d a b (fld 128 l 0))
    else form (bn + c + fldN l 7 5) (.vperm · d a ⟨0, .row, 0⟩ (fld 128 l 0))
  | 0x3D => form (c + fldN l 7 5) (.vshf · d a b (fld 128 l 0))
  | 0x3E => (ScanOp.ofCode (fldN l 0 2)).bind fun op => form (bn + c + fldN l 2 10) (.vscan · d a op)
  | 0x40 => form (dn + fldN p 12 2 + bn + c) (.vkset · (fld 4 l 0) (fld 32 p 7) (fld 1024 l 2))
  | 0x41 => form (dn + fldN p 12 2 + bn + c) (.vkadd · (fld 4 l 0) (fld 32 p 7) (fld 1024 l 2))
  | 0x42 => form (fldN p 16 5 + fldN p 9 5 + fldN p 2 5 + c + i) (.mskand · (fld 4 p 14) (fld 4 p 7) (fld 4 p 0))
  | 0x43 => form (fldN p 16 5 + fldN p 9 5 + fldN p 2 5 + c + i) (.mskor · (fld 4 p 14) (fld 4 p 7) (fld 4 p 0))
  | 0x44 => form (fldN p 16 5 + fldN p 9 5 + fldN p 2 5 + c + i) (.mskxor · (fld 4 p 14) (fld 4 p 7) (fld 4 p 0))
  | 0x45 => form (fldN p 16 5 + fldN p 9 5 + bn + c + i) (.msknot · (fld 4 p 14) (fld 4 p 7))
  | 0x46 => form (fldN p 16 5 + fldN p 12 2 + bn + c + i) (.mskmov · (fld 4 p 14) (fld 32 p 7))
  | 0x47 => form (fldN p 16 5 + fldN p 12 2 + bn + c + i) (.mskget · (fld 32 p 7) (fld 4 p 14))
  | 0x48 => form (fldN p 12 2 + bn + fldN l 17 2 + fldN l 1 11) (.vrand · d (fld 32 p 7) (fld 32 l 12) (bit l 0))
  | 0x4C => form (dn + an + bn + c + fldN l 3 9) (.postV · (fld 8 l 0))
  | 0x4D => form (dn + an + bn + c + fldN l 3 9) (.waitV · (fld 8 l 0))
  | _ => none

/-- M words (R45, R155). -/
def decodeM (p : Nat) : Option Form :=
  let g := fld 16 p 16
  let h := fld 16 p 12
  let a := fld 32 p 0
  let gh := g.val + h.val
  match fldN p 20 5 with
  | 0x00 => form (gh + fldN p 0 12) .mlease
  | 0x01 => form (gh + fldN p 0 12) .mfree
  | 0x02 => form (h.val + fldN p 5 7) (.mstrl · g a)
  | 0x03 => form (h.val + fldN p 5 7) (.mstrs · g a)
  | 0x04 => form (h.val + fldN p 10 2) (.mstrf · g a (fld 32 p 5))
  | 0x05 => form (gh + fldN p 5 7) (.mnest · a)
  | 0x06 => form (fldN p 7 5) (.mmm · g h a (bit p 5) (bit p 6))
  | 0x07 => form (h.val + fldN p 6 6) (.mmc · g a (bit p 5))
  | 0x08 => form (gh + fldN p 5 7) (.aclr · a)
  | 0x09 => form (gh + fldN p 10 2) (.ard · (fld 8 p 7) (fld 4 p 5) a)
  | 0x0A => form (gh + fldN p 10 2) (.awr · (fld 8 p 7) (fld 4 p 5) a)
  | 0x0B =>
    if bit p 10 then form (gh + fldN p 11 1) (.acpyToAccumulator · a (fld 32 p 5))
    else form (gh + fldN p 11 1) (.acpyToCoreStore · a (fld 32 p 5))
  | 0x0C => form (gh + fldN p 5 7) (.mchk · (fld 32 p 0))
  | 0x0D => form (gh + fldN p 4 8) (.mwait · (bit p 3) (fld 8 p 0))
  | 0x0E => form (gh + fldN p 3 9) (.postM · (fld 8 p 0))
  | 0x0F => form (gh + fldN p 3 9) (.waitM · (fld 8 p 0))
  | _ => none

/-- C words (R46, R217). -/
def decodeC (p : Nat) : Option Form :=
  let a := fld 32 p 15
  let b := fld 32 p 10
  let x := fld 32 p 5
  let f := fldN p 0 5
  match fldN p 20 5 with
  | 0x00 => form (x.val + f) (.cpy · a b)
  | 0x01 => form f (.cgth · a b x)
  | 0x02 => form f (.csct · a b x)
  | 0x03 => form f (.cbcst · a b x)
  | 0x04 => form f (.xput · a b x)
  | 0x05 => form (x.val + f) (.xget · a b)
  | 0x06 => form f (.kvapp · a b x)
  | 0x07 => form f (.kvcmp · a b x)
  | 0x08 => form f (.seghold · a b x)
  | 0x09 => form (a.val + b.val + x.val + fldN p 4 1) (.cwait · (bit p 3) (fld 8 p 0))
  | 0x0A => form (a.val + b.val + x.val + f) .ccncl
  | 0x0B => form (a.val + b.val + x.val + fldN p 3 2) (.postC · (fld 8 p 0))
  | 0x0C => form (a.val + b.val + x.val + fldN p 3 2) (.waitC · (fld 8 p 0))
  | _ => none

/-- X words (R47, R335). -/
def decodeX (p : Nat) : Option Form :=
  let t := fld 16 p 17
  let a := fld 32 p 12
  let b := fld 32 p 7
  let f := fldN p 0 7
  match fldN p 21 4 with
  | 0 => form (b.val + f) (.tapsel · t a)
  | 1 => form (b.val + fldN p 0 4) (.tapstr · t a (fld 8 p 4))
  | 2 => form (fldN p 0 4) (.tapdot · t a b (fld 8 p 4))
  | 3 => form (fldN p 2 5) (.tapeval · t a b (fld 4 p 0))
  | 4 => form (t.val + b.val + f) (.tapclr · a)
  | 5 => form f (.taprd · t a b)
  | 6 => form f (.tapprb · t a b)
  | 7 => form (t.val + f) (.tapstv · a b)
  | 8 => form (t.val + a.val + b.val + fldN p 3 4) (.postX · (fld 8 p 0))
  | 9 => form (t.val + a.val + b.val + fldN p 3 4) (.waitX · (fld 8 p 0))
  | _ => none

/-- The payload of a word under its engine field (R24), with the long-form body where there is one. -/
def decodePayload (e p : Nat) (long : Option Nat) : Except DecErr Form :=
  let opt : Option Form → Except DecErr Form
    | some f => .ok f
    | none => .error .opUnassigned
  match e with
  | 0 => opt (decodeS p)
  | 1 =>
    if fldN p 21 4 = 15 then
      match long with
      | none => .error .longMissing
      | some l => opt (decodeVLong p l)
    else opt (decodeVShort p)
  | 2 => opt (decodeM p)
  | 3 => opt (decodeC p)
  | 4 => opt (decodeY p)
  | 5 => opt (decodeX p)
  | 6 => .error .engine
  | _ => .error .orphanExt

/-- One instruction: its word and the EXT words attached to it, all of 32 bits. -/
def decodeInstr (w : Nat) (exts : List Nat) : Except DecErr Instr :=
  let e := fldN w 29 3
  if e = 6 then .error .engine
  else if e = 7 then .error .orphanExt
  else
    match Exts.gather exts {} with
    | .error r => .error r
    | .ok x =>
      match decodePayload e (fldN w 0 25) x.long with
      | .error r => .error r
      | .ok (mk, rsv) =>
        let c : Ctl := { v := fld 4 w 27, d := fld 4 w 25, mods := x.mods, imms := x.imms, rsv := false }
        let i := mk c
        if x.long.isSome && !i.isLong then .error .extRefused
        else
          match i.immUse with
          | .refused => if x.imms.isEmpty then .ok (mk { c with rsv := rsv || x.rsv }) else .error .extRefused
          | .reserved => .ok (mk { c with rsv := rsv || x.rsv || x.imms.any (· != 0) })
          | .value => .ok (mk { c with rsv := rsv || x.rsv })

/-- Whether a word is an EXT word (R35). -/
def isExt (w : Nat) : Bool := fldN w 29 3 == 7

/-- The EXT words that follow in the stream, at most two (R35). -/
def takeExts : Nat → List Nat → List Nat
  | 0, _ => []
  | _ + 1, [] => []
  | n + 1, w :: ws => if isExt w then w :: takeExts n ws else []

/-- The decoder: the first instruction of a stream of 32-bit words, and the words after it. -/
def decodeWords : List Nat → Except DecErr (Instr × List Nat)
  | [] => .error .noWord
  | w :: ws =>
    let exts := takeExts 2 ws
    match decodeInstr w exts with
    | .error r => .error r
    | .ok i => .ok (i, ws.drop exts.length)

/-- Bytes as little-endian 32-bit words (R7); bytes that do not fill a word are dropped. -/
def wordsOfBytes : List Byte → List Nat
  | a :: b :: c :: d :: rest =>
    (a.toNat + b.toNat * 2 ^ 8 + c.toNat * 2 ^ 16 + d.toNat * 2 ^ 24) :: wordsOfBytes rest
  | _ => []

/-- The decoder over bytes. -/
def decodeBytes (bs : List Byte) : Except DecErr (Instr × List Nat) := decodeWords (wordsOfBytes bs)

/-- A word of 32 bits as its four bytes, least significant first (R7). -/
def bytesOfWord (w : Nat) : List Byte :=
  [BitVec.ofNat 8 w, BitVec.ofNat 8 (w / 2 ^ 8), BitVec.ofNat 8 (w / 2 ^ 16), BitVec.ofNat 8 (w / 2 ^ 24)]

/-- The instruction read from bits numbered as spec/opcode_table.json numbers them, all bits above `nbits` zero. -/
def decodeTableWord (nbits w : Nat) : Option Instr :=
  let v := w % 2 ^ nbits
  match decodeBytes (bytesOfWord v ++ bytesOfWord (v / 2 ^ 32) ++ bytesOfWord (v / 2 ^ 64)) with
  | .ok (i, _) => some i
  | .error _ => none

/-! The encoder. -/

/-- Payload layouts of R38, R43, R45, R46, R47 and the long-form body of R44. -/
def sa (op d a b f : Nat) : Nat := op * 2 ^ 19 + d * 2 ^ 14 + a * 2 ^ 9 + b * 2 ^ 4 + f
def si (op d a i : Nat) : Nat := op * 2 ^ 19 + d * 2 ^ 14 + a * 2 ^ 9 + i
def sb (op p n disp : Nat) : Nat := op * 2 ^ 19 + p * 2 ^ 16 + n * 2 ^ 15 + disp
def vw (op d a b : Nat) : Nat := op * 2 ^ 21 + d * 2 ^ 14 + a * 2 ^ 7 + b
def lw (op c i : Nat) : Nat := op * 2 ^ 19 + c * 2 ^ 12 + i
def mw (op g h f : Nat) : Nat := op * 2 ^ 20 + g * 2 ^ 16 + h * 2 ^ 12 + f
def cw (op a b c f : Nat) : Nat := op * 2 ^ 20 + a * 2 ^ 15 + b * 2 ^ 10 + c * 2 ^ 5 + f
def xw (op t a b f : Nat) : Nat := op * 2 ^ 21 + t * 2 ^ 17 + a * 2 ^ 12 + b * 2 ^ 7 + f

/-- Engine, payload and long-form EXT body of a word, from the layouts of R38 to R47; none for a hardware step. -/
def Instr.code : Instr → Option (Nat × Nat × Option Nat)
  | .add _ d a b => some (0, sa 0x00 d.val a.val b.val 0, none)
  | .sub _ d a b => some (0, sa 0x00 d.val a.val b.val 1, none)
  | .mul _ d a b => some (0, sa 0x00 d.val a.val b.val 2, none)
  | .mulhi _ d a b => some (0, sa 0x00 d.val a.val b.val 3, none)
  | .mulhn _ d a b => some (0, sa 0x00 d.val a.val b.val 4, none)
  | .div _ d a b => some (0, sa 0x00 d.val a.val b.val 5, none)
  | .divn _ d a b => some (0, sa 0x00 d.val a.val b.val 6, none)
  | .rem _ d a b => some (0, sa 0x00 d.val a.val b.val 7, none)
  | .remn _ d a b => some (0, sa 0x00 d.val a.val b.val 8, none)
  | .and _ d a b => some (0, sa 0x00 d.val a.val b.val 9, none)
  | .or _ d a b => some (0, sa 0x00 d.val a.val b.val 10, none)
  | .xor _ d a b => some (0, sa 0x00 d.val a.val b.val 11, none)
  | .andn _ d a b => some (0, sa 0x00 d.val a.val b.val 12, none)
  | .shl _ d a b => some (0, sa 0x00 d.val a.val b.val 13, none)
  | .shr _ d a b => some (0, sa 0x00 d.val a.val b.val 14, none)
  | .sar _ d a b => some (0, sa 0x00 d.val a.val b.val 15, none)
  | .rol _ d a b => some (0, sa 0x01 d.val a.val b.val 0, none)
  | .min _ d a b => some (0, sa 0x01 d.val a.val b.val 1, none)
  | .max _ d a b => some (0, sa 0x01 d.val a.val b.val 2, none)
  | .minn _ d a b => some (0, sa 0x01 d.val a.val b.val 3, none)
  | .maxn _ d a b => some (0, sa 0x01 d.val a.val b.val 4, none)
  | .clz _ d a => some (0, sa 0x01 d.val a.val 0 5, none)
  | .popc _ d a => some (0, sa 0x01 d.val a.val 0 6, none)
  | .brev _ d a => some (0, sa 0x01 d.val a.val 0 7, none)
  | .sel _ d a b n p => some (0, sa 0x02 d.val a.val b.val (8 * n.toNat + p.val), none)
  | .cmp _ p a b cc => some (0, sa 0x03 p.val a.val b.val cc.code, none)
  | .pand _ d a b => some (0, sa 0x04 d.val a.val b.val 0, none)
  | .por _ d a b => some (0, sa 0x04 d.val a.val b.val 1, none)
  | .pxor _ d a b => some (0, sa 0x04 d.val a.val b.val 2, none)
  | .pnot _ d a => some (0, sa 0x04 d.val a.val 0 3, none)
  | .lea _ d a b sh => some (0, sa 0x05 d.val a.val b.val sh.val, none)
  | .getc _ d r => some (0, sa 0x06 d.val 0 0 0 + r.number * 16, none)
  | .setc _ d r => some (0, sa 0x07 d.val 0 0 0 + r.number * 16, none)
  | .addi _ d a i => some (0, si 0x08 d.val a.val i.val, none)
  | .andi _ d a i => some (0, si 0x09 d.val a.val i.val, none)
  | .ori _ d a i => some (0, si 0x0a d.val a.val i.val, none)
  | .xori _ d a i => some (0, si 0x0b d.val a.val i.val, none)
  | .shli _ d a i => some (0, si 0x0c d.val a.val i.val, none)
  | .shri _ d a i => some (0, si 0x0d d.val a.val i.val, none)
  | .sari _ d a i => some (0, si 0x0e d.val a.val i.val, none)
  | .li _ d i => some (0, si 0x0F d.val 0 i.val, none)
  | .cmpi _ p a i cc => some (0, si (0x10 + cc.code / 4) (8 * (cc.code % 4) + p.val) a.val i.val, none)
  | .br _ disp => some (0, sb 0x14 0 0 disp.val, none)
  | .brc _ p n disp => some (0, sb 0x15 p.val n.toNat disp.val, none)
  | .call _ disp => some (0, sb 0x16 0 0 disp.val, none)
  | .ret _ a => some (0, sa 0x17 0 a.val 0 0, none)
  | .jtab _ a b => some (0, sa 0x18 0 a.val b.val 0, none)
  | .loop _ d a ki rot => some (0, si 0x19 d.val a.val (2 * ki.toNat + rot.toNat), none)
  | .loopend _ disp => some (0, sb 0x1A 0 0 disp.val, none)
  | .brk _ code => some (0, sa 0x1B 0 0 0 code.val, none)
  | .slate _ d item => some (0, sa 0x1C d.val 0 0 item.val, none)
  | .retire _ => some (0, sa 0x1D 0 0 0 0, none)
  | .lds _ sz m a off => some (0, si (0x20 + sz.code) m.val a.val off.val, none)
  | .sts _ sz m a off => some (0, si (0x24 + sz.code) m.val a.val off.val, none)
  | .ld _ sz m a off => some (0, si (0x28 + sz.code) m.val a.val off.val, none)
  | .st _ sz m a off => some (0, si (0x2c + sz.code) m.val a.val off.val, none)
  | .ldp _ sz m a w off => some (0, si (0x30 + sz.code) m.val a.val (64 * w.val + off.val), none)
  | .amo _ dbl d a b op => some (0, sa (0x34 + dbl.toNat) d.val a.val b.val op.code, none)
  | .cas _ dbl d a b => some (0, sa (0x36 + dbl.toNat) d.val a.val b.val 0, none)
  | .enq _ d a b => some (0, sa 0x38 d.val a.val b.val 0, none)
  | .deq _ d a b => some (0, sa 0x39 d.val a.val b.val 0, none)
  | .fence _ kind scope => some (0, sa 0x3A kind.code 0 0 scope.code, none)
  | .xfence _ => some (0, sa 0x3B 0 0 0 0, none)
  | .cmo _ a b op home => some (0, sa 0x3C 0 a.val b.val (4 * home.toNat + op.code), none)
  | .pref _ wr a off => some (0, si 0x3D wr.toNat a.val off.val, none)
  | .postS _ t => some (0, sa 0x3E t.val 0 0 0, none)
  | .waitS _ t => some (0, sa 0x3E t.val 0 0 1, none)
  | .rdv _ => some (0, sa 0x3E 0 0 0 2, none)
  | .binit _ a b => some (4, sa 0x00 0 a.val b.val 0, none)
  | .barv _ a b => some (4, sa 0x01 0 a.val b.val 0, none)
  | .bexp _ a b => some (4, sa 0x02 0 a.val b.val 0, none)
  | .bwait _ a => some (4, sa 0x03 0 a.val 0 0, none)
  | .yield_ _ => some (4, sa 0x04 0 0 0 0, none)
  | .pchk _ d => some (4, sa 0x05 d.val 0 0 0, none)
  | .budg _ a => some (4, sa 0x06 0 a.val 0 0, none)
  | .segwait _ a => some (4, sa 0x07 0 a.val 0 0, none)
  | .accept _ a b => some (4, sa 0x08 0 a.val b.val 0, none)
  | .commit _ a => some (4, sa 0x09 0 a.val 0 0, none)
  | .timewait _ a late => some (4, sa 0x0A 0 a.val 0 late.toNat, none)
  | .ttarm _ a b => some (4, sa 0x0b 0 a.val b.val 0, none)
  | .syscall _ code => some (4, si 0x0C 0 0 code.val, none)
  | .trap _ code => some (4, si 0x0D 0 0 code.val, none)
  | .sqtrap _ a code => some (4, si 0x0E 0 a.val code.val, none)
  | .telm _ a b => some (4, sa 0x0f 0 a.val b.val 0, none)
  | .frzinfo _ d a => some (4, sa 0x10 d.val a.val 0 0, none)
  | .frzrd _ d a cls => some (4, sa 0x11 d.val a.val 0 cls.val, none)
  | .frzwr _ a b cls => some (4, sa 0x12 0 a.val b.val cls.val, none)
  | .frzld _ d a b => some (4, sa 0x13 d.val a.val b.val 0, none)
  | .frzst _ d a b => some (4, sa 0x14 d.val a.val b.val 0, none)
  | .frzarv _ a b => some (4, sa 0x15 0 a.val b.val 0, none)
  | .frzres _ a b => some (4, sa 0x16 0 a.val b.val 0, none)
  | .frzkil _ a => some (4, sa 0x17 0 a.val 0 0, none)
  | .haltx _ a => some (4, sa 0x18 0 a.val 0 0, none)
  | .vadd _ d a b => some (1, vw 0 d.code a.code b.code, none)
  | .vsub _ d a b => some (1, vw 1 d.code a.code b.code, none)
  | .vmul _ d a b => some (1, vw 2 d.code a.code b.code, none)
  | .vfma _ d a b => some (1, vw 3 d.code a.code b.code, none)
  | .vfms _ d a b => some (1, vw 4 d.code a.code b.code, none)
  | .vmin _ d a b => some (1, vw 5 d.code a.code b.code, none)
  | .vmax _ d a b => some (1, vw 6 d.code a.code b.code, none)
  | .vabs _ d a => some (1, vw 7 d.code a.code 0, none)
  | .vneg _ d a => some (1, vw 8 d.code a.code 0, none)
  | .vmov _ d a => some (1, vw 9 d.code a.code 0, none)
  | .vrsum _ d a => some (1, vw 10 d.code a.code 0, none)
  | .vrmax _ d a => some (1, vw 11 d.code a.code 0, none)
  | .vrmin _ d a => some (1, vw 12 d.code a.code 0, none)
  | .vrssq _ d a => some (1, vw 13 d.code a.code 0, none)
  | .vexp2 _ d a => some (1, vw 14 d.code a.code 0, none)
  | .viadd _ d a b => some (1, vw 15 d.code a.code b.code, some (lw 0x10 0 0))
  | .visub _ d a b => some (1, vw 15 d.code a.code b.code, some (lw 0x11 0 0))
  | .vimul _ d a b => some (1, vw 15 d.code a.code b.code, some (lw 0x12 0 0))
  | .vimac _ d a b => some (1, vw 15 d.code a.code b.code, some (lw 0x13 0 0))
  | .vimin _ d a b => some (1, vw 15 d.code a.code b.code, some (lw 0x14 0 0))
  | .vimax _ d a b => some (1, vw 15 d.code a.code b.code, some (lw 0x15 0 0))
  | .vshl _ d a b => some (1, vw 15 d.code a.code b.code, some (lw 0x16 0 0))
  | .vshr _ d a b => some (1, vw 15 d.code a.code b.code, some (lw 0x17 0 0))
  | .vsar _ d a b => some (1, vw 15 d.code a.code b.code, some (lw 0x18 0 0))
  | .vand _ d a b => some (1, vw 15 d.code a.code b.code, some (lw 0x19 0 0))
  | .vor _ d a b => some (1, vw 15 d.code a.code b.code, some (lw 0x1a 0 0))
  | .vxor _ d a b => some (1, vw 15 d.code a.code b.code, some (lw 0x1b 0 0))
  | .vcmp _ d a b cc => some (1, vw 15 d.val a.code b.code, some (lw 0x20 0 cc.code))
  | .vsel _ d a b m => some (1, vw 15 d.code a.code b.code, some (lw 0x21 0 m.val))
  | .vcvt _ d a src => some (1, vw 15 d.code a.code 0, some (lw 0x22 0 src.code))
  | .vqnt _ d a g fmt => some (1, vw 15 d.code a.code 0, some (lw 0x23 g.code fmt.code))
  | .vdqnt _ d a g fmt => some (1, vw 15 d.code a.code 0, some (lw 0x24 g.code fmt.code))
  | .vlog2 _ d a => some (1, vw 15 d.code a.code 0, some (lw 0x28 0 0))
  | .vrcp _ d a => some (1, vw 15 d.code a.code 0, some (lw 0x29 0 0))
  | .vrsq _ d a => some (1, vw 15 d.code a.code 0, some (lw 0x2a 0 0))
  | .vimaxIdx _ d a val => some (1, vw 15 d.val a.code 0, some (lw 0x30 val.val 0))
  | .vbcst _ d a => some (1, vw 15 d.code a.val 0, some (lw 0x38 0 0))
  | .vld _ d a off => some (1, vw 15 d.code a.val 0, some (lw 0x39 0 off.val))
  | .vst _ d a off => some (1, vw 15 d.code a.val 0, some (lw 0x3A 0 off.val))
  | .vgth _ d a b => some (1, vw 15 d.code a.val b.code, some (lw 0x3B 0 0))
  | .vperm _ d a b x => some (1, vw 15 d.code a.code b.code, some (lw 0x3C 0 x.val))
  | .vshf _ d a b s => some (1, vw 15 d.code a.code b.code, some (lw 0x3D 0 s.val))
  | .vscan _ d a op => some (1, vw 15 d.code a.code 0, some (lw 0x3E 0 op.code))
  | .vkset _ k a val => some (1, vw 15 0 a.val 0, some (lw 0x40 0 (4 * val.val + k.val)))
  | .vkadd _ k a val => some (1, vw 15 0 a.val 0, some (lw 0x41 0 (4 * val.val + k.val)))
  | .mskand _ d a b => some (1, vw 15 d.val a.val b.val, some (lw 0x42 0 0))
  | .mskor _ d a b => some (1, vw 15 d.val a.val b.val, some (lw 0x43 0 0))
  | .mskxor _ d a b => some (1, vw 15 d.val a.val b.val, some (lw 0x44 0 0))
  | .msknot _ d a => some (1, vw 15 d.val a.val 0, some (lw 0x45 0 0))
  | .mskmov _ d a => some (1, vw 15 d.val a.val 0, some (lw 0x46 0 0))
  | .mskget _ a d => some (1, vw 15 d.val a.val 0, some (lw 0x47 0 0))
  | .vrand _ d key ctr unit => some (1, vw 15 d.code key.val 0, some (lw 0x48 ctr.val unit.toNat))
  | .postV _ t => some (1, vw 15 0 0 0, some (lw 0x4C 0 t.val))
  | .waitV _ t => some (1, vw 15 0 0 0, some (lw 0x4D 0 t.val))
  | .mlease _ => some (2, mw 0 0 0 0, none)
  | .mfree _ => some (2, mw 1 0 0 0, none)
  | .mstrl _ g a => some (2, mw 2 g.val 0 a.val, none)
  | .mstrs _ g a => some (2, mw 3 g.val 0 a.val, none)
  | .mstrf _ g a f => some (2, mw 4 g.val 0 (32 * f.val + a.val), none)
  | .mnest _ a => some (2, mw 5 0 0 a.val, none)
  | .mmm _ g h a init nest => some (2, mw 6 g.val h.val (64 * nest.toNat + 32 * init.toNat + a.val), none)
  | .mmc _ g a init => some (2, mw 7 g.val 0 (32 * init.toNat + a.val), none)
  | .aclr _ a => some (2, mw 8 0 0 a.val, none)
  | .ard _ p q a => some (2, mw 9 0 0 (128 * p.val + 32 * q.val + a.val), none)
  | .awr _ p q a => some (2, mw 10 0 0 (128 * p.val + 32 * q.val + a.val), none)
  | .acpyToCoreStore _ a b => some (2, mw 11 0 0 (32 * b.val + a.val), none)
  | .acpyToAccumulator _ a b => some (2, mw 11 0 0 (1024 + 32 * b.val + a.val), none)
  | .mchk _ k => some (2, mw 12 0 0 k.val, none)
  | .mwait _ post t => some (2, mw 13 0 0 (8 * post.toNat + t.val), none)
  | .postM _ t => some (2, mw 14 0 0 t.val, none)
  | .waitM _ t => some (2, mw 15 0 0 t.val, none)
  | .cpy _ a b => some (3, cw 0 a.val b.val 0 0, none)
  | .cgth _ a b x => some (3, cw 1 a.val b.val x.val 0, none)
  | .csct _ a b x => some (3, cw 2 a.val b.val x.val 0, none)
  | .cbcst _ a b x => some (3, cw 3 a.val b.val x.val 0, none)
  | .xput _ a b x => some (3, cw 4 a.val b.val x.val 0, none)
  | .xget _ a b => some (3, cw 5 a.val b.val 0 0, none)
  | .kvapp _ a b x => some (3, cw 6 a.val b.val x.val 0, none)
  | .kvcmp _ a b x => some (3, cw 7 a.val b.val x.val 0, none)
  | .seghold _ a b x => some (3, cw 8 a.val b.val x.val 0, none)
  | .cwait _ post t => some (3, cw 9 0 0 0 (8 * post.toNat + t.val), none)
  | .ccncl _ => some (3, cw 10 0 0 0 0, none)
  | .postC _ t => some (3, cw 11 0 0 0 t.val, none)
  | .waitC _ t => some (3, cw 12 0 0 0 t.val, none)
  | .tapsel _ t a => some (5, xw 0 t.val a.val 0 0, none)
  | .tapstr _ t a z => some (5, xw 1 t.val a.val 0 (16 * z.val), none)
  | .tapdot _ t a b z => some (5, xw 2 t.val a.val b.val (16 * z.val), none)
  | .tapeval _ t a b m => some (5, xw 3 t.val a.val b.val m.val, none)
  | .tapclr _ a => some (5, xw 4 0 a.val 0 0, none)
  | .taprd _ t a b => some (5, xw 5 t.val a.val b.val 0, none)
  | .tapprb _ t a b => some (5, xw 6 t.val a.val b.val 0, none)
  | .tapstv _ a b => some (5, xw 7 0 a.val b.val 0, none)
  | .postX _ t => some (5, xw 8 0 0 0 t.val, none)
  | .waitX _ t => some (5, xw 9 0 0 0 t.val, none)
  | .splitterFetch _ => none
  | .fixedLatencyWriteLand _ => none
  | .loadComplete _ _ => none
  | .storeBufferDrain _ => none
  | .dirtyLineWriteback _ _ _ => none
  | .releaseMarkerLeave _ _ => none
  | .l1InvalidateComplete _ => none
  | .pageWalk _ _ => none
  | .homeSliceRead _ => none
  | .homeSliceWrite _ => none
  | .homeAtomic _ => none
  | .homeQueueOp _ => none
  | .homeBarrierUpdate _ => none
  | .forwardedAccess _ => none
  | .ackFlit _ => none
  | .accessUndeliverable _ => none
  | .mirrorWrite _ => none
  | .copyPiece _ _ _ => none
  | .vatLeaseGrant _ _ => none
  | .handlerReserveClaim _ => none
  | .vatAccept _ _ => none
  | .vatComplete _ _ => none
  | .deviationLogAppend _ _ => none
  | .xWordComplete _ => none
  | .segmentReceive _ => none
  | .slateForm _ _ => none
  | .segmentExpire _ _ => none
  | .declaringCycle _ _ => none
  | .launchArbiter _ _ => none
  | .jobComplete _ => none
  | .budgetExhausted _ => none
  | .preemptRaise _ _ _ => none
  | .preemptWithdraw _ _ _ => none
  | .forcedSave _ => none
  | .saveRecordWrite _ => none
  | .timetablePreq _ _ _ => none
  | .timetableLaunch _ _ _ => none
  | .dbgHaltThread _ => none
  | .dbgReleaseThread _ => none
  | .dbgHaltCore _ _ => none
  | .dbgReleaseCore _ _ => none
  | .dbgSave _ => none
  | .copyqSettle _ _ => none
  | .recordMoveDone _ => none
  | .tlbInvalidateDone _ => none
  | .faultDetect _ => none
  | .freezeComplete _ => none
  | .handlerSpawn _ _ => none
  | .handlerSlotTake _ => none
  | .intakeDeliver _ _ => none
  | .completionRecord _ _ => none
  | .tileWalkPermit _ => none
  | .tileWalkDone _ => none
  | .selfTestStart _ => none
  | .afrUpdate _ => none
  | .devlogSizeWrite => none
  | .telemetrySizeWrite => none
  | .capRevoke => none
  | .contextTeardown => none
  | .descriptorWrite => none
  | .tileWalkStopClear => none
  | .registerWrite => none
  | .tlbInvalidate => none
  | .recordMove => none
  | .timetableWrite => none
  | .moduleLeaseAcquire => none
  | .moduleLeaseRelease => none
  | .migenClear => none
  | .ringSlotStart => none
  | .hostRdmaWrite => none
  | .hostRdmaWriteImm => none
  | .hostRdmaRead => none
  | .roceUnsupportedRequest => none
  | .controllerCommand => none
  | .imageVerify => none
  | .fuseCommit => none
  | .attestRequest => none
  | .selfTestEnd => none
  | .bankScanRow => none
  | .kvRebuild => none
  | .ringSyncLoss => none
  | .powerDecision => none
  | .thermalTrip => none
  | .railFault => none
  | .pllUnlock => none
  | .resetRelease => none
  | .hostLinkAcknowledge => none
  | .stationControllerRestart => none
  | .ieee1588Timestamp => none
  | .fabricTrain => none
  | .laneFailRetrain => none
  | .fabricFlitReplay => none
  | .skipFlitReplay => none
  | .intakeSubmit => none
  | .delegateInstall => none
  | .returnPageReceive => none
  | .migrationReady => none
  | .migrationClosing => none
  | .migrationClosed => none

/-- An EXT word (R35). -/
def extWord (kind body : Nat) : Nat := 7 * 2 ^ 29 + kind * 2 ^ 27 + body

/-- The words of an instruction: its word, then the modifier word, then the long-form word, then the immediate words
(R50). A hardware step has no words. -/
def encode (i : Instr) : List Nat :=
  match i.ctl, i.code with
  | some c, some (e, p, l) =>
    (e * 2 ^ 29 + c.v.val * 2 ^ 27 + c.d.val * 2 ^ 25 + p)
      :: (c.mods.toList.map fun m => extWord 1 m.body) ++ (l.toList.map fun b => extWord 2 b)
      ++ (c.imms.map fun x => extWord 0 x.val)
  | _, _ => []

end Sys2Proof
end

