-- ==== Sys2Proof/Machine/Mem.lean ====
section
/-! DEFINITION. Sparse storage: cells in one canonical form (addresses strictly rising, no zero cell listed; an unlisted cell
reads as zero, log 1), byte access in little-endian order (R7), and tables of records by number. -/

namespace Sys2Proof.Machine

/-- Cells of `w` bits by number. An unlisted cell reads as zero. -/
abbrev Cells (w : Nat) := List (Nat × BitVec w)

/-- Bytes by address. -/
abbrev Memory := Cells 8

/-- The cell at `k`. -/
def Cells.get {w : Nat} (m : Cells w) (k : Nat) : BitVec w :=
  match m with
  | [] => 0
  | (j, v) :: rest => if j = k then v else Cells.get rest k

/-- Drops every cell at `k`. -/
def Cells.erase {w : Nat} (m : Cells w) (k : Nat) : Cells w :=
  match m with
  | [] => []
  | (j, v) :: rest => if j = k then Cells.erase rest k else (j, v) :: Cells.erase rest k

/-- Inserts before the first larger number. -/
def Cells.insert {w : Nat} (m : Cells w) (k : Nat) (v : BitVec w) : Cells w :=
  match m with
  | [] => [(k, v)]
  | (j, u) :: rest => if k < j then (k, v) :: (j, u) :: rest else (j, u) :: Cells.insert rest k v

/-- Writes one cell; a zero is not listed. -/
def Cells.set {w : Nat} (m : Cells w) (k : Nat) (v : BitVec w) : Cells w :=
  if v = 0 then m.erase k else (m.erase k).insert k v

/-- The canonical form, from a lower bound on. -/
def Cells.wfFrom {w : Nat} (m : Cells w) (lo : Nat) : Bool :=
  match m with
  | [] => true
  | (k, v) :: rest => decide (lo ≤ k) && decide (v ≠ 0) && Cells.wfFrom rest (k + 1)

/-- The canonical form. -/
def Memory.wf (m : Memory) : Bool := Cells.wfFrom m 0

/-- Several cells, in order. -/
def Cells.setAll {w : Nat} (m : Cells w) : List (Nat × BitVec w) → Cells w
  | [] => m
  | (k, v) :: rest => Cells.setAll (m.set k v) rest

/-- Bytes `a` to `a + n - 1`. -/
def Memory.bytes (m : Memory) (a n : Nat) : List Byte := (List.range n).map fun i => Cells.get m (a + i)

/-- A number from its bytes, least significant first (R7). -/
def leNat : List Byte → Nat
  | [] => 0
  | b :: bs => b.toNat + 256 * leNat bs

/-- The `n` low bytes of a number, least significant first (R7). -/
def leBytes : Nat → Nat → List Byte
  | 0, _ => []
  | n + 1, v => BitVec.ofNat 8 v :: leBytes n (v / 256)

/-- The number in bytes `a` to `a + n - 1`. -/
def Memory.readN (m : Memory) (a n : Nat) : Nat := leNat (m.bytes a n)

/-- Writes bytes from `a` upward. -/
def Memory.writeBytes (m : Memory) (a : Nat) : List Byte → Memory
  | [] => m
  | b :: bs => Memory.writeBytes (Cells.set m a b) (a + 1) bs

/-- Writes the `n` low bytes of a number at `a`. -/
def Memory.writeN (m : Memory) (a n v : Nat) : Memory := m.writeBytes a (leBytes n v)

/-- The doubleword at `a`. -/
def Memory.read64 (m : Memory) (a : Nat) : Word := BitVec.ofNat 64 (m.readN a 8)

/-- Clears bytes `a` to `a + n - 1`, by dropping them. -/
def Cells.clear {w : Nat} (m : Cells w) (a n : Nat) : Cells w := m.filter fun x => !(decide (a ≤ x.1) && decide (x.1 < a + n))

/-- Records by number. -/
abbrev Tab (α : Type) := List (Nat × α)

/-- The record at `k`, or the default. -/
def Tab.get {α : Type} [Inhabited α] (t : Tab α) (k : Nat) : α :=
  match t with
  | [] => default
  | (j, v) :: rest => if j = k then v else Tab.get rest k

/-- Whether a record stands at `k`. -/
def Tab.has {α : Type} (t : Tab α) (k : Nat) : Bool := t.any fun x => x.1 == k

/-- Replaces or inserts the record at `k`, numbers rising. -/
def Tab.set {α : Type} (t : Tab α) (k : Nat) (v : α) : Tab α :=
  match t with
  | [] => [(k, v)]
  | (j, u) :: rest => if j = k then (k, v) :: rest else if k < j then (k, v) :: (j, u) :: rest else (j, u) :: Tab.set rest k v

/-! Bit fields. -/

/-- Bits `lo + len - 1 : lo`. -/
def bits (v : Nat) (lo len : Nat) : Nat := v / 2 ^ lo % 2 ^ len

/-- One bit. -/
def tbit (v : Nat) (i : Nat) : Bool := v / 2 ^ i % 2 == 1

/-- `v` with bits `lo + len - 1 : lo` replaced. -/
def setBits (v lo len x : Nat) : Nat :=
  v % 2 ^ lo + (x % 2 ^ len) * 2 ^ lo + v / 2 ^ (lo + len) * 2 ^ (lo + len)

/-- Bits of a doubleword. -/
def wbits (v : Word) (lo len : Nat) : Nat := bits v.toNat lo len

/-- A doubleword with a field replaced. -/
def wset (v : Word) (lo len x : Nat) : Word := BitVec.ofNat 64 (setBits v.toNat lo len x)

/-- sext of R57, as an integer. -/
def sext (v n : Nat) : Int :=
  let u := v % 2 ^ n
  if 2 ^ (n - 1) ≤ u ∧ n ≠ 0 then (u : Int) - (2 ^ n : Nat) else u

/-- A natural number from an integer, modulo 2^64. -/
def ofInt64 (i : Int) : Word := BitVec.ofInt 64 i

end Sys2Proof.Machine
end

