-- ==== Sys2Proof/Machine/State.lean ====
section
/-! DEFINITION. The state of one SX48 module, as plain data: everything the spec gives the machine (INVENTORY.md, State),
the reasons a step can stop, and the state right after reset. A record that no list holds stands at its default. -/

namespace Sys2Proof.Machine

/-- Why the machine stops. -/
inductive Fault where
  /-- Raised by `step` when the module is held in reset, its core rail is removed or its clock has stopped (R404, R405,
  R407) and no outside step waits. Safe: nothing happens until the outside acts. -/
  | noClock
  deriving DecidableEq, Repr

/-- Why a step has no meaning. -/
inductive Refusal where
  /-- Raised by an arm of `exec` whose instruction has no meaning yet. Safe: it proves nothing. -/
  | notModelled (mnemonic : String)
  deriving DecidableEq, Repr

/-- A cause and its reported fields (R349, R352). -/
structure FRec where
  cause : Nat
  sub : Nat := 0
  level : Nat := 0
  va : Word := 0
  code : Nat := 0
  pc : Word := 0
  cyc : Nat := 0
  q : QName := .s
  deriving DecidableEq, Repr, Inhabited

/-- A register write that lands (R29): physical registers, plane cells, stream doublewords, control registers by number
(R97) as a SETC writes them, dither-phase advance (R72), event flags (R76), a core-store byte or half of one, a posted token (R193), a BUDG (R299), PROG with the barrier
that its copy credits and SHORT of CPROG (R224, R225). -/
inductive RegW where
  | s (i : Nat) (v : Word)
  | p (i : Nat) (v : Bool)
  | k (i : Nat) (v : BitVec 6)
  | l (i : Nat) (v : Word)
  | z (key : Nat) (v : Word32)
  | g (key : Nat) (v : Word)
  | ctl (n : Nat) (v : Word)
  | dph (add : Nat)
  | flags (v : Word)
  | cs (a : Nat) (v : Byte)
  | cn (a : Nat) (hi : Bool) (v : BitVec 4)
  | tok (w : Nat) (c : Option (QName × Nat))
  | bud (raise : Bool) (n : Nat)
  | prog (v : Nat) (bar : Option Nat)
  | short (b : Bool)
  deriving DecidableEq, Repr, Inhabited

/-- A fixed-latency write in flight: its landing thread cycle, issue thread cycle, stream number and queue (R29). -/
structure PWrite where
  land : Nat
  issued : Nat
  seq : Nat
  q : QName
  ws : List RegW
  deriving DecidableEq, Repr, Inhabited

/-- A completed write of a variable-latency operation that no word has observed yet (R30). -/
structure Unobs where
  q : QName
  seq : Nat
  ws : List RegW
  deriving DecidableEq, Repr, Inhabited

/-- A posted token: the queue that posted it and the stream number of its POST; none after a restore. -/
abbrev Cover := Option (QName × Nat)

/-- One entry of an issue queue (R26): the word and its EXT words, address, stream number, rotation base and pass
(R93, R95), the first thread cycle in which it can issue, whether it has consumed the token of V = 3 and whether for good (an
issued word that was put back), and what a waiting word has done so far (R296). -/
structure Entry where
  word : Nat := 0
  exts : List Nat := []
  pc : Word := 0
  seq : Nat := 0
  base : Nat := 0
  pass : Nat := 0
  placed : Nat := 0
  tok : Bool := false
  spent : Bool := false
  latched : Bool := false
  latch : List Word := []
  stage : Nat := 0
  mark : Nat := 0
  deriving DecidableEq, Repr, Inhabited

/-- An issue queue: entries from the head, the first thread cycle of its next issue (R28), and the operation whose
acknowledgement holds it (R296). -/
structure Queue where
  es : List Entry := []
  ready : Nat := 0
  blk : Option Nat := none
  deriving DecidableEq, Repr, Inhabited

/-- Why the splitter places nothing (R27, R100). -/
inductive Stop where
  | run
  | transfer (seq : Nat)     -- after a control-transfer word not yet issued
  | bad (f : FRec)           -- at a word whose fate is a fault
  | done                     -- after a RETIRE or a resume point is set
  deriving DecidableEq, Repr, Inhabited

/-- The splitter (R26, R27, R94, R95). -/
structure Splitter where
  pc : Word := 0
  stop : Stop := .run
  resumeAt : Nat := 0
  pass : Nat := 0
  base : Nat := 0
  deriving DecidableEq, Repr, Inhabited

/-- A barrier slot (R211, R415). -/
structure BSlot where
  bound : Bool := false
  addr : Nat := 0
  phase : Nat := 0
  member : Bool := false
  arrPhase : Nat := 0
  arrived : Bool := false
  flipped : Option Nat := none
  deriving DecidableEq, Repr, Inhabited

/-- A stream pin (R140, R187): of a segment with the slot of its arrival, by which segments of one tag are told apart (R141, R265). -/
inductive Pin where
  | seg (frame : Nat) (tag : Word) (slot : Nat)
  | page (vaBase size paBase : Nat) (r w u : Bool)
  deriving DecidableEq, Repr, Inhabited

/-- A release that has begun (R201): its scope and its marker, once placed. -/
structure Rel where
  scope : Scope
  mark : Option Nat := none
  deriving DecidableEq, Repr, Inhabited

/-- What an invalidation of translations selects (R186). -/
structure InvSel where
  scope : Nat
  ctx : Nat
  lo : Nat
  n : Nat
  deriving DecidableEq, Repr, Inhabited

/-- An access or command that a dropped translation still serves (R186): an operation, a buffered store or a past-L1 write of a
thread, a Vat command of a core, an entry of a copy, the permit of a tile-walk engine. -/
inductive InvUser where
  | op (t : Tid) (id : Nat)
  | cmd (co id : Nat)
  | copy (id entry : Nat) (v : InvSel)
  | tile (e since : Nat) (v : InvSel)
  deriving DecidableEq, Repr, Inhabited

/-- What an outstanding operation of the S queue or a frozen-state word does. -/
inductive OpKind where
  | load
  | store
  | amo (op : AmoOp)
  | cas
  | enq
  | deq
  | binit
  | barv
  | bexp
  | credit
  | row (commit : Bool)
  | frzld
  | frzst
  | frzarv
  | cmo
  | pref
  | frz
  | frzres
  | frzkil
  | sqtrap
  deriving DecidableEq, Repr, Inhabited

/-- Where an outstanding operation stands. -/
inductive OpStage where
  | walk
  | send
  | away
  | done
  deriving DecidableEq, Repr, Inhabited

/-- A segment in a station: its header fields of R263, its bytes at their offsets (header included), the slots of its receipt and
its arrival, its arrival cycle and expiry. -/
structure Resident where
  tag : Word := 0
  len : Nat := 0
  marker : Bool := false
  mkind : Nat := 0
  poison : Bool := false
  pos : Nat := 0
  bytes : Memory := []
  recvSlot : Nat := 0
  arriveSlot : Nat := 0
  arrive : Nat := 0
  expiry : Nat := 0
  deriving DecidableEq, Repr, Inhabited

/-- An outstanding operation of a thread: kind, its word (put back if it completes with a fault, R350), address, size,
operands, destinations, release and acquire of an ordered form, result; for a read of a segment's frame the segment that stood there as
it left the core (R265). -/
structure MemOp where
  id : Nat
  kind : OpKind
  e : Entry
  q : QName := .s
  va : Word := 0
  size : Nat := 8
  pa : Option Nat := none
  nc : Bool := false
  v1 : Word := 0
  v2 : Word := 0
  dst : Nat := 0
  dst2 : Nat := 0
  slot : Nat := 0
  rel : Option Rel := none
  acq : Option Scope := none
  stage : OpStage := .walk
  res : Word := 0
  res2 : Word := 0
  since : Nat := 0
  wait : List Nat := []
  for_ : Option Tid := none
  seg : Option Resident := none
  deriving DecidableEq, Repr, Inhabited

/-- An acquire whose invalidation runs (R201): its scope, the cycle in which it completes, the queue that waits. -/
structure Acq where
  scope : Scope
  due : Nat
  q : QName
  deriving DecidableEq, Repr, Inhabited

/-- A store-buffer entry (R197). -/
structure SbEntry where
  id : Nat
  e : Entry
  va : Word
  size : Nat
  v : Word
  pa : Option Nat := none
  nc : Bool := false
  past : Bool := false
  deriving DecidableEq, Repr, Inhabited

/-- Core-store bytes that a Vat word writes or may have written and that a queue has not waited for (R149): the word's stream
number, first byte, the bytes as they stood at the word's issue, and the queues that have observed it. -/
structure Soft where
  seq : Nat
  a : Nat
  old : List Byte
  seen : List QName := []
  deriving DecidableEq, Repr, Inhabited

/-- Privilege and purpose of a thread (R320, R291, R354). -/
inductive TKind where
  | job
  | timetable
  | handler
  deriving DecidableEq, Repr, Inhabited

/-- States of a thread (R369). -/
inductive TStatus where
  | free
  | waiting        -- a handler without a slot, or a resumed thread whose slot is borrowed
  | running
  | freezing
  | frozen
  | stopped        -- stopped by the halt line
  deriving DecidableEq, Repr, Inhabited

/-- Why a thread drains (R100, R270, R297, R310, R316, R362, R368). -/
inductive Drain where
  | retire
  | yield_
  | forced
  | debug
  | ended
  | killed
  deriving DecidableEq, Repr, Inhabited

/-- A standing pre-emption request (R308): source, forcing cycle, reserved record. -/
structure Preq where
  src : Nat
  f : Nat
  recd : Nat
  seen : Nat
  deriving DecidableEq, Repr, Inhabited

/-- A thread context. Numbers of `s` and `p` are physical (R92); `z` is keyed 4096·plane + 64·row + column in physical
planes; `g` is keyed 8·stream + doubleword; `ctl` is keyed by control register number (R97); `landed` are the writes that landed last,
in cycle `landedAt` (R109); `halting` is a debugger halt that has not taken effect yet (R335, R351); `notBefore` is the end of the zeroing
or restore before the first word (R314, R324), `resumeFrom` that of a resumed thread's acquire (R361). -/
structure Thread where
  s : Cells 64 := []
  p : BitVec 8 := 0
  k : Cells 6 := []
  l : Cells 64 := []
  z : Cells 32 := []
  g : Cells 64 := []
  pins : Tab (Option Pin) := []
  tok : Tab (List Cover) := []
  ctl : Cells 64 := [(0x00A, 4096), (0x010, 1)]
  slots : Tab BSlot := []
  nest : Cells 64 := []
  pw : Tab (List Byte) := []
  hdr : Word := 0
  winBase : Nat := 0
  csBase : Nat := 0
  slate : Cells 64 := []
  segExp : Nat := 0
  segLen : Nat := 0
  mchk : Nat := 0
  cmds : Nat := 0
  trapped : Word := 0
  removed : Word := 0
  status : TStatus := .free
  kind : TKind := .job
  ctx : Nat := 0
  forCtx : Nat := 0
  priv : Priv := .user
  tier : Nat := 0
  job : Nat := 0
  qs : Queue := {}
  qv : Queue := {}
  qm : Queue := {}
  qc : Queue := {}
  qx : Queue := {}
  spl : Splitter := {}
  seq : Nat := 0
  pend : List PWrite := []
  landed : List PWrite := []
  landedAt : Nat := 0
  unobs : List Unobs := []
  sb : List SbEntry := []
  ops : List MemOp := []
  acq : List Acq := []
  fault : Option FRec := none
  newFault : Option FRec := none
  more : Bool := false
  detached : Bool := false
  halted : Bool := false
  halting : Bool := false
  haltCyc : Nat := 0
  slot : Nat := 0
  slotHeld : Bool := false
  preq : Option Preq := none
  drain : Option Drain := none
  drainE : Option (QName × Entry) := none
  rel : Option Rel := none
  launched : Nat := 0
  uncorr : List (QName × Nat) := []
  kvRestart : Bool := false
  short : Option Nat := none
  notBefore : Nat := 0
  resumeFrom : Nat := 0
  restoring : Option (Nat × Nat) := none
  soft : List Soft := []
  vatAt : Nat := 0
  saveRec : Nat := 0
  saveAt : Option Nat := none
  needHandler : Bool := false
  deriving DecidableEq, Repr, Inhabited

/-- One 128-byte line of an L1 (R189, R198): address, whether its clean data are valid, bytes, byte mask of dirty bytes, its place
among the dirty lines, whether a PREF.W marked it for a write (R204). -/
structure Line where
  la : Nat
  clean : Bool
  data : BitVec 1024
  mask : BitVec 128
  ord : Nat := 0
  wr : Bool := false
  deriving DecidableEq, Repr, Inhabited

/-- An entry of the dirty-line FIFO (R191). -/
inductive FifoE where
  | line (la : Nat)
  | mark (id ord : Nat)
  deriving DecidableEq, Repr, Inhabited

/-- A write that has left an L1 or a store buffer for its target (R191, R197): address, bytes that change, thread and
stream number of a store that went past the L1 with the virtual address and size translated for it (R186), and whether it waits for an acknowledgement from outside. -/
structure Wb where
  id : Nat
  pa : Nat
  bytes : List (Nat × Byte)
  ord : Nat := 0
  by_ : Option Tid := none
  va : Option (Nat × Nat) := none
  away : Bool := false
  since : Nat := 0
  size : Nat := 0
  deriving DecidableEq, Repr, Inhabited

/-- A cached translation (R183, R185): context, virtual base, span, physical base, rights, NC,
and the least privilege that keeps them (R178): 0 user, 1 supervisor, 2 firmware. -/
structure Leaf where
  ctx : Nat
  va : Nat
  span : Nat
  pa : Nat
  r : Bool
  w : Bool
  x : Bool
  u : Bool
  nc : Bool
  mp : Nat
  deriving DecidableEq, Repr, Inhabited

/-- A walk-cache entry: the valid pointer entry read at a level for a virtual range (R185). -/
structure WcEntry where
  ctx : Nat
  level : Nat
  va : Nat
  next : Nat
  deriving DecidableEq, Repr, Inhabited

/-- A command that the Vat has accepted and not yet completed (R147, R172): owner, stream number, rotation base, word, scalar
values read at issue, acceptance and completion cycles, occupancy, rounding state, dither phase, stream records with their pins and the
nest state as they stood, the planes, core store and memory as they stood (R109, R149), rows trapped by then (R342), the bank
stalls so far by schedule cycle, the schedule cycle whose lines of core store come next, and those that wait for their bank: the
stream's place, the line, the cycles it has waited (R142); the segments of the frames it is pinned to (R141, R265), the accumulator rows written, the number of
a checked command (R168). -/
structure VatCmd where
  id : Nat
  t : Tid
  seq : Nat
  base : Nat
  instr : Instr
  ops : List Nat := []
  acc : Nat
  done : Nat := 0
  rm : Nat := 1
  fin : Bool := false
  fout : Bool := false
  dph : Nat := 0
  gs : List (List Word) := []
  pins : List (Option Pin) := []
  nest : Cells 64 := []
  z0 : Cells 32 := []
  cs0 : Memory := []
  mem0 : Memory := []
  trapped : Word := 0
  occ : Nat := 0
  stalls : List (Nat × Nat) := []
  tau : Nat := 16
  lines : List (Nat × Nat × Nat) := []
  frames : List (Nat × Resident) := []
  free : Nat := 0
  rows : List (Nat × Nat) := []
  chk : Option Nat := none
  abandoned : Bool := false
  deriving DecidableEq, Repr

/-- The Vat of a core (R147 to R153): holder and grant cycle of the lease, commands accepted under it, the scrub that belongs to
it, the context of the last holder, the cycle from which the next command or holder can come, threads that wait in the order of
their requests with how often each was passed over, accepted commands in order. -/
structure Vat where
  holder : Option Tid := none
  granted : Nat := 0
  count : Nat := 0
  scrub : Nat := 0
  lastCtx : Option Nat := none
  nextAcc : Nat := 0
  waiters : List (Tid × Nat) := []
  cmds : List VatCmd := []
  deriving DecidableEq, Repr, Inhabited

/-- The shadow lane's check (R168 to R170): the command, and once it has completed, when its entry is appended and the entry. -/
structure Shadow where
  id : Nat
  due : Option Nat := none
  entry : List Byte := []
  deriving DecidableEq, Repr

/-- A resident queue descriptor in queue SRAM (R290): its address, its bytes, PIN. -/
structure QRes where
  pa : Nat
  bytes : List Byte
  pin : Bool
  deriving DecidableEq, Repr, Inhabited

/-- A tap word in the tap unit (R335): the registers and planes it read as it issued, the rows enabled for it, the bytes it read
from core store, memory and the resident descriptors as they stood, the earliest cycle of its completion. -/
structure XCmd where
  t : Tid
  seq : Nat
  base : Nat
  instr : Instr
  ops : List Word := []
  rows : Word := 0
  z0 : Cells 32 := []
  data : List Byte := []
  mem0 : Memory := []
  qres0 : List QRes := []
  done : Nat
  deriving DecidableEq, Repr

/-- A core. `banks` are the banks of core store that the slot ports have claimed in this cycle (R101, R142). -/
structure Core where
  cs : Memory := []
  csOwner : Tab (Option Nat) := []
  banks : List Nat := []
  acc : Cells 32 := []
  accOwner : Tab (Option Nat) := []
  resOwner : Option Tid := none
  lines : List Line := []
  lru : List Nat := []
  fifo : List FifoE := []
  ord : Nat := 0
  wbs : List Wb := []
  lost : Bool := false
  mutlb : List Leaf := []
  vat : Vat := { }
  shadow : Option Shadow := none
  xs : List XCmd := []
  icache : Tab (List Byte) := []
  posted : List Nat := []
  coreHalt : Bool := false
  copyq : Bool := false
  allot : List (Nat × Nat × Nat) := []
  wins : List (Nat × Nat × Nat) := []
  deriving DecidableEq, Repr, Inhabited

/-- One side of a piece (R215). -/
inductive Loc where
  | cs (co a : Nat)
  | mem (pa : Nat)
  | seg (frame b : Nat)
  deriving DecidableEq, Repr, Inhabited

/-- A piece of a copy: where from, where to, bytes; the virtual addresses that were translated for it (R186); for a part of a piece that
is performed unit by unit the number of that piece and its bytes, which are credited together (R215, R216); the cycle since which its
bytes have been out to another module, if they are (R249). -/
structure Piece where
  src : Loc
  dst : Loc
  len : Nat
  sva : Option Nat := none
  dva : Option Nat := none
  grp : Nat := 0
  whole : Nat := 0
  out : Option Nat := none
  deriving DecidableEq, Repr, Inhabited

/-- A KVCMP under way (R222, R223): the sequence block's physical address, its key-value fields as they stood at acceptance, the
accept list, the next entry. -/
structure KvRun where
  pa : Nat
  ent : Nat
  ppg : Nat
  nl : Nat
  np : Nat
  len : Nat
  pl : Word
  alt : Word
  list : List Nat
  next : Nat
  deriving DecidableEq, Repr, Inhabited

/-- An accepted copy (R213): owner, its queue entry, engine, acceptance cycle, pieces still to do, barrier to credit (physical
address) and remote barrier, for a SEGHOLD the tag it is bound to, for a KVCMP its progress; the
addresses beside its pieces' that were translated for it (R186), whether a CCNCL has ended it (R225). -/
structure CopyJob where
  id : Nat
  t : Tid
  e : Entry
  engine : Nat
  acc : Nat
  pieces : List Piece := []
  bar : Option Nat := none
  rbar : Option Nat := none
  tag : Option Word := none
  kv : Option KvRun := none
  vas : List Nat := []
  cancel : Bool := false
  deriving DecidableEq, Repr, Inhabited

/-- A capability-table entry (R327). -/
structure CapE where
  valid : Bool := false
  gen : Nat := 0
  kind : Nat := 0
  rights : Nat := 0
  target : Tid := ⟨0, 0, 0⟩
  blk : Nat := 0
  blkVa : Word := 0
  blkCtx : Nat := 0
  row : Nat := 0
  hctx : Nat := 0
  info : FRec := { cause := 0 }
  astat : Nat := 0
  deriving DecidableEq, Repr, Inhabited

/-- A request for a handler (R353): the record's 64 bytes without the handle, the core, and the faulting context. -/
structure HReq where
  core : Nat
  ctx : Nat
  rcd : List Byte
  cap : Option Nat
  capE : CapE
  deriving DecidableEq, Repr, Inhabited

/-- An engaged sequence (R280): context, block, layer position, what the dispatcher read, prefill rows. -/
structure Engaged where
  ctx : Nat
  va : Word
  pa : Nat
  order : Nat
  model : Nat
  layer : Nat
  rot : Nat
  tier : Nat
  pend : Bool
  fidx : Nat
  prefill : Bool
  sdl : Word
  rows : Nat
  deriving DecidableEq, Repr, Inhabited

/-- A row of a job: its sequence block (0 for none) and its physical address; whether it is complete (R267), whether it was
skipped or removed (R269), and whether that was for a trap in another job (R343). -/
structure Row where
  va : Word := 0
  pa : Nat := 0
  complete : Bool := false
  skipped : Bool := false
  byTrap : Bool := false
  deriving DecidableEq, Repr, Inhabited

/-- Where a job stands. -/
inductive JState where
  | posted
  | launched (tx : Nat)
  | saved (r : Nat)
  | over
  deriving DecidableEq, Repr, Inhabited

/-- A job (R281 to R283, R314). A saved one keeps what its record has no room for: the address and the stream number of each word
of its queue images, why its splitter stood, whether a KVCMP at its head goes on, the first copy that ended short (log 21, R224, R225); and the rows removed from it since (R269). -/
structure Job where
  id : Nat
  core : Nat
  ctx : Nat
  tier : Nat := 0
  frag : Word := 0
  dl : Nat := 0
  bud : Nat := 0
  rows : List Row := []
  live : Word := 0
  stripe : Nat := 0
  segwin : Word := 0
  tag : Word := 0
  segLen : Nat := 0
  arrive : Nat := 0
  expiry : Nat := 0
  slRec : Option (Nat × Nat) := none
  slVa : Word := 0
  order : Nat := 0
  st : JState := .posted
  kind : TKind := .job
  jobid : Word := 0
  num : Nat := 0
  dead : Bool := false
  gone : Word := 0
  kvRestart : Bool := false
  short : Option Nat := none
  hdr : Word := 0
  slate : Cells 64 := []
  places : List (List (Word × Nat)) := []
  stop : Stop := .run
  seq : Nat := 0
  deriving DecidableEq, Repr, Inhabited

/-- An entry held by the intake (R289, R391): tier, context, deadline, its 64 bytes. -/
structure InEntry where
  tier : Nat
  ctx : Nat
  deadl : Nat
  bytes : List Byte
  deriving DecidableEq, Repr, Inhabited

/-- A contention-table entry (R250). -/
structure Contend where
  page : Nat
  module_ : Nat
  count : Nat
  window : Nat
  deriving DecidableEq, Repr, Inhabited

/-- A page whose atomics a module has been handed (R251 to R253). -/
inductive MigState where
  | leaving
  | away
  | returning
  | closing
  deriving DecidableEq, Repr, Inhabited

/-- An atomic or other access that arrived from another module, or that is held at a home or delegate (R252 to R254); `drain` marks those that a page's return left to perform first. -/
structure RemOp where
  id : Nat
  kind : OpKind
  pa : Nat
  size : Nat
  v1 : Word
  v2 : Word
  from_ : Nat
  bytes : List (Nat × Byte) := []
  contended : Bool := false
  held : Bool := false
  drain : Bool := false
  deriving DecidableEq, Repr, Inhabited

/-- A page under migration, seen from its home or its delegate (R251 to R253). -/
structure Migr where
  page : Nat
  st : MigState
  module_ : Nat
  foreign : Nat := 0
  home : Bool := true
  sent : Bool := false
  frame : List Byte := []
  deriving DecidableEq, Repr, Inhabited

/-- A memory error in the report queue (R372): station-memory offset, whether uncorrectable, CYC of detection. -/
structure ErrRep where
  off : Nat
  un : Bool
  cyc : Nat
  deriving DecidableEq, Repr, Inhabited

/-- A firmware image as the controller keeps it (R396). -/
structure Image where
  bytes : List Byte := []
  svn : Nat := 0
  deriving DecidableEq, Repr, Inhabited

/-- A write of the token-log mirror on its way to the successor (R376). -/
structure Mirror where
  off : Nat
  bytes : List (Nat × Byte)
  deriving DecidableEq, Repr, Inhabited

/-- A BWAIT held in a saved job's image (R315): the object's physical address, the context and record of the save, the object
address with the slot number. -/
structure SavedWait where
  pa : Nat
  ctx : Nat
  recd : Nat
  word : Word
  deriving DecidableEq, Repr, Inhabited

/-- A record on its way to another station (R317): the job, the context, the source record, the target station, core and record,
the cycle at which the copy ends. -/
structure Moving where
  job : Nat
  ctx : Nat
  recd : Nat
  stn : Nat
  core : Nat
  dest : Nat
  due : Nat
  deriving DecidableEq, Repr, Inhabited

/-- A station. `cb` holds the control-block doublewords by offset (R410); registers with a reset value other than zero
stand in the default. `missed` are the sequences of halted contexts, by context and frame, that a segment found to dispatch (R368);
`bad` the words in which reads found an uncorrectable error that the controller has not looked at (R377); `rebuilding` the
sequences, by context, that wait to rejoin after a rebuild (R377); `lost` a station that has failed (R379). -/
structure Station where
  cb : Cells 64 := [(0x100, 0x0001000000000000), (0x228, 45), (0x300, 0x0101010101010101), (0x308, 4096), (0x1418, 64)]
  host : Cells 64 := (List.range 16).map fun c => (64 * c + 0x10, 0x1000000000)
  tlb : List Leaf := []
  wc : List WcEntry := []
  tiDone : Option Nat := none
  tiWait : List InvUser := []
  transitLo : Nat := 0
  transitHi : Nat := 0
  hoopLo : Nat := 0
  hoopHi : Nat := 0
  fwLo : Nat := 0
  fwHi : Nat := 0
  segs : List Resident := []
  frames : Tab Resident := []
  fills : List Resident := []
  spoil : List (Nat × Byte) := []
  caps : Tab CapE := []
  fq : List HReq := []
  reqs : List HReq := []
  engaged : List Engaged := []
  jobs : List Job := []
  jobNum : Nat := 0
  nextJob : Nat := 0
  intake : List InEntry := []
  inRound : Tab Nat := []
  inRetry : Tab Nat := []
  inSlot : Tab Nat := []
  inAcks : Tab Nat := []
  compl : Tab (Option Word) := []
  qres : List QRes := []
  copies : List CopyJob := []
  engTime : Tab Nat := []
  waits : List SavedWait := []
  telm : Tab Nat := []
  telmWin : Nat := 0
  contend : List Contend := []
  migr : List Migr := []
  rems : List RemOp := []
  errs : List ErrRep := []
  testing : Option (ErrRep × Nat) := none
  scan : Option (Nat × Nat × Nat) := none
  retired : List Nat := []
  uncorr : List (Nat × Bool) := []
  mirrors : List Mirror := []
  lastRot : Tab Nat := []
  share : Nat := 0
  missed : List (Nat × Nat × Word) := []
  bad : List Nat := []
  rebuilding : List (Nat × Word) := []
  lost : Bool := false
  image : Image := {}
  staged : Option Image := none
  moving : Option Moving := none
  deriving DecidableEq, Repr, Inhabited

/-- An acknowledgement that no flit has carried yet (R247): the module, its request, when it leaves in a flit of its own. -/
structure Ack where
  toMod : Nat
  id : Nat
  due : Nat
  deriving DecidableEq, Repr, Inhabited

/-- A port of a port die (R22, R247, R385): whether it is up, its working lanes, the lanes that failed, the CRC errors of the last
2^20 cycles by lane and cycle, the acknowledgements that wait for a flit. -/
structure Port where
  up : Bool := false
  lanes : List Nat := []
  failed : List Nat := []
  crc : List (Nat × Nat) := []
  acks : List Ack := []
  deriving DecidableEq, Repr, Inhabited

/-- A piece of a tile with the barrier to credit on its target (R258). -/
structure TPiece where
  p : Piece
  bar : Option Nat
  deriving DecidableEq, Repr, Inhabited

/-- A tile-walk engine (R258): the station whose contexts its binding names (log 40), the permit it works on with the status it
will report, the pieces still to do, when the permit began, the barrier's address (R186), whether a dequeued permit still waits for its
translations (R252). -/
structure TWalk where
  stn : Nat := 0
  busy : Bool := false
  perm : Word := 0
  status : Nat := 0
  pieces : List TPiece := []
  begun : Nat := 0
  vas : List Nat := []
  waits : Bool := false
  deriving DecidableEq, Repr, Inhabited

/-- A message that leaves the module for a host (R387 to R392, R398). -/
structure HostMsg where
  kind : Nat
  qp : Nat
  data : List Byte
  deriving DecidableEq, Repr, Inhabited

/-- A write to a register of a control block, as it is performed (R410): station, offset, size in bytes, value, the
privilege of the store. -/
structure CbWrite where
  st : Nat
  off : Nat
  size : Nat
  val : Word
  priv : Priv
  deriving DecidableEq, Repr, Inhabited

/-- An operation that a host asks for on a queue pair (R387): where in a station's memory or register page, and the bytes. -/
inductive RoceOp where
  | write (off : Nat) (data : List Byte)
  | writeImm (off : Nat) (data : List Byte)
  | read (off len : Nat)
  | other
  deriving DecidableEq, Repr

/-- The lease cell (R394). -/
structure LeaseCell where
  epoch : Nat
  held : Bool
  holder : Nat
  exp : Nat
  active : Image
  deriving DecidableEq, Repr

/-- What comes from outside the module, or happens to it physically, with its data. -/
inductive Input where
  | roce (qp : Nat) (rc : Bool) (mtu st : Nat) (op : RoceOp)
  | submit (st off : Nat) (entry : List Byte)
  | hostAck (st co id : Nat)
  | controller (src dst epoch : Nat) (body : List Byte)
  | image (st : Nat) (bytes : List Byte)
  | fuse
  | attest (req : List Byte)
  | restart (st : Nat)
  | testEnd (st : Nat) (failed : Bool)
  | syncLoss (st : Nat) (answers : Bool)
  | linkError (st off : Nat) (flip : Byte)
  | temp (v : Nat)
  | rail (r : Fin 3)
  | pll
  | release
  | stamp (port : Fin 4)
  | train (lanes present : List Nat) (modnum : Nat)
  | lane (port lane : Nat)
  | flit (port lane : Nat)
  | skip (st : Nat)
  | page (page from_ : Nat) (data : List Byte)
  | pageBack (page : Nat) (data : List (Nat × Byte))
  | ready (page : Nat) (ok : Bool)
  | closing (page : Nat)
  | closed (page : Nat)
  | recall (page : Nat)
  | located (page : Nat) (delegate : Option Nat)
  | remote (op : RemOp)
  | far (bs : List (Nat × Byte))
  | loader (st : Nat) (seg : Resident)
  | upset (st off : Nat) (un : Bool)
  | spoiled (t : Tid) (q : QName) (sub : Nat)
  deriving DecidableEq, Repr

/-- What the step does next within a core cycle. -/
inductive Action where
  | ev (i : Instr)
  | issue (t : Tid) (q : QName)
  deriving DecidableEq, Repr

/-- The whole module. `leaseNow` is the lease cell as this cycle began, with the requests of the cycle by station, an acquire marked
(R394); `reloads` the positions that the leader is to name to the host (R395); `badRows` the rows that tests have found lasting (R374). -/
structure State where
  cyc : Nat
  tb : Nat
  tbskew : Word
  mem : Memory
  threads : Tab Thread
  cores : Tab Core
  stations : Tab Station
  pcb : Cells 64
  modnum : Nat
  present : List Nat
  ports : Tab Port
  locator : List (Nat × Nat)
  manifest : Tab (List Byte)
  repair : Option (Nat × Nat)
  engines : Tab TWalk
  fuse : Nat
  leaseEpoch : Nat
  leaseHeld : Bool
  leaseHolder : Nat
  leaseExp : Nat
  leaseNow : Option (LeaseCell × List (Nat × Bool))
  reloads : List Nat
  badRows : List (Nat × Nat)
  active : Image
  inReset : Bool
  period : Nat
  kNext : Nat
  temp : Nat
  attest : List (List Byte)
  fuseReq : Bool
  msgs : List HostMsg
  stamps : List (Nat × Nat)
  cur : Tid × QName
  agenda : List Action
  inputs : List Input
  cbw : Option CbWrite
  bars : List (Nat × Bool)
  lostBytes : Nat
  freeCtr : Nat
  nextId : Nat
  deriving DecidableEq, Repr

/-- The module right after reset (log 2 names every value that the spec does not state). -/
def State.reset : State where
  cyc := 0
  tb := 0
  tbskew := 0xFFFFFFFF
  mem := []
  threads := []
  cores := []
  stations := []
  pcb := [(0x4000, 0x27100578), (0x4008, 0x00085F00)]
  modnum := 0
  present := []
  ports := []
  locator := []
  manifest := []
  repair := none
  engines := []
  fuse := 0
  leaseEpoch := 0
  leaseHeld := false
  leaseHolder := 0
  leaseExp := 0
  leaseNow := none
  reloads := []
  badRows := []
  active := {}
  inReset := false
  period := 0
  kNext := 0
  temp := 0
  attest := []
  fuseReq := false
  msgs := []
  stamps := []
  cur := (⟨0, 0, 0⟩, .s)
  agenda := []
  inputs := []
  cbw := none
  bars := []
  lostBytes := 0
  freeCtr := 0
  nextId := 0

end Sys2Proof.Machine
end

