-- ==== Sys2Proof/Machine/Ops.lean ====
section
/-! DEFINITION. The named operations over the state's records: threads, cores, stations, queues; free values; the names of
physical registers; writes in flight and their landing (R29, R31, R72, R76); faults (R350) and resumes (R361). -/

namespace Sys2Proof.Machine

open Host

/-! Records. -/

/-- The number of a core within the module, of a thread context within the module (R12, R15). -/
def coreKey (st co : Nat) : Nat := st * 8 + co
def Tid.key (t : Tid) : Nat := coreKey t.st t.co * 6 + t.tx

def State.thread (s : State) (t : Tid) : Thread := Tab.get s.threads (Tid.key t)
def State.setThread (s : State) (t : Tid) (th : Thread) : State := { s with threads := Tab.set s.threads (Tid.key t) th }
def State.modThread (s : State) (t : Tid) (f : Thread → Thread) : State := s.setThread t (f (s.thread t))

def State.core (s : State) (st co : Nat) : Core := Tab.get s.cores (coreKey st co)
def State.setCore (s : State) (st co : Nat) (c : Core) : State := { s with cores := Tab.set s.cores (coreKey st co) c }
def State.modCore (s : State) (st co : Nat) (f : Core → Core) : State := s.setCore st co (f (s.core st co))

def State.station (s : State) (st : Nat) : Station := Tab.get s.stations st
def State.setStation (s : State) (st : Nat) (x : Station) : State := { s with stations := Tab.set s.stations st x }
def State.modStation (s : State) (st : Nat) (f : Station → Station) : State := s.setStation st (f (s.station st))

/-- The thread contexts of a station and of the module that a list holds. -/
def tidOfKey (k : Nat) : Tid := ⟨k / 6 / 8, k / 6 % 8, k % 6⟩
def State.tids (s : State) : List Tid := s.threads.map fun x => tidOfKey x.1
def State.tidsOf (s : State) (st : Nat) : List Tid := s.tids.filter fun t => t.st == st

/-- A fresh number for an operation or record of the model's own. -/
def State.fresh (s : State) : Nat × State := (s.nextId, { s with nextId := s.nextId + 1 })

/-- A free value is read at the counter, which then advances (log 4). -/
def State.freeBit (s : State) : Bool × State := (Config.freeBit s.freeCtr, { s with freeCtr := s.freeCtr + 1 })
def State.freeWord32 (s : State) : Word32 × State := (Config.freeWord32 s.freeCtr, { s with freeCtr := s.freeCtr + 1 })
def State.freeWord (s : State) : Word × State := (Config.freeWord s.freeCtr, { s with freeCtr := s.freeCtr + 1 })

/-- Steps to run within this core cycle, first or last. -/
def State.pushEv (s : State) (i : Instr) : State := { s with agenda := s.agenda ++ [.ev i] }
def State.nowEv (s : State) (i : Instr) : State := { s with agenda := .ev i :: s.agenda }

/-- A message to a host (R387 to R392, R398). -/
def State.send (s : State) (kind qp : Nat) (data : List Byte) : State := { s with msgs := s.msgs ++ [⟨kind, qp, data⟩] }

/-! Control-block doublewords. -/

/-- The doubleword of a station's control block, as stored. -/
def State.cb (s : State) (st off : Nat) : Word := Cells.get (s.station st).cb off
def State.setCb (s : State) (st off : Nat) (v : Word) : State := s.modStation st fun x => { x with cb := Cells.set x.cb off v }

/-- A hardware counter of a control block counts one event. -/
def State.count (s : State) (st off : Nat) : State := s.setCb st off (s.cb st off + 1)

/-- A field of a stored doubleword. -/
def State.cbBits (s : State) (st off lo len : Nat) : Nat := wbits (s.cb st off) lo len

/-! Time. -/

/-- The thread cycle in which a core cycle falls (R285): thread cycles of slot j begin at cycles equal to j mod 4. -/
def State.tcyc (s : State) : Nat := s.cyc / 4

/-- CYC and TB as a register read returns them (R292). -/
def State.cycWord (s : State) : Word := BitVec.ofNat 64 s.cyc
def State.tbWord (s : State) : Word := BitVec.ofNat 64 s.tb

/-! Queues. -/

def Thread.queue (th : Thread) : QName → Queue
  | .s => th.qs | .v => th.qv | .m => th.qm | .c => th.qc | .x => th.qx

def Thread.setQueue (th : Thread) (q : QName) (v : Queue) : Thread :=
  match q with
  | .s => { th with qs := v } | .v => { th with qv := v } | .m => { th with qm := v }
  | .c => { th with qc := v } | .x => { th with qx := v }

def QName.all : List QName := [.s, .v, .m, .c, .x]

/-- The queues' numbers in rind records and save records (R367, R415). -/
def QName.num : QName → Nat
  | .s => 0 | .v => 1 | .m => 2 | .c => 3 | .x => 4

/-- The head entry of a queue. -/
def Thread.head (th : Thread) (q : QName) : Option Entry := (th.queue q).es.head?

/-- Replaces the head entry. -/
def Thread.setHead (th : Thread) (q : QName) (e : Entry) : Thread :=
  th.setQueue q { th.queue q with es := e :: (th.queue q).es.tail }

/-- Removes the head entry and sets the earliest next issue (R28). -/
def Thread.popHead (th : Thread) (q : QName) (ready : Nat) : Thread :=
  th.setQueue q { th.queue q with es := (th.queue q).es.tail, ready := ready }

/-- Every entry of every queue. -/
def Thread.entries (th : Thread) : List Entry := QName.all.flatMap fun q => (th.queue q).es

/-! Register names (R31, R92). -/

/-- The physical number of a scalar register named under a rotation base. -/
def physS (base r : Nat) : Nat := if r < 24 then r else 24 + (r - 24 + 8 - base % 8) % 8

/-- The physical number of a predicate. -/
def physP (base p : Nat) : Nat := if p < 4 then p else 4 + (p - 4 + 4 - base % 4) % 4

/-- The physical number of a plane. -/
def physZ (base z : Nat) : Nat := if z < 4 then z else 4 + (z - 4 + 4 - base % 4) % 4

/-- A scalar register read: S0 reads zero. -/
def Thread.readS (th : Thread) (base : Nat) (r : SReg) : Word :=
  if r.val = 0 then 0 else Cells.get th.s (physS base r.val)

/-- A predicate read: P0 reads true. -/
def Thread.readP (th : Thread) (base : Nat) (p : PReg) : Bool :=
  if p.val = 0 then true else th.p.getLsbD (physP base p.val)

/-- The write of a scalar register: one to S0 is discarded. -/
def wrS (base : Nat) (r : SReg) (v : Word) : List RegW := if r.val = 0 then [] else [.s (physS base r.val) v]

/-- The write of a predicate: one to P0 is discarded. -/
def wrP (base : Nat) (p : PReg) (v : Bool) : List RegW := if p.val = 0 then [] else [.p (physP base p.val) v]

/-! Control registers (R97, R98). -/

def Thread.creg (th : Thread) (n : Nat) : Word := Cells.get th.ctl n
def Thread.setCreg (th : Thread) (n : Nat) (v : Word) : Thread := { th with ctl := Cells.set th.ctl n v }

/-- The numbers that the model names. -/
def crDL : Nat := 0x008
def crBUD : Nat := 0x009
def crYWIN : Nat := 0x00A
def crRM : Nat := 0x010
def crFZ : Nat := 0x011
def crDPH : Nat := 0x012
def crFLAGS : Nat := 0x013
def crSEGTAG : Nat := 0x018
def crSLATE : Nat := 0x019
def crJOBID : Nat := 0x01A
def crCPROG : Nat := 0x01B
def crDT : Nat := 0x020
def crLC : Nat := 0x028
def crEC : Nat := 0x029
def crKINC : Nat := 0x02A
def crRRB : Nat := 0x02C

/-- The rotation base now current at the splitter (R93). -/
def Thread.rrb (th : Thread) : Nat := (th.creg crRRB).toNat % 8

/-- PRED under a rotation base (R97, R98). -/
def Thread.pred (th : Thread) (base : Nat) : Nat :=
  1 + ((List.range 7).map fun i => if th.p.getLsbD (physP base (i + 1)) then 2 ^ (i + 1) else 0).sum

/-- The YWIN that a write leaves (R308). -/
def clampYwin (v : Nat) : Nat := if v < 256 then 256 else if 65536 < v then 65536 else v

/-- The deadline that a write leaves: capped under R267 at the expiry of the job's segment, where it has one. -/
def Thread.capDl (th : Thread) (v : Word) : Word :=
  if th.segExp ≠ 0 ∧ th.segExp < v.toNat then BitVec.ofNat 64 th.segExp else v

/-- A SETC lands (R97, R98, R66, R72, R74, R299, R308): each register keeps its own fields; read-only ones ignore it;
FLAGS takes the write as a sticky register (R8). TBSKEW belongs to the module and is written by `State.landTbskew`. -/
def Thread.landCtl (th : Thread) (n : Nat) (v : Word) : Thread :=
  if n = crDL then th.setCreg n (th.capDl v)
  else if n = crYWIN then th.setCreg n (BitVec.ofNat 64 (clampYwin (wbits v 0 17)))
  else if n = crRM then th.setCreg n (BitVec.ofNat 64 (if wbits v 0 3 = 0 ∨ 5 < wbits v 0 3 then 1 else wbits v 0 3))
  else if n = crFZ then th.setCreg n (v &&& 3)
  else if n = crDPH then th.setCreg n (v &&& 0xFF)
  else if n = crFLAGS then th.setCreg n (th.creg n &&& v)
  else if crDT ≤ n ∧ n < crDT + 4 then th.setCreg n (v &&& 0xFF)
  else if n = crLC then th.setCreg n (v &&& 0xFFFFFFFF)
  else if n = crEC then th.setCreg n (v &&& 0x3FF)
  else if n = crKINC then th.setCreg n (v &&& 0xFFFFFF)
  else th

/-- Sets a physical predicate. -/
def setP (p : BitVec 8) (i : Nat) (v : Bool) : BitVec 8 :=
  if v then p ||| BitVec.ofNat 8 (2 ^ i) else p &&& ~~~ BitVec.ofNat 8 (2 ^ i)

/-- Rows that a trap, skip or removal has taken from the slate never return to L0 (R112). -/
def Thread.l0Mask (th : Thread) (v : Word) : Word := v &&& ~~~ (th.trapped ||| th.removed)

/-- One write of a thread's own register lands. Event flags and core-store bytes are landed by `landWrites`. -/
def Thread.land (th : Thread) : RegW → Thread
  | .s i v => { th with s := Cells.set th.s i v }
  | .p i v => { th with p := setP th.p i v }
  | .k i v => { th with k := Cells.set th.k i v }
  | .l i v => { th with l := Cells.set th.l i (if i = 0 then th.l0Mask v else v) }
  | .z key v => { th with z := Cells.set th.z key v }
  | .g key v => { th with g := Cells.set th.g key v }
  | .ctl n v => if n = 0x0FF then { th with ctl := Cells.set th.ctl crRRB v } else th.landCtl n v
  | .dph a => th.setCreg crDPH (BitVec.ofNat 64 (((th.creg crDPH).toNat + a) % 256))
  | .flags v => th.setCreg crFLAGS (th.creg crFLAGS ||| v)
  | .cs _ _ => th
  | .cn _ _ _ => th
  | .bud up n => th.setCreg crBUD (if up then BitVec.ofNat 64 n else BitVec.ofNat 64 (min (th.creg crBUD).toNat n))
  | .tok w c => { th with tok := Tab.set th.tok w (Tab.get th.tok w ++ [c]) }
  | .prog v _ => th.setCreg crCPROG (wset (th.creg crCPROG) 0 32 v)
  | .short b => th.setCreg crCPROG (wset (th.creg crCPROG) 63 1 b.toNat)

/-- The rotation base is written by LOOPEND alone; the number 0x0FF, which R97 does not assign, marks that write. -/
def wrRrb (j : Nat) : RegW := .ctl 0x0FF (BitVec.ofNat 64 (j % 8))

def RegW.isFlags : RegW → Bool
  | .flags _ => true
  | _ => false

/-- Whether a write sets DPH whole, as a SETC does (R72). -/
def RegW.isSetDph : RegW → Bool
  | .ctl n _ => n == crDPH
  | _ => false

def RegW.isDph : RegW → Bool
  | .dph _ => true
  | _ => false

/-- The order in which writes of one thread cycle land: by issue, then stream order (R29). -/
def PWrite.before (a b : PWrite) : Bool :=
  decide (a.land < b.land) || (a.land == b.land && (decide (a.issued < b.issued) || (a.issued == b.issued && decide (a.seq ≤ b.seq))))

def insertPW (a : PWrite) : List PWrite → List PWrite
  | [] => [a]
  | b :: rest => if b.before a then b :: insertPW a rest else a :: b :: rest

def sortPW (l : List PWrite) : List PWrite := l.foldl (fun acc a => insertPW a acc) []

/-- A core-store write among register writes: address, the bits it replaces, their value. -/
structure CsW where
  a : Nat
  mask : Byte
  v : Byte
  deriving DecidableEq, Repr

/-- Core-store writes among register writes, in order. -/
def csWrites (ws : List RegW) : List CsW :=
  ws.filterMap fun
    | .cs a v => some ⟨a, 0xFF, v⟩
    | .cn a hi v => some (if hi then ⟨a, 0xF0, v.zeroExtend 8 <<< 4⟩ else ⟨a, 0x0F, v.zeroExtend 8⟩)
    | _ => none

/-- Writes bytes of a core's store and records the writer of each 4 KiB unit (R324). -/
def Core.writeCs (c : Core) (ctx : Nat) (ws : List CsW) : Core :=
  { c with
    cs := ws.foldl (fun m w => Cells.set m w.a ((Cells.get m w.a &&& ~~~ w.mask) ||| (w.v &&& w.mask))) c.cs
    csOwner := ws.foldl (fun o w => if Tab.get o (w.a / 4096) = some ctx then o else Tab.set o (w.a / 4096) (some ctx)) c.csOwner }

/-- What a landing write leaves of a write that has completed and waits to be observed: the one that lands later prevails (R109);
a SETC clears flags that were set before it (R75). -/
def RegW.under (old new : RegW) : Option RegW :=
  match old, new with
  | .s i _, .s j _ => if i = j then none else some old
  | .p i _, .p j _ => if i = j then none else some old
  | .z i _, .z j _ => if i = j then none else some old
  | .flags v, .ctl n w => if n = crFLAGS then some (.flags (v &&& w)) else some old
  | _, _ => some old

/-- The writes that wait to be observed, once others have landed. -/
def Thread.unobsUnder (th : Thread) (ws : List RegW) : List Unobs :=
  th.unobs.map fun u => { u with ws := u.ws.filterMap fun o => ws.foldl (fun o w => o.bind fun o => o.under w) (some o) }

/-- What another write to core store leaves of the bytes that a queue may still read as they stood before a Vat word (R149): both values
are then the written one. -/
def Soft.put (f : Soft) (ws : List CsW) : Soft :=
  { f with old := ws.foldl (fun l w => if w.a < f.a then l else l.modify (w.a - f.a) fun b => (b &&& ~~~ w.mask) ||| (w.v &&& w.mask)) f.old }

/-- The banks of core store: a byte lies in bank (A div 64) mod 48 (R142). -/
def csBank (a : Nat) : Nat := a / 64 % Config.csBanks

/-- The slot ports of a core claim the banks of these bytes for this cycle (R101, R142). -/
def State.claimBanks (s : State) (t : Tid) (as : List Nat) : State :=
  if as.isEmpty then s else s.modCore t.st t.co fun k => { k with banks := as.foldl (fun l a => if l.contains (csBank a) then l else csBank a :: l) k.banks }

/-- Core-store bytes of a core are written, for the threads that may still read older ones too. -/
def State.writeStore (s : State) (st co ctx : Nat) (ws : List CsW) : State :=
  let s := s.modCore st co fun c => c.writeCs ctx ws
  (List.range 6).foldl (fun s tx =>
    if (s.thread ⟨st, co, tx⟩).soft.isEmpty then s else s.modThread ⟨st, co, tx⟩ fun th => { th with soft := th.soft.map (Soft.put · ws) }) s

/-- Writes land: registers in order, then the event flags (R76), then core-store bytes. A SETC of DPH that lands in the
same thread cycle as an advance wins (R72). -/
def State.landWrites (s : State) (t : Tid) (ws : List RegW) : State :=
  let setDph := ws.any RegW.isSetDph
  let regs := ws.filter fun w => !w.isFlags && !(setDph && w.isDph)
  let th := (regs ++ ws.filter RegW.isFlags).foldl Thread.land { s.thread t with unobs := (s.thread t).unobsUnder ws }
  let s := s.setThread t th
  match csWrites ws with
  | [] => s
  | bs => (s.writeStore t.st t.co th.ctx bs).claimBanks t (bs.map CsW.a)

/-- The TBSKEW that landing writes leave: it belongs to the module (R292). -/
def State.landTbskew (s : State) (ws : List RegW) : State :=
  ws.foldl (fun s w => match w with
    | .ctl n v => if n = 0x002 then { s with tbskew := v &&& 0xFFFFFFFF } else s
    | _ => s) s

/-- Writes of plane elements that land now prevail over those of a Vat command that completed before, be it observed or not (R109). -/
def Unobs.overtaken (ws : List RegW) (u : Unobs) : Unobs :=
  { u with ws := u.ws.filter fun w => match w with
    | .z k _ => !ws.any fun x => match x with
      | .z j _ => j == k
      | _ => false
    | _ => true }

/-- Every write of a thread due by this thread cycle lands (R29). -/
def State.landDue (s : State) (t : Tid) : State :=
  let th := s.thread t
  let due := sortPW (th.pend.filter fun w => decide (w.land ≤ s.tcyc))
  let ws := due.flatMap PWrite.ws
  let s := s.setThread t { th with pend := th.pend.filter fun w => !decide (w.land ≤ s.tcyc), landed := due, landedAt := s.cyc, unobs := th.unobs.map (Unobs.overtaken ws) }
  (s.landWrites t ws).landTbskew ws

/-- Puts a fixed-latency write in flight (R29). -/
def Thread.write (th : Thread) (now lat seq : Nat) (q : QName) (ws : List RegW) : Thread :=
  match ws with
  | [] => th
  | _ => { th with pend := th.pend ++ [⟨now + lat, now, seq, q, ws⟩] }

/-- Sets event flags at once (R34). -/
def Thread.orFlags (th : Thread) (v : Word) : Thread := th.setCreg crFLAGS (th.creg crFLAGS ||| v)

/-- The completed writes that a token, BWAIT or CWAIT covers become readable (R30, R194). -/
def Thread.observe (th : Thread) (p : Unobs → Bool) : Thread :=
  ((th.unobs.filter p).flatMap Unobs.ws).foldl Thread.land { th with unobs := th.unobs.filter fun u => !p u }

/-- Every completed write becomes readable at once: a frozen thread's registers hold what the skid wrote (R350). -/
def State.observeAll (s : State) (t : Tid) : State :=
  let th := s.thread t
  let ws := th.unobs.flatMap Unobs.ws ++ (sortPW th.pend).flatMap PWrite.ws
  ((s.setThread t { th with pend := [], unobs := [] }).landWrites t ws).landTbskew ws

/-! Tokens (R193). -/

def Thread.tokens (th : Thread) (w : Nat) : List Cover := Tab.get th.tok w
def Thread.setTokens (th : Thread) (w : Nat) (l : List Cover) : Thread := { th with tok := Tab.set th.tok w l }

/-- A queue that has waited for an MWAIT reads the core-store bytes that Vat words before it wrote (R149). -/
def Thread.seeSoft (th : Thread) (q : QName) (n : Nat) : Thread :=
  { th with soft := th.soft.map fun f => if f.seq < n ∧ !f.seen.contains q then { f with seen := q :: f.seen } else f }

/-- A word of queue q consumes the oldest token of a counter and observes what it covers (log 9). -/
def Thread.consume (th : Thread) (q : QName) (w : Nat) : Thread :=
  match th.tokens w with
  | [] => th
  | c :: rest =>
    let th := th.setTokens w rest
    match c with
    | none => th
    | some (from_, n) =>
      let th := th.observe fun u => u.q == from_ && decide (u.seq < n)
      if from_ = .m then th.seeSoft q n else th

/-! The resource header (R56, R324). -/

def Thread.planes (th : Thread) : Nat := wbits th.hdr 52 4
def Thread.accRows (th : Thread) : Nat := wbits th.hdr 40 12
def Thread.csBytes (th : Thread) : Nat := wbits th.hdr 30 10 * 4096
def Thread.barriers (th : Thread) : Nat := wbits th.hdr 24 6
def Thread.tokenCount (th : Thread) : Nat := wbits th.hdr 20 4

/-! Taking a fault (R350) and its neighbours. -/

/-- Whether a fault's word stands before another fault's word in stream order; a budget fault names no word of its own (R351). -/
def Thread.earlier (th : Thread) (f g : FRec) : Bool :=
  f.cause != 0x06 && g.cause != 0x06 && (match th.head f.q, th.head g.q with
    | some a, some b => decide (a.seq < b.seq)
    | some _, none => true
    | _, _ => false)

/-- A fault that a word meets at issue, or that an operation completes with, waits for the FAULT_DETECT of this cycle.
Of two in one cycle the one whose word is earlier in stream order is reported (R351); one met while the thread is freezing sets MORE. -/
def State.raise (s : State) (t : Tid) (f : FRec) : State :=
  let th := s.thread t
  let f : FRec := { f with cyc := s.cyc }
  match th.status with
  | .running | .waiting =>
    match th.newFault with
    | none => (s.setThread t { th with newFault := some f }).pushEv (.faultDetect t)
    | some g => if th.earlier f g then s.setThread t { th with newFault := some f } else s
  | .freezing => s.setThread t { th with more := true }
  | _ => s

/-- Puts the word of an operation that completed with a fault back at the head of its queue's image, with no remaining
delay (R350). -/
def Thread.putBack (th : Thread) (q : QName) (e : Entry) : Thread :=
  th.setQueue q { th.queue q with es := { e with placed := 0, spent := e.tok, latched := false, latch := [], stage := 0, mark := 0 } :: (th.queue q).es, ready := 0, blk := none }

/-- A RETIRE or YIELD whose drain a freeze breaks off stands at the head of its queue again; as it issues again the splitter goes on
behind it (R100, R297). -/
def Thread.undrain (th : Thread) : Thread :=
  match th.drain, th.drainE with
  | some .retire, some (q, e) => { th.putBack q e with spl := { th.spl with stop := .transfer e.seq } }
  | some .yield_, some (q, e) => { th.putBack q e with spl := { th.spl with stop := .transfer e.seq } }
  | _, _ => th

/-- The word at which a thread freezes when an operation completes with a fault: the RETIRE or YIELD that drains, else the
operation's own word (R100, R297, R350). -/
def Thread.faultAt (th : Thread) (q : QName) (e : Entry) : QName × Entry :=
  match th.drain, th.drainE with
  | some .retire, some x => x
  | some .yield_, some x => x
  | _, _ => (q, e)

/-- Whether a RETIRE or YIELD drains the thread. -/
def Thread.drains (th : Thread) : Bool := th.drain == some .retire || th.drain == some .yield_

/-- An issued operation completes with a fault: its word, unless a RETIRE or YIELD drains, is put back and the fault is detected
(R350); in the skid of an earlier fault the fault only sets MORE (R351). A job that is ended or killed takes no fault (R270, R362). -/
def State.opFault (s : State) (t : Tid) (q : QName) (e : Entry) (f : FRec) : State :=
  let th := s.thread t
  match th.status, th.newFault with
  | .running, none =>
    if th.drain = some .ended ∨ th.drain = some .killed then s
    else
      let (q, e) := th.faultAt q e
      (s.setThread t (if th.drains then th else th.putBack q e)).raise t { f with pc := e.pc, q := q }
  | .running, some _ => s.setThread t { th with more := true }
  | .freezing, _ => s.setThread t { th with more := true }
  | _, _ => s

/-- No cause: a translation waits for a page under migration, and the word with it (R252). -/
def fWait : FRec := { cause := 0 }
def FRec.waits (f : FRec) : Bool := f.cause == 0

/-- Causes of R349 in their common forms. -/
def fAlign (va : Word := 0) : FRec := { cause := 0x02, sub := 2, va := va }
def fFormat : FRec := { cause := 0x02, sub := 3 }
def fPriv : FRec := { cause := 0x02, sub := 1 }
def fCap : FRec := { cause := 0x02, sub := 4 }
def fNest : FRec := { cause := 0x02, sub := 5 }
def fSpan : FRec := { cause := 0x02, sub := 6 }
def fOver (r : Nat) : FRec := { cause := 0x04, sub := r }
def fXlate (sub level : Nat) (va : Word) : FRec := { cause := 0x01, sub := sub, level := level, va := va }

/-- The fault of a word that is no instruction (R32). -/
def decFrec (r : DecErr) : FRec := if r.isEncoding then { cause := 0x03 } else { cause := 0x02, sub := 0 }

/-- The queue that a word's engine field names (R24, R26). -/
def queueOf (w : Nat) : QName :=
  match fldN w 29 3 with
  | 1 => .v | 2 => .m | 3 => .c | 5 => .x | _ => .s

/-- Tells whether a thread may issue in this cycle: it runs, or its fault was met in this very cycle (R350), it holds a
slot, no debugger halt stands, and no drain that stops issue has begun. -/
def Thread.mayIssue (th : Thread) : Bool :=
  th.status == .running && th.slotHeld && !th.halted &&
    (match th.drain with
     | none | some .retire | some .yield_ => true
     | _ => false)

/-- A thread context halts for the debugger: at once, or once its tap word or its freeze is complete (R316, R335, R351). -/
def State.haltThread (s : State) (t : Tid) : State :=
  if (s.core t.st t.co).xs.any (·.t == t) ∨ (s.thread t).status = .freezing then s.modThread t fun th => { th with halting := true }
  else s.modThread t fun th => { th with halted := true, halting := false, haltCyc := s.cyc }

/-- The splitter restarts at an address (R27, R361). -/
def Thread.restartAt (th : Thread) (pc : Word) (at_ : Nat) : Thread :=
  { th with spl := { th.spl with pc := pc, stop := .run, resumeAt := at_ } }

/-- Drops what the word at a head has done so far: after a save or a freeze a waiting word waits afresh (R296). -/
def Entry.afresh (e : Entry) : Entry := { e with tok := e.spent, latched := false, latch := [], stage := 0, mark := 0 }

/-- A word that has not issued has consumed no token (R25): the one its V = 3 field took is given back. -/
def Thread.giveBack (th : Thread) (e : Entry) : Thread :=
  if e.tok && !e.spent then th.setTokens (fldN e.word 25 2) (none :: th.tokens (fldN e.word 25 2)) else th

/-- The queue images as a save or a freeze keeps them (R296, R310, R350). -/
def Thread.imagesAfresh (th : Thread) : Thread :=
  QName.all.foldl (fun (th : Thread) q =>
    let es := (th.queue q).es
    (es.foldl Thread.giveBack th).setQueue q { th.queue q with es := es.map Entry.afresh }) th

/-- Whether a thread resumes at the C word whose fault froze it, or at which it resumed before without issuing it, as its first C word
(R224, R399). -/
def Thread.resumesAtCopy (th : Thread) (from_ : Option Word) : Bool :=
  let head : Option Word := th.qc.es.head?.map Entry.pc
  let at_ : Option Word := match from_ with
    | some pc => some pc
    | none => head
  (th.kvRestart && at_.isSome && at_ == head) || (match th.fault with
    | none => false
    | some f => f.q == .c && at_ == some f.pc)

/-- Where the splitter stands once a frozen thread runs again: at a word whose fate is a fault it fetches again; behind a SYSCALL or
TRAP that has issued it still stands where another fault froze the thread (R306, R350). -/
def Thread.stopAfter (th : Thread) : Stop → Stop
  | .bad f => if (f.cause = 0x0B ∨ f.cause = 0x0C) ∧ th.fault.map (fun g => (g.cause, g.pc)) ≠ some (f.cause, f.pc) then .bad f else .run
  | x => x

/-- A frozen thread becomes runnable (R361, R369): from its queue images, or, with the images discarded, from an address. -/
def State.resume (s : State) (t : Tid) (from_ : Option Word) : State :=
  let th := s.thread t
  if th.status ≠ .frozen then s else
  let th : Thread := { th with kvRestart := th.resumesAtCopy from_, status := .waiting, fault := none, newFault := none, more := false }
  let th : Thread := match from_ with
    | none => QName.all.foldl (fun (th : Thread) q => th.setQueue q { th.queue q with ready := s.tcyc + (th.queue q).ready }) th.imagesAfresh
    | some pc =>
      let th : Thread := QName.all.foldl (fun (th : Thread) q => th.setQueue q {}) th
      th.restartAt pc (s.tcyc + 1)
  s.setThread t { th with spl := { th.spl with stop := (s.thread t).stopAfter th.spl.stop } }

/-! The Vat's lease (R150 to R153). -/

/-- Charges cycles to a tier of a core (R153, R286): DEF holds a two's complement count. -/
def State.charge (s : State) (st co tier n : Nat) : State :=
  let o := 0x1C00 + 0x80 * co + 8 * tier
  s.setCb st o (s.cb st o - BitVec.ofNat 64 n)

def State.modVat (s : State) (st co : Nat) (f : Vat → Vat) : State := s.modCore st co fun c => { c with vat := f c.vat }
def State.vat (s : State) (st co : Nat) : Vat := (s.core st co).vat

/-- A lease ends (R151). Its cycles are charged as they pass (R153, R284). -/
def State.endLease (s : State) (st co : Nat) : State := s.modVat st co fun v => { v with holder := none, scrub := 0 }

/-- A thread asks for the lease (R150). -/
def State.requestLease (s : State) (t : Tid) : State :=
  let v := s.vat t.st t.co
  if v.holder = some t ∨ v.waiters.any (fun w => w.1 == t) then s
  else s.modVat t.st t.co fun v => { v with waiters := v.waiters ++ [(t, 0)] }

/-- What a cycle charges to a thread's budget (R284): 1 while it is launched and not saved, frozen or halted, until RETIRE or the
end of a save's drain; 1 more while it holds the Vat lease, the scrub included, be it freezing too. The zeroing before its first word
(R324) and a restore (R310) are not charged to it. -/
def State.chargeOf (s : State) (t : Tid) : Nat :=
  let th := s.thread t
  let counts := !th.halted && decide (th.notBefore ≤ s.cyc) && (match th.drain with
    | some .retire => false
    | some .yield_ | some .forced | some .debug => th.saveAt.isNone
    | _ => true)
  let runs := th.status == .running || th.status == .waiting && th.kind != .handler
  if !counts then 0 else runs.toNat + ((s.vat t.st t.co).holder == some t).toNat

/-- Whether a write is the PROG of a KVCMP that credits an object: a BWAIT on it observes it (R30, R194). -/
def RegW.isProg (pa : Nat) : RegW → Bool
  | .prog _ b => b == some pa
  | _ => false

def RegW.isBud : RegW → Bool
  | .bud _ _ => true
  | _ => false

/-- The writes of a thread that are due land; a BUDG lands before the charges of its cycle are subtracted (R29, R299). -/
def State.landNow (s : State) (t : Tid) : State :=
  let due := ((s.thread t).pend.filter fun w => decide (w.land ≤ s.tcyc)).flatMap PWrite.ws
  if due.any RegW.isBud then
    let n := s.chargeOf t
    let add (f : Nat → Nat) (s : State) : State := s.modThread t fun th => th.setCreg crBUD (BitVec.ofNat 64 (f (th.creg crBUD).toNat))
    add (· - n) ((add (· + n) s).landDue t)
  else s.landDue t

/-- Writes of an X word that ends in a thread cycle land among the writes of that cycle (R109). -/
def State.landAmong (s : State) (t : Tid) (issued seq : Nat) (ws : List RegW) : State :=
  (s.modThread t fun th => { th with pend := th.pend ++ [⟨s.tcyc, issued, seq, .x, ws⟩] }).landNow t

/-- A freeze, a save or RETIRE ends the thread's lease and its request (R151, R154). -/
def State.dropLease (s : State) (t : Tid) : State :=
  let s := if (s.vat t.st t.co).holder = some t then s.endLease t.st t.co else s
  s.modVat t.st t.co fun v => { v with waiters := v.waiters.filter fun w => w.1 != t }

end Sys2Proof.Machine
end

