-- ==== Sys2Proof/Machine/Flags.lean ====
section
/-! DEFINITION. FLAGS (R74 to R76), the guard (R33), the modifier fallbacks that a word's form decides (R49, R408), and the
condition codes (R41, R83, R120). -/

namespace Sys2Proof.Machine

/-- The bits of FLAGS (R74). -/
def flNV : Word := 0x0001
def flDZ : Word := 0x0002
def flOF : Word := 0x0004
def flUF : Word := 0x0008
def flNX : Word := 0x0010
def flSATD : Word := 0x0020
def flFI : Word := 0x0040
def flFO : Word := 0x0080
def flIDZ : Word := 0x0100
def flMODWARN : Word := 0x2000
def flRSVWARN : Word := 0x4000
def flPWBOUND : Word := 0x8000

/-- An event flag when a condition holds. -/
def flagIf (b : Bool) (v : Word) : Word := if b then v else 0

end Sys2Proof.Machine

namespace Sys2Proof
open Machine

/-- The guard of a word under the predicates as it issues (R33). -/
def Ctl.guardHolds (c : Ctl) (th : Thread) (base : Nat) : Bool :=
  match c.mods with
  | none => true
  | some m => !m.gen || (th.readP base m.gp != m.gneg)

end Sys2Proof

namespace Sys2Proof.Machine

/-- Which modifier fields a form takes; the others are ignored and set MODWARN (R49, R408). -/
structure ModUse where
  type : Bool := false
  rnd : Bool := false
  sat : Bool := false
  mask : Bool := false
  flush : Bool := false
  order : Bool := false
  deriving DecidableEq, Repr

end Sys2Proof.Machine

namespace Sys2Proof
open Machine

/-- MODWARN by the rows of R49 that name a field the form does not take. -/
def Ctl.modWarn (c : Ctl) (u : ModUse) : Bool :=
  match c.mods with
  | none => false
  | some m =>
    (m.type != .dflt && !u.type) || (m.rnd != .rm && !u.rnd) || (m.sat && !u.sat) || (m.mask != .l0 && !u.mask)
      || (m.flush != .fz && !u.flush) || ((m.scope != .unset || m.ord != .plain) && !u.order)

/-- The flags a word sets as it issues (R34). -/
def Ctl.issueFlags (c : Ctl) (u : ModUse) : Word := flagIf c.rsv flRSVWARN ||| flagIf (c.modWarn u) flMODWARN

end Sys2Proof

namespace Sys2Proof.Machine

/-- Which side of an ordered access a form is (R49). -/
inductive Side where
  | load | store | both
  deriving DecidableEq, Repr

end Sys2Proof.Machine

namespace Sys2Proof
open Machine

/-- Narrows a scope to the widest of its target. -/
def Scope.narrow (s widest : Scope) : Scope := if s.code ≤ widest.code then s else widest

/-- The scope and order that a form executes with, and whether MODWARN is set (the SCOPE and ORD rows of R49). -/
def Ctl.ordering (c : Ctl) (side : Side) (widest : Scope) : Scope × Order × Bool :=
  match c.mods with
  | none => (.unset, .plain, false)
  | some m =>
    let (o, w1) : Order × Bool :=
      match side, m.ord with
      | .load, .release => (.plain, true)
      | .load, .acqRel => (.acquire, true)
      | .store, .acquire => (.plain, true)
      | .store, .acqRel => (.release, true)
      | _, o => (o, false)
    let w2 := m.scope != .unset && m.ord == .plain && side != .both
    let w3 := side == .both && decide (widest.code < m.scope.code)
    if o = .plain then (.unset, .plain, w1 || w2 || w3)
    else if m.scope = .unset then (widest, o, true)
    else (m.scope.narrow widest, o, w1 || decide (widest.code < m.scope.code))

def Order.acquires : Order → Bool
  | .acquire => true | .acqRel => true | _ => false

def Order.releases : Order → Bool
  | .release => true | .acqRel => true | _ => false

/-- The scope of a barrier word, ACCEPT, COMMIT or FRZARV: its SCOPE, else its default (R211, R303, R360), and MODWARN
where SCOPE is wider than the widest of the target (R49). -/
def Ctl.fixedScope (c : Ctl) (dflt widest : Scope) : Scope × Bool :=
  match c.mods with
  | none => (dflt, false)
  | some m => if m.scope = .unset then (dflt, false) else (m.scope.narrow widest, decide (widest.code < m.scope.code))

/-- A condition over two doublewords (R41, R83). -/
def Cond.holds (cc : Cond) (a b : Word) : Bool :=
  match cc with
  | .eq => a == b
  | .ne => a != b
  | .lt => a.slt b
  | .ge => !a.slt b
  | .le => a.sle b
  | .gt => !a.sle b
  | .ltn => a.ult b
  | .gen => !a.ult b
  | .len => a.ule b
  | .gtn => !a.ule b

/-- Conditions 0 to 5 compare as two's complement, 6 to 9 as unsigned (R83). -/
def Cond.signed (cc : Cond) : Bool := decide (cc.code ≤ 5)

end Sys2Proof
end

