-- ==== Sys2Proof/Machine/Issue.lean ====
section
/-! DEFINITION. The issue of one word from the head of a queue (R25, R28, R33, R34): the token of V = 3, the guard, the
word's own body, its flags at issue and its delay. Every word's meaning is one call of `issue`. -/

namespace Sys2Proof.Machine

open Host

/-- What a word's body sees: thread, queue, its queue entry, its control part. -/
structure Ctx where
  t : Tid
  q : QName
  e : Entry
  c : Ctl
  deriving DecidableEq, Repr

/-- What a word's body answers: it has issued; it holds, unissued; it is refused with a fault (R350); it has issued and
has dealt with its queue itself. -/
inductive Act where
  | done (s : State)
  | hold (s : State)
  | fault (f : FRec) (s : State)
  | gone (s : State)

end Sys2Proof.Machine

namespace Sys2Proof
open Machine

/-- The extra thread cycles that the control field asks for (R25). -/
def Ctl.delay (c : Ctl) (th : Thread) : Nat :=
  match c.v.val with
  | 0 => c.d.val
  | 1 => 4 * c.d.val
  | 2 => wbits (th.creg (crDT + c.d.val)) 0 8
  | _ => 0

end Sys2Proof

namespace Sys2Proof.Machine

/-- What the token of a V = 3 control field says (R28, R33, R193). -/
inductive Gate where
  | pass (th : Thread)
  | wait
  | over
  deriving DecidableEq, Repr

/-- The token that V = 3 names: out of range it faults whatever the guard; unavailable it holds; else it is consumed, once. -/
def tokenGate (c : Ctl) (e : Entry) (q : QName) (th : Thread) : Gate :=
  if c.v.val ≠ 3 ∨ e.tok then .pass th
  else if th.tokenCount ≤ c.d.val then .over
  else if (th.tokens c.d.val).isEmpty then .wait
  else .pass ((th.consume q c.d.val).setHead q { e with tok := true })

/-- The splitter goes on once the control-transfer word it stands after has issued: the first word it then fetches reaches
its queue two thread cycles later (R27, R85). -/
def Splitter.after (sp : Splitter) (seq now : Nat) : Splitter :=
  match sp.stop with
  | .transfer n => if n = seq then { sp with stop := .run, resumeAt := now + 2 } else sp
  | _ => sp

/-- A word leaves the head of its queue as it issues (R28): a KVCMP behind it does not go on at PROG (R224). -/
def Thread.leave (th : Thread) (e : Entry) (q : QName) (c : Ctl) (now extra : Nat) : Thread :=
  { th.popHead q (now + 1 + c.delay th + extra) with spl := th.spl.after e.seq now, kvRestart := th.kvRestart && q != .c }

/-- The issue of the word at the head of the current queue. -/
def State.issue (s : State) (c : Ctl) (u : ModUse) (extra : Nat) (body : Ctx → State → Act) : State :=
  let t := s.cur.1
  let q := s.cur.2
  let th := s.thread t
  match th.head q with
  | none => s
  | some e =>
    match tokenGate c e q th with
    | .over => s.raise t { fOver 4 with pc := e.pc, q := q }
    | .wait => s
    | .pass th =>
      let s := s.setThread t th
      if c.guardHolds th e.base then
        match body ⟨t, q, { e with tok := e.tok || c.v.val == 3 }, c⟩ s with
        | .done s' => s'.modThread t fun th => (th.orFlags (c.issueFlags u)).leave e q c s.tcyc extra
        | .hold s' => s'
        | .fault f s' => s'.raise t { f with pc := e.pc, q := q }
        | .gone s' => s'
      else s.modThread t fun th => th.leave e q c s.tcyc 0

/-! Reading and writing through the context. -/

def Ctx.th (x : Ctx) (s : State) : Thread := s.thread x.t
def Ctx.s (x : Ctx) (s : State) (r : SReg) : Word := (s.thread x.t).readS x.e.base r
def Ctx.p (x : Ctx) (s : State) (r : PReg) : Bool := (s.thread x.t).readP x.e.base r

/-- Puts writes in flight with a latency in thread cycles (R29). -/
def Ctx.write (x : Ctx) (s : State) (lat : Nat) (ws : List RegW) : State :=
  s.modThread x.t fun th => th.write s.tcyc lat x.e.seq x.q ws

/-- Sets flags at issue. -/
def Ctx.flag (x : Ctx) (s : State) (v : Word) : State := s.modThread x.t fun th => th.orFlags v

/-- A word without modifiers of its own leaves its queue before its effect: one that halts its own context has issued (R367). -/
def Ctx.issues (x : Ctx) (s : State) : State :=
  s.modThread x.t fun th => (th.orFlags (x.c.issueFlags {})).leave x.e x.q x.c s.tcyc 0

/-- Replaces the entry at the head, for a waiting word that has begun to wait. -/
def Ctx.keep (x : Ctx) (s : State) (e : Entry) : State := s.modThread x.t fun th => th.setHead x.q e

/-- Holds the queue of an issued word until an operation is acknowledged (R296). -/
def Ctx.block (x : Ctx) (s : State) (id : Nat) : State :=
  s.modThread x.t fun th => th.setQueue x.q { th.queue x.q with blk := some id }

/-- The immediate field of width `w` with its EXT words attached (R35): its bits and how many they are. -/
def immBits (w v : Nat) : List (Fin (2 ^ 27)) → Nat × Nat
  | [] => (v, w)
  | [a] => (v + a.val * 2 ^ w, w + 27)
  | a :: b :: _ => (v + a.val * 2 ^ w + b.val * 2 ^ (w + 27), w + 54)

/-- The immediate sign-extended, zero-extended (R35, R57); bits beyond 63 are discarded. -/
def immS (w v : Nat) (xs : List (Fin (2 ^ 27))) : Int := let (b, n) := immBits w v xs; sext b (min n 64)
def immZ (w v : Nat) (xs : List (Fin (2 ^ 27))) : Nat := (immBits w v xs).1 % 2 ^ 64

/-- The effective address base + sext(offset) × scale, modulo 2^64 (R102, R196). -/
def effAddr (base : Word) (w v : Nat) (xs : List (Fin (2 ^ 27))) (scale : Nat) : Word := base + ofInt64 (immS w v xs * scale)

/-- A waiting word latches its registers when it first stands at the head with its delay elapsed (R296). -/
def Ctx.latched (x : Ctx) (vs : List Word) : Entry :=
  if x.e.latched then x.e else { x.e with latched := true, latch := vs }

def Entry.reg (e : Entry) (i : Nat) : Word := e.latch.getD i 0

end Sys2Proof.Machine
end

