-- ==== Sys2Proof/Machine/Xlate.lean ====
section
/-! DEFINITION. Physical addresses (R176, R177), translation (R174 to R185, R248, R333), the caches of translations (R185,
R186), and the host windows (R388). -/

namespace Sys2Proof.Machine

/-! Physical addresses. -/

/-- The fields of a physical address (R176). -/
def paModule (pa : Nat) : Nat := pa / 2 ^ 41
def paStation (pa : Nat) : Nat := pa / 2 ^ 35 % 64
def paOff (pa : Nat) : Nat := pa % 2 ^ 35

/-- Bytes as the home slice holds them: a resident queue descriptor's only current copy is in queue SRAM (R290). -/
def State.homeByte (s : State) (pa : Nat) : Byte :=
  match (s.station (paStation pa)).qres.find? fun q => decide (q.pa ≤ pa) && decide (pa < q.pa + 64) with
  | some q => q.bytes.getD (pa - q.pa) 0
  | none => Cells.get s.mem pa

def State.homeBytes (s : State) (pa n : Nat) : List Byte := (List.range n).map fun i => s.homeByte (pa + i)
def State.homeN (s : State) (pa n : Nat) : Nat := leNat (s.homeBytes pa n)

/-! Memory errors (R371, R372). -/

/-- A report joins the error report queue of 64, or is dropped. -/
def State.report (s : State) (st off : Nat) (un : Bool) : State :=
  if 64 ≤ (s.station st).errs.length then s.count st 0x3028
  else s.modStation st fun x => { x with errs := x.errs ++ [⟨off, un, s.cyc⟩] }

/-- What a read finds in its words: a correctable error is counted, reported and written back; an uncorrectable one is counted and
reported, and its word, which reads as zero, stays marked; the controller looks at it (R377). -/
def State.readMarks (s : State) (pa n : Nat) : State :=
  if paModule pa ≠ s.modnum then s
  else
    let st := paStation pa
    let hit (m : Nat × Bool) : Bool := decide (m.1 < pa + n) && decide (pa < m.1 + 8)
    match (s.station st).uncorr.filter hit with
    | [] => s
    | ms =>
      let s := ms.foldl (fun s m => (s.count st (if m.2 then 0x3008 else 0x3000)).report st (paOff m.1) m.2) s
      s.modStation st fun x =>
        { x with uncorr := x.uncorr.filter fun m => m.2 || !hit m, bad := x.bad ++ (ms.filter fun m => m.2).map Prod.fst }

/-- What a physical address names. -/
inductive PKind where
  | own | control | remote | rctl | gone | host | bad
  deriving DecidableEq, Repr

/-- The physical address of a station-memory offset of this module. -/
def State.pa (s : State) (st off : Nat) : Nat := s.modnum * 2 ^ 41 + st * 2 ^ 35 + off

/-- The map of R176; a module that the presence map does not show is gone: out of range where a walk meets it (R248), beyond
reach of an access that a cached leaf still translates (R411). -/
def State.paKind (s : State) (pa : Nat) : PKind :=
  if paModule pa = 2047 then .host
  else if 1536 ≤ paModule pa ∨ 48 ≤ paStation pa then .bad
  else if 2 ^ 34 + 2 ^ 16 ≤ paOff pa then .bad
  else if paModule pa = s.modnum then if paOff pa < 2 ^ 34 then .own else .control
  else if s.present.contains (paModule pa) then if paOff pa < 2 ^ 34 then .remote else .rctl
  else .gone

/-- The home slice of a station-memory address (R177). -/
def homeSlice (pa : Nat) : Nat := pa / 2 ^ 12 % 16

/-- Whether two ranges overlap; the second is given by its ends. -/
def overlaps (a n lo hi : Nat) : Bool := decide (a < hi) && decide (lo < a + n) && decide (lo < hi)

/-- The areas of a station that lie below supervisor privilege (R178, R312, R333, R368). -/
def State.supAreas (s : State) (st : Nat) : List (Nat × Nat) :=
  (s.cbBits st 0x2A00 0 35, s.cbBits st 0x2A08 0 35) ::
  ((List.range 16).flatMap fun c =>
    let sv := s.cbBits st (0x1800 + 0x20 * c) 0 35
    let n := s.cbBits st (0x1808 + 0x20 * c) 16 16
    let str := s.cbBits st (0x1808 + 0x20 * c) 0 16
    let mb := s.cbBits st (0x1810 + 0x20 * c) 0 35
    let mbn := s.cbBits st (0x1818 + 0x20 * c) 0 16
    let rd := s.cbBits st (0x2C20 + 0x10 * c) 0 35
    let rdn := s.cbBits st (0x2C28 + 0x10 * c) 0 16
    [(sv, sv + n * str * 65536), (mb, mb + mbn * 16), (rd, rd + rdn * 64)])

/-- A leaf with its rights narrowed as the TLB is filled (R178). -/
def State.narrow (s : State) (l : Leaf) : Leaf :=
  let st := paStation l.pa
  let a := paOff l.pa
  let l := if paModule l.pa ≠ 2047 ∧ overlaps a l.span (2 ^ 34) (2 ^ 34 + 2 ^ 16) then { l with mp := max l.mp 1 } else l
  if paModule l.pa ≠ s.modnum then l
  else
    let x := s.station st
    let l := if overlaps a l.span x.transitLo x.transitHi || overlaps a l.span x.hoopLo x.hoopHi then { l with w := false } else l
    let l := if (s.supAreas st).any (fun r => overlaps a l.span r.1 r.2) then { l with mp := max l.mp 1 } else l
    if overlaps a l.span x.fwLo x.fwHi then { l with mp := 2 } else l

/-- What an access needs (R182). -/
inductive Access where
  | read | write | atomic | fetch
  deriving DecidableEq, Repr

/-- Privilege as a number: 0 user, 1 supervisor, 2 firmware. -/
def privNum : Priv → Nat
  | .user => 0 | .supervisor => 1 | .firmware => 2

/-- Whether a leaf's rights permit an access (R182). -/
def Leaf.permits (l : Leaf) (acc : Access) (priv : Priv) : Bool :=
  (match acc with
   | .read => l.r
   | .write => l.w
   | .atomic => l.r && l.w
   | .fetch => l.x)
  && (priv != .user || l.u) && decide (l.mp ≤ privNum priv)

/-- The segment window region (R175). -/
def segBase : Nat := 0x01FF000000000000
def inSegRegion (va : Nat) : Bool := decide (segBase ≤ va) && decide (va < 2 ^ 57)

/-- A reserved bit set in an entry (R181). -/
def reservedBits (e : Nat) (level : Nat) : Bool :=
  bits e 52 12 != 0 || bits e 9 3 != 0 || tbit e 7 ||
    (if 2 ≤ level then bits e 1 8 != 0
     else if level = 1 then
       if tbit e 1 then bits e 12 9 != 0 || tbit e 6 else bits e 2 7 != 0 || tbit e 6
     else tbit e 1)

/-- The leaf that an entry holds. -/
def leafOf (ctx e va level : Nat) : Leaf :=
  let span := if level = 1 then 2 ^ 21 else 2 ^ 12
  { ctx := ctx, va := va / span * span, span := span, pa := bits e 12 40 * 4096 / span * span,
    r := tbit e 2, w := tbit e 3, x := tbit e 4, u := tbit e 5, nc := tbit e 8, mp := 0 }

/-- What a walk ends in. -/
inductive Walked where
  | leaf (l : Leaf) (wcs : List WcEntry) (hintBad : Bool)
  | fault (sub level : Nat) (wcs : List WcEntry)
  deriving Repr

/-- Whether a table stands in station memory of this module (R179). -/
def State.inStations (s : State) (pa : Nat) : Bool := s.paKind pa == .own

/-- The group of 16 level-0 entries that a contiguous hint names: the 64 KiB leaf when every condition holds (R183). -/
def State.contLeaf (s : State) (ctx tab va : Nat) : Option Leaf :=
  let g := bits va 12 9 / 16 * 16
  let es := (List.range 16).map fun j => s.homeN (tab + 8 * (g + j)) 8
  let e0 := es.headD 0
  let base := bits e0 12 40 * 4096
  let same := (es.zip (List.range 16)).all fun (e, j) =>
    tbit e 0 && tbit e 6 && !reservedBits e 0 && bits e 12 40 * 4096 == base + 4096 * j
      && bits e 2 4 == bits e0 2 4 && tbit e 8 == tbit e0 8
  if same && base % 65536 == 0 then
    some { leafOf ctx e0 va 0 with va := va / 65536 * 65536, span := 65536, pa := base }
  else none

/-! Pages under migration (R251 to R254). -/

def Station.migrOf (x : Station) (pa : Nat) : Option Migr := x.migr.find? fun m => m.page == pa / 4096
def State.migrOf (s : State) (pa : Nat) : Option Migr := (s.station (paStation pa)).migrOf pa

/-- Whether a page is out of its home here, or, at a delegate, back on its way: another module performs its accesses (R251, R253). -/
def Migr.out (m : Migr) : Bool := if m.home then m.st == .away else m.sent || m.st == .closing

/-- Whether the home slice of an address is one of this module, as home or as delegate (R177, R251). -/
def State.servesHere (s : State) (pa : Nat) : Bool :=
  match s.migrOf pa with
  | some m => !m.out
  | none => paModule pa == s.modnum

/-- Whether an access of this module to a page waits: the home holds arrivals while the page leaves or comes back, the held ones are
forwarded first, and those forwarded back go before any other (R252, R253). Of a page that is away `mem` holds what the delegate has
(R251, log 25). -/
def State.pageHeld (s : State) (pa : Nat) : Bool :=
  let left (drain : Bool) : Bool := (s.station (paStation pa)).rems.any fun r => r.pa / 4096 == pa / 4096 && (r.drain || !drain)
  match s.migrOf pa with
  | some m => m.home && (m.st == .leaving || m.st == .closing || (m.st == .away && left false))
  | none => left true

/-- The walk of R182 from a table at a level down, with the pointer entries it meets. -/
def State.walkFrom (s : State) (ctx va : Nat) : Nat → Nat → List WcEntry → Walked
  | level, tab, wcs =>
    let idx := bits va (12 + 9 * level) 9
    let e := s.homeN (tab + 8 * idx) 8
    if !tbit e 0 then .fault 0x1 level wcs
    else if reservedBits e level then .fault 0x3 level wcs
    else if level = 0 ∨ (level = 1 ∧ tbit e 1) then
      let l := leafOf ctx e va level
      let k := s.paKind l.pa
      if k = .bad ∨ k = .gone ∨ s.paKind (l.pa + l.span - 1) ≠ k then .fault 0x5 level wcs
      else if level = 0 ∧ tbit e 6 then
        match s.contLeaf ctx tab va with
        | some l => .leaf (s.narrow l) wcs false
        | none => .leaf (s.narrow l) wcs true
      else .leaf (s.narrow l) wcs false
    else
      let t := bits e 12 40 * 4096
      if !s.inStations t then .fault 0x6 level wcs
      else
        let wcs := if 2 ≤ level then ⟨ctx, level, va / 2 ^ (12 + 9 * level), t⟩ :: wcs else wcs
        match level with
        | 0 => .fault 0x1 0 wcs
        | n + 1 => walkFrom s ctx va n t wcs

/-- The translation root of a context (R179, R322). -/
def State.root (s : State) (st ctx : Nat) : Nat := s.cbBits st (0x2000 + 0x40 * ctx) 12 40 * 4096

/-- Where a walk starts: at the root, or lower where the walk caches have an entry (R185): level and table. -/
def State.walkStart (s : State) (st ctx va : Nat) : Option (Nat × Nat) :=
  let hit (level : Nat) := (s.station st).wc.find? fun e => e.ctx == ctx && e.level == level && e.va == va / 2 ^ (12 + 9 * level)
  match hit 2 with
  | some e => some (1, e.next)
  | none =>
    match hit 3 with
    | some e => some (2, e.next)
    | none =>
      match hit 4 with
      | some e => some (3, e.next)
      | none => if s.inStations (s.root st ctx) then some (4, s.root st ctx) else none

/-- A walk (R182). -/
def State.walk (s : State) (st ctx va : Nat) : Walked :=
  match s.walkStart st ctx va with
  | some (level, tab) => s.walkFrom ctx va level tab []
  | none => .fault 0x6 4 []

/-- The addresses of the entries that a walk from a table down reads. -/
def State.walkReads (s : State) (va : Nat) : Nat → Nat → List Nat
  | level, tab =>
    let a := tab + 8 * bits va (12 + 9 * level) 9
    let e := s.homeN a 8
    a :: if tbit e 0 && !reservedBits e level && !(level == 1 && tbit e 1) && s.inStations (bits e 12 40 * 4096) then
      match level with
      | 0 => []
      | n + 1 => walkReads s va n (bits e 12 40 * 4096)
    else []

/-- The entries that the walk of an address reads, from where the walk caches let it start. -/
def State.walkEntries (s : State) (st ctx va : Nat) : List Nat :=
  match s.walkStart st ctx va with
  | some (level, tab) => s.walkReads va level tab
  | none => []

/-- Whether a cached leaf translates an address. -/
def Leaf.covers (l : Leaf) (ctx va : Nat) : Bool := l.ctx == ctx && decide (l.va ≤ va) && decide (va < l.va + l.span)

/-- The cached translation of an address: the core's first, then the station's. -/
def State.cached (s : State) (t : Tid) (ctx va : Nat) : Option Leaf :=
  match (s.core t.st t.co).mutlb.find? (·.covers ctx va) with
  | some l => some l
  | none => (s.station t.st).tlb.find? (·.covers ctx va)

/-- A translation as an access sees it. -/
inductive Xl where
  | pa (a : Nat) (nc : Bool)
  | seg (frame b : Nat)
  | miss
  | fault (sub level : Nat)
  deriving DecidableEq, Repr

/-- Whether a translation waits: no cached leaf serves it, and its walk comes to an entry in a page whose accesses are held (R252). -/
def State.walkWaits (s : State) (t : Tid) (ctx va : Nat) : Bool :=
  (s.stations.any fun x => !x.2.migr.isEmpty || !x.2.rems.isEmpty) && decide (va < 2 ^ 57) && !inSegRegion va && (s.cached t ctx va).isNone &&
    (s.walkEntries t.st ctx va).any s.pageHeld

/-- What a leaf gives an access: its physical address, or a permission fault at the leaf's level (R182). -/
def Leaf.xl (l : Leaf) (va : Nat) (acc : Access) (priv : Priv) : Xl :=
  if l.permits acc priv then .pa (l.pa + (va - l.va)) l.nc else .fault 0x2 (if l.span = 2 ^ 21 then 1 else 0)

/-- Addresses that no table translates: non-canonical ones (R174) and the segment window region (R175). -/
def preXl (va : Nat) (acc : Access) : Option Xl :=
  if 2 ^ 57 ≤ va then some (.fault 0x4 4)
  else if inSegRegion va then
    match acc with
    | .read =>
      let o := va - segBase
      if 64 * 2 ^ 22 ≤ o then some (.fault 0x1 4)
      else if 2304000 ≤ o % 2 ^ 22 then some (.fault 0x1 0)
      else some (.seg (o / 2 ^ 22) (o % 2 ^ 22))
    | _ => some (.fault 0x2 0)
  else none

/-- An access with a byte beyond a host window, or to an unusable one, is out of range (R388). -/
def State.hostOk (s : State) (st pa n : Nat) : Bool :=
  let w := 0x5000 + 0x20 * paStation pa
  decide (paStation pa < 64) && tbit (s.cb st (w + 0x18)).toNat 0 && decide (paOff pa + n ≤ s.cbBits st (w + 8) 0 35)

/-- Messages of the module's own accesses to a host window: kinds of the model's own. -/
def msgWrite : Nat := 0x40
def msgWriteImm : Nat := 0x41
def msgFetch : Nat := 0x44

/-- An access to a host window leaves on the window's queue pair, for its port: the host virtual address, the remote key, the port,
the bytes or their number (R388). -/
def State.hostSend (s : State) (st kind pa n : Nat) (bs : List Byte) : State :=
  let w := 0x5000 + 0x20 * paStation pa
  s.send kind (s.cbBits st (w + 0x10) 8 24)
    (leBytes 8 ((s.cb st w).toNat + paOff pa) ++ leBytes 4 (s.cbBits st (w + 0x10) 32 32) ++ [BitVec.ofNat 8 (s.cbBits st (w + 0x10) 0 2)] ++ leBytes 4 n ++ bs)

/-- What an access of a station leaves on the host link, where it is one to a host window. -/
def State.hostRead (s : State) (st pa n : Nat) : State := if s.paKind pa = .host then s.hostSend st msgFetch pa n [] else s
def State.hostStore (s : State) (st pa : Nat) (bs : List Byte) : State :=
  if s.paKind pa = .host then s.hostSend st msgWrite pa bs.length bs else s

/-- A translation of one address without walking (R182, R185). -/
def State.xlate (s : State) (t : Tid) (ctx : Nat) (priv : Priv) (va : Nat) (acc : Access) : Xl :=
  match preXl va acc with
  | some x => x
  | none =>
    match s.cached t ctx va with
    | some l => l.xl va acc priv
    | none => .miss

/-- A translation of one address in full: a walk where nothing is cached. The walk's fills are made by `State.fill`. -/
def State.xlateFull (s : State) (t : Tid) (ctx : Nat) (priv : Priv) (va : Nat) (acc : Access) : Xl :=
  match s.xlate t ctx priv va acc with
  | .miss =>
    match s.walk t.st ctx va with
    | .leaf l _ _ => l.xl va acc priv
    | .fault sub level _ => .fault sub level
  | x => x

/-- Puts a leaf first, dropping it elsewhere, and keeps at most `n`: the least recently used goes (R185; of the station's caches log 10). -/
def putFirst {α : Type} [BEq α] (n : Nat) (x : α) (l : List α) : List α := (x :: l.filter (· != x)).take n

/-- The shared TLB with a leaf filled: 8 ways in each of 512 sets, the leaf filled least recently going first (R185, log 10). -/
def tlbFill (l : Leaf) (tlb : List Leaf) : List Leaf :=
  let rest := tlb.filter (· != l)
  if rest.length < 8 then l :: rest
  else
    let mine (m : Leaf) : Bool := Config.tlbSet m.ctx m.va m.span % 512 == Config.tlbSet l.ctx l.va l.span % 512
    match (rest.filter mine).getLast? with
    | some v => if (rest.filter mine).length < 8 then l :: rest else l :: rest.erase v
    | none => l :: rest

/-- What a walk finds in the entries that it reads (R371). -/
def State.walkMarks (s : State) (st ctx va : Nat) : State := (s.walkEntries st ctx va).foldl (fun s a => s.readMarks a 8) s

/-- A walk fills the core's and the station's TLB and the walk caches; a faulting one caches only the valid pointer
entries above the fault (R184, R185), and one for a leaf that is not kept caches those above it. HINTBAD is set where a group was unfit for its
hint, kept or not (R183). -/
def State.fill (s : State) (t : Tid) (w : Walked) (keep : Bool := true) : State :=
  let addWc (s : State) (wcs : List WcEntry) :=
    s.modStation t.st fun x => { x with wc := wcs.foldr (putFirst 256) x.wc }
  match w with
  | .fault _ _ wcs => addWc s wcs
  | .leaf l wcs bad =>
    let s := addWc s wcs
    let s := if keep then (s.modStation t.st fun x => { x with tlb := tlbFill l x.tlb }).modCore t.st t.co fun c => { c with mutlb := putFirst 64 l c.mutlb } else s
    if bad then s.setCb t.st 0x50 (s.cb t.st 0x50 ||| 2) else s

/-- A use of a cached leaf: it becomes the most recent of its micro-TLB (R185). -/
def State.useLeaf (s : State) (t : Tid) (ctx va : Nat) : State :=
  match s.cached t ctx va with
  | some l => s.modCore t.st t.co fun c => { c with mutlb := putFirst 64 l c.mutlb }
  | none => s

/-- A cached leaf whose translation of an access faults is cached no longer: the walk runs again on a resume (R184, log 88). -/
def State.dropLeaf (s : State) (t : Tid) (ctx va : Nat) : State :=
  match s.cached t ctx va with
  | some _ =>
    (s.modStation t.st fun x => { x with tlb := x.tlb.filter fun l => !l.covers ctx va }).modCore t.st t.co fun c =>
      { c with mutlb := c.mutlb.filter fun l => !l.covers ctx va }
  | none => s

/-- A full translation with its fills; one that faults is not cached (R184). -/
def State.xlateFill (s : State) (t : Tid) (ctx : Nat) (priv : Priv) (va : Nat) (acc : Access) : Xl × State :=
  match s.xlate t ctx priv va acc with
  | .miss =>
    let w := s.walk t.st ctx va
    let s := s.walkMarks t.st ctx va
    match w with
    | .leaf l _ _ =>
      match l.xl va acc priv with
      | .fault sub level => (.fault sub level, s.fill t w false)
      | x => (x, s.fill t w)
    | .fault sub level _ => (.fault sub level, s.fill t w)
  | .fault sub level => (.fault sub level, s.dropLeaf t ctx va)
  | x => (x, s.useLeaf t ctx va)

/-- The level of the leaf that translates an address: 1 for one of 2 MiB (R192). -/
def State.leafLevel (s : State) (t : Tid) (ctx va : Nat) : Nat :=
  let level (l : Leaf) : Nat := if l.span = 2 ^ 21 then 1 else 0
  match s.cached t ctx va with
  | some l => level l
  | none =>
    match s.walk t.st ctx va with
    | .leaf l _ _ => level l
    | .fault _ level _ => level

/-- An access of some bytes in the host window that no usable window holds whole faults as out of range, at the level of its leaf
(R388, R192). -/
def State.checkHost (s : State) (t : Tid) (ctx va n : Nat) (x : Xl) : Xl :=
  match x with
  | .pa a _ => if s.paKind a == .host && !s.hostOk t.st a n then .fault 0x5 (s.leafLevel t ctx va) else x
  | x => x

/-- A translation of an access of some bytes, with its fills and the check of the host windows: whatever of it faults is not cached
(R184). -/
def State.xlateTo (s : State) (t : Tid) (ctx : Nat) (priv : Priv) (va n : Nat) (acc : Access) : Xl × State :=
  let (x, s) := s.xlateFill t ctx priv va acc
  match s.checkHost t ctx va n x with
  | .fault sub level => (.fault sub level, s.dropLeaf t ctx va)
  | x => (x, s)

/-- A check behind a good translation that answers a translation fault: the leaf is cached no longer (R184). -/
def State.dropOn {α : Type} (t : Tid) (ctx va : Nat) (r : Except FRec α × State) : Except FRec α × State :=
  match r with
  | (.error f, s) => (.error f, if f.cause = 0x01 then s.dropLeaf t ctx va else s)
  | r => r

/-- The pages that a byte range touches. -/
def pagesOf (va n : Nat) : List Nat :=
  if n = 0 then [] else (List.range ((va + n - 1) / 4096 - va / 4096 + 1)).map fun i => max va ((va / 4096 + i) * 4096)

/-- Translates every page of a range, stopping at the first fault: the physical runs (address, length) in order (R188). -/
def State.xlateRange (s : State) (t : Tid) (ctx : Nat) (priv : Priv) (va n : Nat) (acc : Access) :
    Except (Nat × Nat × Nat) (List (Xl × Nat)) × State :=
  (pagesOf va n).foldl (fun (r, s) a =>
    match r with
    | .error e => (.error e, s)
    | .ok l =>
      let len := min (va + n) ((a / 4096 + 1) * 4096) - a
      match s.xlateTo t ctx priv a len acc with
      | (.fault sub level, s) => (.error (sub, level, a), s)
      | (x, s) => (.ok (l ++ [(x, len)]), s)) (.ok [], s)

/-- A byte of a segment that a frame shows (R265); what a read returns after the expiry is `State.segByte`'s caller's. -/
def State.frame (s : State) (st f : Nat) : Resident := Tab.get (s.station st).frames f
def State.hasFrame (s : State) (st f : Nat) : Bool := Tab.has (s.station st).frames f

/-- Whether bytes b to b + n - 1 of a frame can be read: a segment stands there until its expiry, and a marker shows its header
alone (R175, R265, R266). -/
def State.frameHas (s : State) (st f b n : Nat) : Bool :=
  let r := s.frame st f
  s.hasFrame st f && decide (s.cyc < r.expiry) && decide (b + n ≤ 2304000) && (!r.marker || decide (b + n ≤ 256))

/-- The cycle from which byte b of the segment in a frame can be read (R264). -/
def State.frameReady (s : State) (st f b : Nat) : Nat := (s.frame st f).arrive + 8 + b / 6400
def State.segBytes (s : State) (st f b n : Nat) : List Byte := (s.frame st f).bytes.bytes b n

end Sys2Proof.Machine
end

