-- ==== Sys2Proof/Machine/Cache.lean ====
section
/-! DEFINITION. Home-slice memory with queue SRAM (R176, R226, R228, R290), the L1 and its dirty-line FIFO (R189 to R191,
R198), release and acquire (R191, R201, R231). -/

namespace Sys2Proof.Machine

/-! Writes at the home slice. -/

/-- Writes one byte at its home slice. -/
def State.homeSet (s : State) (pa : Nat) (v : Byte) : State :=
  let st := paStation pa
  if (s.station st).qres.any fun q => decide (q.pa ≤ pa) && decide (pa < q.pa + 64) then
    s.modStation st fun x => { x with qres := x.qres.map fun q =>
      if q.pa ≤ pa ∧ pa < q.pa + 64 then { q with bytes := q.bytes.set (pa - q.pa) v } else q }
  else { s with mem := Cells.set s.mem pa v }

def State.homeSetEach (s : State) : List (Nat × Byte) → State
  | [] => s
  | (a, v) :: rest => State.homeSetEach (s.homeSet a v) rest

/-- A write to an uncorrectable word clears its mark (R371). -/
def State.clearMarks (s : State) (st : Nat) (bs : List (Nat × Byte)) : State :=
  if (s.station st).uncorr.isEmpty then s
  else s.modStation st fun x => { x with uncorr := x.uncorr.filter fun m => !bs.any fun b => b.1 / 8 * 8 == m.1 }

/-- Bytes written in the mirrored region of a station go on to the successor (R376). -/
def State.mirror (s : State) (st : Nat) (bs : List (Nat × Byte)) : State :=
  let lo := s.pa st (s.cbBits st 0x3048 0 35)
  let n := s.cbBits st 0x3050 0 35
  if n = 0 then s
  else
    match bs.filter fun b => decide (lo ≤ b.1) && decide (b.1 < lo + n) with
    | [] => s
    | l => s.modStation st fun x => { x with mirrors := x.mirrors ++ [⟨lo, l⟩] }

/-- Bytes are written at their home slice, in one step. -/
def State.homeSetAll (s : State) (bs : List (Nat × Byte)) : State :=
  match bs with
  | [] => s
  | (a, v) :: rest =>
    let s := s.homeSetEach ((a, v) :: rest)
    if paModule a = s.modnum then (s.clearMarks (paStation a) ((a, v) :: rest)).mirror (paStation a) ((a, v) :: rest) else s

/-- Writes bytes from an address upward, or the low bytes of a number. -/
def State.homePut (s : State) (pa : Nat) (bs : List Byte) : State := s.homeSetAll ((List.range bs.length).map (pa + ·) |>.zip bs)
def State.homePutN (s : State) (pa n v : Nat) : State := s.homePut pa (leBytes n v)

/-! The L1. -/

/-- The number held in bytes, and the mask of a byte range, within a line. -/
def lineMask (o n : Nat) : BitVec 128 := BitVec.ofNat 128 ((2 ^ n - 1) * 2 ^ o)

/-- A line's byte. -/
def Line.byte (l : Line) (o : Nat) : Byte := BitVec.ofNat 8 (l.data.toNat / 2 ^ (8 * o))

def Line.setByte (l : Line) (o : Nat) (v : Byte) : Line :=
  { l with data := BitVec.ofNat 1024 (setBits l.data.toNat (8 * o) 8 v.toNat) }

/-- The dirty bytes of a line, with their addresses. -/
def Line.dirty (l : Line) : List (Nat × Byte) :=
  (List.range 128).filterMap fun o => if l.mask.getLsbD o then some (l.la + o, l.byte o) else none

/-- Whether a byte range of a line can be served from it (R198). -/
def Line.serves (l : Line) (o n : Nat) : Bool := l.clean || (lineMask o n &&& ~~~ l.mask) == 0

def Core.line? (c : Core) (la : Nat) : Option Line := c.lines.find? (·.la == la)
def Core.putLine (c : Core) (l : Line) : Core := { c with lines := l :: c.lines.filter (·.la != l.la) }
def Core.dropLine (c : Core) (la : Nat) : Core := { c with lines := c.lines.filter (·.la != la) }
def Core.dropFifo (c : Core) (la : Nat) : Core :=
  { c with fifo := c.fifo.filter fun | .line a => a != la | _ => true }

/-- Marks a superblock most recently used (R189). -/
def Core.touch (c : Core) (la : Nat) : Core := { c with lru := la / 512 :: c.lru.filter (· != la / 512) }

/-- A line's dirty bytes leave for its home slice; the line becomes clean, or goes where it held no valid clean data (R191,
R198). -/
def State.writeBack (s : State) (st co la : Nat) (keep : Bool) : State :=
  let c := s.core st co
  match c.line? la with
  | none => s
  | some l =>
    let c := if keep ∧ l.clean then c.putLine { l with mask := 0 } else c.dropLine la
    if l.mask = 0 then s.setCore st co c
    else
      let (id, s) := s.fresh
      s.setCore st co { c.dropFifo la with wbs := c.wbs ++ [{ id := id, pa := la, bytes := l.dirty, ord := l.ord, since := s.cyc }] }

/-- Evicts the least recently used superblock of a set that holds eight, to make room for another (R189). -/
def State.makeRoom (s : State) (st co la : Nat) : State :=
  let c := s.core st co
  let sb := la / 512
  let live := c.lru.filter fun b => c.lines.any fun l => l.la / 512 == b
  let inSet := live.filter fun b => b % 64 == sb % 64 && b != sb
  match inSet.getLast? with
  | some v =>
    if inSet.length < 8 then s
    else
      let s := ((c.lines.filter fun l => l.la / 512 == v).map Line.la).foldl (fun s a => s.writeBack st co a false) s
      s.modCore st co fun c => { c with lru := c.lru.filter (· != v) }
  | none => s

/-- A line whose clean data are older than what the home slice now holds: they are dropped, dirty bytes stay (R206, R229). -/
def Core.staleLine (c : Core) (pa : Nat) : Core :=
  { c with lines := c.lines.filterMap fun l => if l.la ≠ pa / 128 * 128 then some l else if l.mask = 0 then none else some { l with clean := false } }

/-- A PREF.W marks its line for a write (R204). -/
def Core.markWrite (c : Core) (la : Nat) : Core := { c with lines := c.lines.map fun l => if l.la = la then { l with wr := true } else l }

/-- Fills the missing line, or refills its clean data under the mask of its dirty bytes (R189, R198). -/
def State.fillLine (s : State) (st co la : Nat) : State :=
  let fresh := BitVec.ofNat 1024 (s.homeN la 128)
  match (s.core st co).line? la with
  | some l =>
    let l := ((List.range 128).foldl (fun l o => if l.mask.getLsbD o then l else l.setByte o (BitVec.ofNat 8 (fresh.toNat / 2 ^ (8 * o)))) l)
    s.modCore st co fun c => (c.putLine { l with clean := true }).touch la
  | none =>
    let s := s.makeRoom st co la
    s.modCore st co fun c => (c.putLine { la := la, clean := true, data := fresh, mask := 0 }).touch la

/-- A store leaves the store buffer for a line of the L1: the line is filled on a miss, its bytes are merged and marked, and
a clean line that becomes dirty joins the FIFO (R189, R191). -/
def State.storeLine (s : State) (st co pa n v : Nat) : State :=
  let la := pa / 128 * 128
  let o := pa % 128
  let s := if ((s.core st co).line? la).isSome then s else s.fillLine st co la
  s.modCore st co fun c =>
    match c.line? la with
    | none => c
    | some l =>
      let wasClean := l.mask == 0
      let l := { l with data := BitVec.ofNat 1024 (setBits l.data.toNat (8 * o) (8 * n) v), mask := l.mask ||| lineMask o n }
      if wasClean then
        { (c.putLine { l with ord := c.ord }).touch la with fifo := c.fifo ++ [.line la], ord := c.ord + 1 }
      else (c.putLine l).touch la

/-- Line entries now in the FIFO; markers do not count (R191). -/
def Core.fifoLines (c : Core) : Nat := c.fifo.countP fun | .line _ => true | _ => false
def Core.marks (c : Core) : Nat := c.fifo.countP fun | .mark _ _ => true | _ => false

/-- Whether the lines homed at an address fall under an acquire's scope (R201). -/
def State.scopeCovers (s : State) (st : Nat) (scope : Scope) (la : Nat) : Bool :=
  match scope with
  | .station => paModule la == s.modnum && paStation la == st
  | .modul => paModule la == s.modnum
  | .domain => true
  | .system => true
  | _ => false

/-- The valid superblocks that an acquire's invalidation affects (R201). -/
def State.invalCount (s : State) (st co : Nat) (scope : Scope) : Nat :=
  (((s.core st co).lines.filter fun l => l.clean && s.scopeCovers st scope l.la).map fun l => l.la / 512).eraseDups.length

/-- The clean data of the lines under the scope are dropped; dirty bytes stay (R198, R201). -/
def State.invalidate (s : State) (st co : Nat) (scope : Scope) : State :=
  let one (l : Line) : Option Line :=
    if !s.scopeCovers st scope l.la then some l
    else if l.mask = 0 then none
    else some { l with clean := false }
  s.modCore st co fun c => { c with lines := c.lines.filterMap one }

/-- The cycles of an invalidation: 64 and one for each superblock (R201). -/
def State.invalTime (s : State) (st co : Nat) (scope : Scope) : Nat := 64 + s.invalCount st co scope

/-- Starts an acquire: nothing to do up to CORE, else an invalidation (R201). The queue that acquires issues nothing until then. -/
def State.startAcquire (s : State) (t : Tid) (scope : Scope) (q : QName) : State :=
  if scope.code ≤ 2 then s
  else s.modThread t fun th => { th with acq := th.acq ++ [⟨scope, s.cyc + s.invalTime t.st t.co scope, q⟩] }

/-! Releases. -/

/-- The writes of a thread that went past its L1 and whose acknowledgement a release at a scope awaits: those to the host
window count at SYSTEM alone (R201). -/
def State.pastWrites (s : State) (t : Tid) (scope : Scope) : List Wb :=
  (s.core t.st t.co).wbs.filter fun w => w.by_ == some t && (scope == .system || s.paKind w.pa != .host)

/-- One step of a release that a word with stream number `seq` makes (R191, R200, R201): the thread's store buffer is
empty, its earlier operations are performed, a marker has been placed in the FIFO and has left it, and the writes past the
L1 are acknowledged; at MODULE scope or wider the mirror copies are performed (R376). Answers whether the release is complete. -/
def State.release (s : State) (t : Tid) (seq : Nat) (r : Rel) : Bool × Rel × State :=
  let th := s.thread t
  if r.scope.code ≤ 1 then (true, r, s)
  else if th.sb.any (fun b => decide (b.e.seq < seq)) || th.ops.any (fun o => decide (o.e.seq < seq) && o.stage != .done) then (false, r, s)
  else if r.scope = .core then (true, r, s)
  else
    let c := s.core t.st t.co
    match r.mark with
    | none =>
      if 16 ≤ c.marks then (false, r, s)
      else
        let (id, s) := s.fresh
        (false, { r with mark := some id },
         s.setCore t.st t.co { c with fifo := c.fifo ++ [.mark id c.ord], ord := c.ord + 1 })
    | some id =>
      if c.fifo.any (fun | .mark i _ => i == id | _ => false) then (false, r, s)
      else ((s.pastWrites t r.scope).isEmpty && (decide (r.scope.code < 4) || s.stations.all fun x => x.2.mirrors.isEmpty), r, s)

/-- The same for a waiting word, whose progress its queue entry keeps: `mark` is the marker's number plus one. -/
def Ctx.release (x : Ctx) (s : State) (e : Entry) (scope : Scope) : Bool × Entry × State :=
  let r : Rel := { scope := scope, mark := if e.mark = 0 then none else some (e.mark - 1) }
  let (done, r, s) := s.release x.t x.e.seq r
  (done, { e with mark := match r.mark with
    | none => 0
    | some m => m + 1 }, s)

end Sys2Proof.Machine
end

