-- ==== Sys2Proof/Machine/Records.lean ====
section
/-! DEFINITION. Save records by context and index (R312, R415), and the answer of a pre-emption request (R309). -/

namespace Sys2Proof.Machine

/-- The save record of a context, its station-memory offset (R312). -/
def State.recOff (s : State) (st c n : Nat) : Nat :=
  s.cbBits st (0x1800 + 0x20 * c) 0 35 + n * s.cbBits st (0x1808 + 0x20 * c) 0 16 * 65536

/-- The state byte of a save record (R415). -/
def State.recState (s : State) (st c n : Nat) : Nat := (s.homeByte (s.pa st (s.recOff st c n))).toNat
def State.setRecState (s : State) (st c n v : Nat) : State := s.homePutN (s.pa st (s.recOff st c n)) 1 v

/-- A standing request is answered; its reserved record is freed unless a save follows (R309). -/
def State.answer (s : State) (t : Tid) (keep : Bool) : State :=
  match (s.thread t).preq with
  | none => s
  | some r =>
    let s := s.modThread t fun th => { th with preq := none }
    if keep then s else s.setRecState t.st (s.thread t).ctx r.recd 0

end Sys2Proof.Machine
end

