-- ==== Sys2Proof/Machine/Scalar.lean ====
section
/-! DEFINITION. The scalar engine's arithmetic, compares, predicate logic, immediates, LOOP and GETC/SETC (R78 to R84, R90,
R97, R99). -/

namespace Sys2Proof.Machine

open Host

/-- A word that reads registers as it issues and whose writes land after a fixed latency (R29, R78). -/
def State.scalar (s : State) (c : Ctl) (lat extra : Nat) (f : Ctx → State → List RegW) : State :=
  s.issue c {} extra fun x s => .done (x.write s lat (f x s))

/-- S[d] := f (S[a], S[b]). -/
def State.alu2 (s : State) (c : Ctl) (lat : Nat) (d a b : SReg) (f : Word → Word → Word) : State :=
  s.scalar c lat 0 fun x s => wrS x.e.base d (f (x.s s a) (x.s s b))

/-- S[d] := f (S[a]). -/
def State.alu1 (s : State) (c : Ctl) (d a : SReg) (f : Word → Word) : State :=
  s.scalar c 1 0 fun x s => wrS x.e.base d (f (x.s s a))

/-- The division forms: latency 9, eight further thread cycles of the S queue, and the IDZ flag for a zero divisor (R79). -/
def State.aluDiv (s : State) (c : Ctl) (d a b : SReg) (f : Word → Word → Word) : State :=
  s.scalar c 9 8 fun x s => wrS x.e.base d (f (x.s s a) (x.s s b)) ++ if x.s s b = 0 then [.flags flIDZ] else []

/-- Bits 127:64 of a product. -/
def mulhiS (a b : Word) : Word := BitVec.ofInt 64 (a.toInt * b.toInt / (2 ^ 64 : Nat))
def mulhiU (a b : Word) : Word := BitVec.ofNat 64 (a.toNat * b.toNat / 2 ^ 64)

/-- The quotients and remainders of R78 with the fixed results of R79. -/
def divS (a b : Word) : Word := if b = 0 then BitVec.allOnes 64 else BitVec.ofInt 64 (a.toInt.tdiv b.toInt)
def divU (a b : Word) : Word := if b = 0 then BitVec.allOnes 64 else BitVec.ofNat 64 (a.toNat / b.toNat)
def remS (a b : Word) : Word := if b = 0 then a else BitVec.ofInt 64 (a.toInt.tmod b.toInt)
def remU (a b : Word) : Word := if b = 0 then a else BitVec.ofNat 64 (a.toNat % b.toNat)

/-- Shifts by the amount modulo 64, and the other one-cycle operations of R78. -/
def shlW (a b : Word) : Word := a <<< (b.toNat % 64)
def shrW (a b : Word) : Word := a >>> (b.toNat % 64)
def sarW (a b : Word) : Word := a.sshiftRight (b.toNat % 64)
def rolW (a b : Word) : Word := a.rotateLeft (b.toNat % 64)
def minS (a b : Word) : Word := if a.sle b then a else b
def maxS (a b : Word) : Word := if a.sle b then b else a
def minU (a b : Word) : Word := if a.ule b then a else b
def maxU (a b : Word) : Word := if a.ule b then b else a

/-- Leading zeros, 0 to 64. -/
def clzW (a : Word) : Word := BitVec.ofNat 64 (if a = 0 then 64 else 63 - Nat.log2 a.toNat)

/-- The number of ones. -/
def popcW (a : Word) : Word := BitVec.ofNat 64 ((List.range 64).countP fun i => a.getLsbD i)

/-- Bit k moves to bit 63 - k. -/
def brevW (a : Word) : Word :=
  BitVec.ofNat 64 ((List.range 64).foldl (fun n i => 2 * n + if a.getLsbD i then 1 else 0) 0)

def execAdd (c : Ctl) (d a b : SReg) (s : State) : Outcome State Fault Refusal := .next (s.alu2 c 1 d a b (· + ·))
def execSub (c : Ctl) (d a b : SReg) (s : State) : Outcome State Fault Refusal := .next (s.alu2 c 1 d a b (· - ·))
def execMul (c : Ctl) (d a b : SReg) (s : State) : Outcome State Fault Refusal := .next (s.alu2 c 2 d a b (· * ·))
def execMulhi (c : Ctl) (d a b : SReg) (s : State) : Outcome State Fault Refusal := .next (s.alu2 c 3 d a b mulhiS)
def execMulhn (c : Ctl) (d a b : SReg) (s : State) : Outcome State Fault Refusal := .next (s.alu2 c 3 d a b mulhiU)
def execDiv (c : Ctl) (d a b : SReg) (s : State) : Outcome State Fault Refusal := .next (s.aluDiv c d a b divS)
def execDivn (c : Ctl) (d a b : SReg) (s : State) : Outcome State Fault Refusal := .next (s.aluDiv c d a b divU)
def execRem (c : Ctl) (d a b : SReg) (s : State) : Outcome State Fault Refusal := .next (s.aluDiv c d a b remS)
def execRemn (c : Ctl) (d a b : SReg) (s : State) : Outcome State Fault Refusal := .next (s.aluDiv c d a b remU)
def execAnd (c : Ctl) (d a b : SReg) (s : State) : Outcome State Fault Refusal := .next (s.alu2 c 1 d a b (· &&& ·))
def execOr (c : Ctl) (d a b : SReg) (s : State) : Outcome State Fault Refusal := .next (s.alu2 c 1 d a b (· ||| ·))
def execXor (c : Ctl) (d a b : SReg) (s : State) : Outcome State Fault Refusal := .next (s.alu2 c 1 d a b (· ^^^ ·))
def execAndn (c : Ctl) (d a b : SReg) (s : State) : Outcome State Fault Refusal := .next (s.alu2 c 1 d a b (fun a b => a &&& ~~~ b))
def execShl (c : Ctl) (d a b : SReg) (s : State) : Outcome State Fault Refusal := .next (s.alu2 c 1 d a b shlW)
def execShr (c : Ctl) (d a b : SReg) (s : State) : Outcome State Fault Refusal := .next (s.alu2 c 1 d a b shrW)
def execSar (c : Ctl) (d a b : SReg) (s : State) : Outcome State Fault Refusal := .next (s.alu2 c 1 d a b sarW)
def execRol (c : Ctl) (d a b : SReg) (s : State) : Outcome State Fault Refusal := .next (s.alu2 c 1 d a b rolW)
def execMin (c : Ctl) (d a b : SReg) (s : State) : Outcome State Fault Refusal := .next (s.alu2 c 1 d a b minS)
def execMax (c : Ctl) (d a b : SReg) (s : State) : Outcome State Fault Refusal := .next (s.alu2 c 1 d a b maxS)
def execMinn (c : Ctl) (d a b : SReg) (s : State) : Outcome State Fault Refusal := .next (s.alu2 c 1 d a b minU)
def execMaxn (c : Ctl) (d a b : SReg) (s : State) : Outcome State Fault Refusal := .next (s.alu2 c 1 d a b maxU)
def execClz (c : Ctl) (d a : SReg) (s : State) : Outcome State Fault Refusal := .next (s.alu1 c d a clzW)
def execPopc (c : Ctl) (d a : SReg) (s : State) : Outcome State Fault Refusal := .next (s.alu1 c d a popcW)
def execBrev (c : Ctl) (d a : SReg) (s : State) : Outcome State Fault Refusal := .next (s.alu1 c d a brevW)

/-- SEL takes S[a] when the predicate, inverted by n, is true (R82). -/
def execSel (c : Ctl) (d a b : SReg) (n : Bool) (p : PReg) (s : State) : Outcome State Fault Refusal :=
  .next (s.scalar c 1 0 fun x s => wrS x.e.base d (if x.p s p != n then x.s s a else x.s s b))

/-- CMP writes a predicate (R83). -/
def execCmp (c : Ctl) (p : PReg) (a b : SReg) (cc : Cond) (s : State) : Outcome State Fault Refusal :=
  .next (s.scalar c 1 0 fun x s => wrP x.e.base p (cc.holds (x.s s a) (x.s s b)))

/-- Predicate logic (R84). -/
def State.plog (s : State) (c : Ctl) (d a b : PReg) (f : Bool → Bool → Bool) : State :=
  s.scalar c 1 0 fun x s => wrP x.e.base d (f (x.p s a) (x.p s b))

def execPand (c : Ctl) (d a b : PReg) (s : State) : Outcome State Fault Refusal := .next (s.plog c d a b and)
def execPor (c : Ctl) (d a b : PReg) (s : State) : Outcome State Fault Refusal := .next (s.plog c d a b or)
def execPxor (c : Ctl) (d a b : PReg) (s : State) : Outcome State Fault Refusal := .next (s.plog c d a b xor)
def execPnot (c : Ctl) (d a : PReg) (s : State) : Outcome State Fault Refusal := .next (s.plog c d a a fun x _ => !x)

/-- LEA (R82). -/
def execLea (c : Ctl) (d a b : SReg) (sh : Fin 16) (s : State) : Outcome State Fault Refusal :=
  .next (s.alu2 c 1 d a b fun a b => a + (b <<< sh.val))

def execAddi (c : Ctl) (d a : SReg) (i : Fin 512) (s : State) : Outcome State Fault Refusal := .next (s.alu1 c d a fun x => x + ofInt64 (immS 9 i.val c.imms))
def execAndi (c : Ctl) (d a : SReg) (i : Fin 512) (s : State) : Outcome State Fault Refusal := .next (s.alu1 c d a fun x => x &&& ofInt64 (immS 9 i.val c.imms))
def execOri (c : Ctl) (d a : SReg) (i : Fin 512) (s : State) : Outcome State Fault Refusal := .next (s.alu1 c d a fun x => x ||| BitVec.ofNat 64 (immZ 9 i.val c.imms))
def execXori (c : Ctl) (d a : SReg) (i : Fin 512) (s : State) : Outcome State Fault Refusal := .next (s.alu1 c d a fun x => x ^^^ BitVec.ofNat 64 (immZ 9 i.val c.imms))
def execShli (c : Ctl) (d a : SReg) (i : Fin 512) (s : State) : Outcome State Fault Refusal := .next (s.alu1 c d a fun x => x <<< (i.val % 64))
def execShri (c : Ctl) (d a : SReg) (i : Fin 512) (s : State) : Outcome State Fault Refusal := .next (s.alu1 c d a fun x => x >>> (i.val % 64))
def execSari (c : Ctl) (d a : SReg) (i : Fin 512) (s : State) : Outcome State Fault Refusal := .next (s.alu1 c d a fun x => x.sshiftRight (i.val % 64))

/-- LI (R81). -/
def execLi (c : Ctl) (d : SReg) (i : Fin 16384) (s : State) : Outcome State Fault Refusal :=
  .next (s.scalar c 1 0 fun x _ => wrS x.e.base d (ofInt64 (immS 14 i.val c.imms)))

/-- The immediate of CMPI: sign-extended for conditions 0 to 5, zero-extended for 6 to 9 (R83). -/
def cmpImm (cc : Cond) (i : Nat) (xs : List (Fin (2 ^ 27))) : Word :=
  if cc.code ≤ 5 then ofInt64 (immS 9 i xs) else BitVec.ofNat 64 (immZ 9 i xs)

def execCmpi (c : Ctl) (p : PReg) (a : SReg) (i : Fin 512) (cc : Cond) (s : State) : Outcome State Fault Refusal :=
  .next (s.scalar c 1 0 fun x s => wrP x.e.base p (cc.holds (x.s s a) (cmpImm cc i.val c.imms)))

/-- A LOOP restarts the pass count, also of the words behind it that already stand in a queue (R95). -/
def Thread.passStart (th : Thread) (seq : Nat) : Thread :=
  QName.all.foldl (fun (th : Thread) q =>
    th.setQueue q { th.queue q with es := (th.queue q).es.map fun r => if seq < r.seq then { r with pass := 0 } else r })
    { th with spl := { th.spl with pass := 0 } }

/-- LOOP sets LC and EC, and with ROT the stage predicates (R90). LOOP restarts the pass count (R95); the loop buffer is
refilled by the first pass after it (R94). -/
def execLoop (c : Ctl) (d a : SReg) (ki rot : Bool) (s : State) : Outcome State Fault Refusal :=
  .next (s.issue c {} 0 fun x s =>
    let base := x.e.base
    let ec := (x.s s d).toNat % 256 + 256 * rot.toNat + 512 * ki.toNat
    let ps := if rot then wrP base 4 true ++ wrP base 5 false ++ wrP base 6 false ++ wrP base 7 false else []
    let s := x.write s 1 ([.ctl crLC (BitVec.ofNat 64 ((x.s s a).toNat % 2 ^ 32)), .ctl crEC (BitVec.ofNat 64 ec)] ++ ps)
    .done (s.modThread x.t fun th => th.passStart x.e.seq))

/-- PREQ as a read returns it: a request raised in cycle x is seen from x + 1 (R308). -/
def Thread.preqWord (th : Thread) (cyc : Nat) : Word :=
  match th.preq with
  | some r => if r.seen ≤ cyc then BitVec.ofNat 64 (1 + 2 * r.src) else 0
  | none => 0

/-- A control register as GETC reads it (R97). -/
def State.getc (s : State) (th : Thread) (base : Nat) : CReg → Word
  | .cyc => s.cycWord
  | .tb => s.tbWord
  | .tbskew => s.tbskew
  | .preq => th.preqWord s.cyc
  | .pred => BitVec.ofNat 64 (th.pred base)
  | r => th.creg r.number

def execGetc (c : Ctl) (d : SReg) (r : CReg) (s : State) : Outcome State Fault Refusal :=
  .next (s.scalar c 1 0 fun x s => wrS x.e.base d (s.getc (x.th s) x.e.base r))

/-- The registers whose SETC is privileged, and the read-only ones (R97). -/
def CReg.privileged : CReg → Bool
  | .tbskew => true | .dl => true | .ywin => true | _ => false

def CReg.readOnly : CReg → Bool
  | .cyc => true | .tb => true | .bud => true | .preq => true | .segtag => true | .slate => true | .jobid => true
  | .cprog => true | .rrb => true | _ => false

/-- The writes of a SETC; PRED goes to the predicates under the base the word carries (R97). -/
def setcWrites (base : Nat) (r : CReg) (v : Word) : List RegW :=
  if CReg.readOnly r then []
  else if r = .pred then (List.range 7).map fun i => .p (physP base (i + 1)) (v.getLsbD (i + 1))
  else [.ctl r.number v]

/-- SETC; a write of 0, 6 or 7 to RM stores 1 and sets MODWARN (R34, R66). -/
def execSetc (c : Ctl) (d : SReg) (r : CReg) (s : State) : Outcome State Fault Refusal :=
  .next (s.issue c {} 0 fun x s =>
    if CReg.privileged r && (x.th s).priv == .user then .fault fPriv s
    else
      let v := x.s s d
      let bad := r == .rm && (wbits v 0 3 == 0 || decide (5 < wbits v 0 3))
      .done ((x.write s 1 (setcWrites x.e.base r v)).modThread x.t fun th => th.orFlags (flagIf bad flMODWARN)))

/-- SLATE reads an item of the job's slate (R99). -/
def execSlate (c : Ctl) (d : SReg) (item : Fin 8) (s : State) : Outcome State Fault Refusal :=
  .next (s.scalar c 1 0 fun x s => wrS x.e.base d (Cells.get (x.th s).slate item.val))

end Sys2Proof.Machine
end

