-- ==== Sys2Proof/Machine/Control.lean ====
section
/-! DEFINITION. Control transfer (R27, R85 to R91, R100, R297, R306): BR, BRC, CALL, RET, JTAB, LOOPEND, BRK, RETIRE, YIELD,
SYSCALL, TRAP. The splitter stands behind the word; as the word issues it goes on at the address set here. -/

namespace Sys2Proof.Machine

open Host

/-- The target of a displacement counted in words from the word's own address (R85). -/
def branchTarget (pc : Word) (disp : Nat) (xs : List (Fin (2 ^ 27))) : Word := pc + ofInt64 (4 * immS 15 disp xs)

/-- The address after a word and its EXT words. -/
def Entry.next (e : Entry) : Word := e.pc + BitVec.ofNat 64 (4 * (1 + e.exts.length))

/-- The splitter will go on at a target (R27, R85). -/
def Ctx.branch (x : Ctx) (s : State) (pc : Word) : State :=
  s.modThread x.t fun th => { th with spl := { th.spl with pc := pc } }

def execBr (c : Ctl) (disp : Fin 32768) (s : State) : Outcome State Fault Refusal :=
  .next (s.issue c {} 0 fun x s => .done (x.branch s (branchTarget x.e.pc disp.val c.imms)))

def execBrc (c : Ctl) (p : PReg) (n : Bool) (disp : Fin 32768) (s : State) : Outcome State Fault Refusal :=
  .next (s.issue c {} 0 fun x s =>
    .done (if x.p s p != n then x.branch s (branchTarget x.e.pc disp.val c.imms) else s))

def execCall (c : Ctl) (disp : Fin 32768) (s : State) : Outcome State Fault Refusal :=
  .next (s.issue c {} 0 fun x s =>
    .done (x.branch (x.write s 1 [.s 23 x.e.next]) (branchTarget x.e.pc disp.val c.imms)))

def execRet (c : Ctl) (a : SReg) (s : State) : Outcome State Fault Refusal :=
  .next (s.issue c {} 0 fun x s =>
    if (x.s s a).toNat % 4 ≠ 0 then .fault (fAlign (x.s s a)) s else .done (x.branch s (x.s s a)))

/-- JTAB branches into the table of words that follows it, or past it (R88). -/
def execJtab (c : Ctl) (a b : SReg) (s : State) : Outcome State Fault Refusal :=
  .next (s.issue c {} 0 fun x s =>
    let i := x.s s a
    let n := x.s s b
    .done (x.branch s (x.e.pc + 4 * (1 + if i.ult n then i else n))))

/-- What a LOOPEND decides (R91): taken or not, the new LC and EC.COUNT, and P4 where it rotates. -/
structure LoopStep where
  taken : Bool
  lc : Nat
  count : Nat
  p4 : Bool
  deriving DecidableEq, Repr

def loopStep (lc count : Nat) : LoopStep :=
  if lc ≠ 0 then ⟨true, lc - 1, count, true⟩
  else if 1 < count then ⟨true, lc, count - 1, false⟩
  else ⟨false, lc, 0, false⟩

/-- Whether a taken LOOPEND is served from the loop buffer (R94): its target stands before it, at most 128 words back, the LOOPEND's
own EXT words counted (log 95). -/
def Entry.inLoopBuffer (e : Entry) (target : Word) : Bool :=
  decide (target.toNat < e.pc.toNat) && decide (e.next.toNat - target.toNat ≤ 4 * 128)

/-- LOOPEND (R91 to R95): the rotation base and the pass count change for the words placed from now on; the registers are
written with latency 1; from the loop buffer the next pass is placed in this thread cycle. A fall-through sets the pass count to 0 (log 96). -/
def execLoopend (c : Ctl) (disp : Fin 32768) (s : State) : Outcome State Fault Refusal :=
  .next (s.issue c {} 0 fun x s =>
    let th := x.th s
    let ec := (th.creg crEC).toNat
    let st := loopStep (th.creg crLC).toNat (ec % 256)
    let rot := st.taken && tbit ec 8
    let base := if rot then (th.spl.base + 1) % 8 else th.spl.base
    let ws : List RegW :=
      [.ctl crLC (BitVec.ofNat 64 st.lc), .ctl crEC (BitVec.ofNat 64 (ec - ec % 256 + st.count))]
        ++ if rot then [wrRrb base, .p (physP base 4) st.p4] else []
    let s := x.write s 1 ws
    let target := branchTarget x.e.pc disp.val c.imms
    .done (s.modThread x.t fun th =>
      let sp := { th.spl with base := base, pass := if st.taken then th.spl.pass + 1 else 0 }
      { th with spl :=
        if !st.taken then sp
        else if x.e.inLoopBuffer target then { sp with pc := target, stop := .run, resumeAt := s.tcyc }
        else { sp with pc := target } }))

/-- BRK halts the thread where the supervisor has enabled debug halts for its context (R89, R316), and is a watchpoint
fault otherwise. DBGEN stands at 0x1A90 of the station's control block (R317). -/
def execBrk (c : Ctl) (code : Fin 16) (s : State) : Outcome State Fault Refusal :=
  .next (s.issue c {} 0 fun x s =>
    if tbit (s.cb x.t.st 0x1A90).toNat (x.th s).ctx then
      .done (s.haltThread x.t)
    else .fault { cause := 0x09, code := code.val } s)

/-- A holding word that drains the thread (R100, R297): it has issued, nothing is placed after it, and it keeps its entry
for the fault of an operation that completes during the drain. -/
def Ctx.drain (x : Ctx) (s : State) (d : Drain) : State :=
  s.modThread x.t fun th =>
    let th := th.popHead x.q s.tcyc
    { th with drain := some d, drainE := some (x.q, x.e), spl := { th.spl with stop := .done } }

/-- RETIRE (R100): it answers a standing request; the rest happens as JOB_COMPLETE. -/
def execRetire (c : Ctl) (s : State) : Outcome State Fault Refusal :=
  .next (s.issue c {} 0 fun x s =>
    .gone (((x.drain s .retire).answer x.t false).modThread x.t fun th => th.orFlags (c.issueFlags {})))

/-- YIELD (R297): without a request it only stops the splitter; with one it answers it by a save. -/
def execYield (c : Ctl) (s : State) : Outcome State Fault Refusal :=
  .next (s.issue c {} 0 fun x s =>
    if (x.th s).preqWord s.cyc = 0 then .done s
    else .gone ((x.drain s .yield_).modThread x.t fun th =>
      { (th.orFlags (c.issueFlags {})) with saveRec := (th.preq.map Preq.recd).getD 0, preq := none }))

/-- SYSCALL and TRAP (R306): the word issues; once every word before it has issued the thread freezes. -/
def Ctx.enter (x : Ctx) (s : State) (cause code : Nat) : State :=
  s.modThread x.t fun th =>
    { th with spl := { th.spl with stop := .bad { cause := cause, code := code, pc := x.e.pc } } }

def execSyscall (c : Ctl) (code : Fin 512) (s : State) : Outcome State Fault Refusal :=
  .next (s.issue c {} 0 fun x s => .done (x.enter s 0x0B code.val))

def execTrap (c : Ctl) (code : Fin 512) (s : State) : Outcome State Fault Refusal :=
  .next (s.issue c {} 0 fun x s => .done (x.enter s 0x0C code.val))

end Sys2Proof.Machine
end

