-- ==== Sys2Proof/Machine/CoreStore.lean ====
section
/-! DEFINITION. The scalar reads and writes of core store and parameter windows: LDS, STS, LDP (R101 to R104). -/

namespace Sys2Proof.Machine

open Host

/-- The alignment and bound of a core-store access (R103): the alignment fault comes first. -/
def Thread.csCheck (th : Thread) (a : Word) (n : Nat) : Option FRec :=
  if a.toNat % n ≠ 0 then some (fAlign a)
  else if th.csBytes < a.toNat + n then some (fOver 2)
  else none

/-- The number in core-store bytes of the thread's allotment. -/
def State.csRead (s : State) (t : Tid) (a n : Nat) : Nat :=
  Memory.readN (s.core t.st t.co).cs ((s.thread t).csBase + a) n

/-- The Vat words that write a core-store byte and that a queue has not waited for (R149). -/
def Thread.unseen (th : Thread) (q : QName) (k : Nat) : List Soft :=
  th.soft.filter fun f => !f.seen.contains q && decide (f.a ≤ k) && decide (k < f.a + f.old.length)

/-- A byte of core store as a queue of a thread reads it: of a 4-byte unit that it has not waited for, the old or the new value (R149,
log 14). -/
def State.csAt (s : State) (t : Tid) (q : QName) (k : Nat) : Byte :=
  ((s.thread t).unseen q k).foldr (fun f b =>
    if Config.freeBit (2 ^ 65 + (s.cyc * 2 ^ 20 + f.seq % 2 ^ 20) * 2 ^ 22 + k / 4) then f.old.getD (k - f.a) 0 else b) (Cells.get (s.core t.st t.co).cs k)

/-- A byte of the allotment as a queue reads it. -/
def State.csByte (s : State) (t : Tid) (q : QName) (a : Nat) : Byte := s.csAt t q ((s.thread t).csBase + a)

/-- The number in core-store bytes of the allotment, as a queue reads it. -/
def State.csReadQ (s : State) (t : Tid) (q : QName) (a n : Nat) : Nat := leNat ((List.range n).map fun i => s.csByte t q (a + i))

/-- The writes of core-store bytes of the allotment. -/
def Thread.csPut (th : Thread) (a : Nat) (bs : List Byte) : List RegW :=
  (List.range bs.length).zip bs |>.map fun (i, b) => .cs (th.csBase + a + i) b

/-- A release at DOMAIN or SYSTEM scope, an XFENCE, RETIRE or save meets the loss of an undeliverable write with its fault
(R249). -/
def State.takeLost (s : State) (t : Tid) : Option State :=
  if (s.core t.st t.co).lost then some (s.modCore t.st t.co fun c => { c with lost := false }) else none

def fLost : FRec := fXlate 0x5 0 0

/-- An ordered form (R102, R199): a release holds the word until its scope is released; an acquire holds the queue after it.
The continuation runs once the release, if any, is complete. -/
def Ctx.ordered (x : Ctx) (s : State) (side : Side) (widest : Scope) (k : Scope → Order → State → Act) : Act :=
  let (scope, o, warn) := x.c.ordering side widest
  let fin (s : State) : Act := k scope o (x.flag s (flagIf warn flMODWARN))
  if o.releases then
    let (ok, e, s) := x.release s x.e scope
    if ok then
      match (if 5 ≤ scope.code then s.takeLost x.t else none) with
      | some s => .fault fLost s
      | none => fin s
    else .hold (x.keep s e)
  else fin s

/-- The acquire that follows an ordered read that has its value at once (R102). -/
def Ctx.acquireAfter (x : Ctx) (s : State) (scope : Scope) (o : Order) : State :=
  if o.acquires then s.startAcquire x.t scope x.q else s

/-- A word reads bytes of the allotment through its slot's port (R101, R142). -/
def Ctx.touch (x : Ctx) (s : State) (as : List Nat) : State := s.claimBanks x.t (as.map fun a => (x.th s).csBase + a)

/-- LDS (R102, R103). -/
def execLds (c : Ctl) (sz : Size) (m a : SReg) (off : Fin 512) (s : State) : Outcome State Fault Refusal :=
  .next (s.issue c { order := true } 0 fun x s =>
    let A := effAddr (x.s s a) 9 off.val c.imms sz.bytes
    match (x.th s).csCheck A sz.bytes with
    | some f => .fault f s
    | none => x.ordered s .load .station fun sc o s =>
      .done (x.acquireAfter (x.write (x.touch s [A.toNat]) 3 (wrS x.e.base m (BitVec.ofNat 64 (s.csReadQ x.t x.q A.toNat sz.bytes)))) sc o))

/-- STS: the write lands at the start of the next thread cycle (R102, R103). -/
def execSts (c : Ctl) (sz : Size) (m a : SReg) (off : Fin 512) (s : State) : Outcome State Fault Refusal :=
  .next (s.issue c { order := true } 0 fun x s =>
    let A := effAddr (x.s s a) 9 off.val c.imms sz.bytes
    match (x.th s).csCheck A sz.bytes with
    | some f => .fault f s
    | none => x.ordered s .store .station fun _ _ s =>
      .done (x.write s 1 ((x.th s).csPut A.toNat (leBytes sz.bytes (x.s s m).toNat))))

/-- The signed 6-bit offset of LDP, scaled (R104). -/
def ldpAddr (base : Word) (off n : Nat) : Word := base + ofInt64 (sext off 6 * n)

/-- LDP reads a parameter window (R104): unbound, misaligned, beyond the bound, in this order. -/
def execLdp (c : Ctl) (sz : Size) (m a : SReg) (w : Fin 8) (off : Fin 64) (s : State) : Outcome State Fault Refusal :=
  .next (s.issue c { order := true } 0 fun x s =>
    let B := ldpAddr (x.s s a) off.val sz.bytes
    let th := x.th s
    if !Tab.has th.pw w.val then .fault { cause := 0x05, sub := w.val } s
    else if B.toNat % sz.bytes ≠ 0 then .fault (fAlign B) s
    else x.ordered s .load .thread fun _ _ s =>
      let win := Tab.get th.pw w.val
      if B.toNat + sz.bytes ≤ win.length then
        .done (x.write s 2 (wrS x.e.base m (BitVec.ofNat 64 (leNat ((win.drop B.toNat).take sz.bytes)))))
      else .done (x.write s 2 (wrS x.e.base m 0 ++ [.flags flPWBOUND])))

end Sys2Proof.Machine
end

