-- ==== Sys2Proof/Machine/MemWords.lean ====
section
/-! DEFINITION. The memory words of the S queue: LD, ST, AMO, CAS, ENQ, DEQ, FENCE, XFENCE, CMO, PREF (R196 to R208). A word
issues here; its operation then goes on by the hardware steps of EvMemory.lean. -/

namespace Sys2Proof.Machine

open Host

/-- A segment byte as an address of an operation: above every physical address (R176 gives those 52 bits). -/
def segPa (f b : Nat) : Nat := 2 ^ 52 + f * 2 ^ 22 + b
def isSegPa (pa : Nat) : Bool := decide (2 ^ 52 ≤ pa)

/-- What a translation gives an operation: where it goes, whether past the L1, or that a walk must be made, or a fault. -/
inductive Target where
  | at_ (pa : Nat) (nc : Bool)
  | walk
  | fault (f : FRec)
  deriving DecidableEq, Repr

/-- The target of an S-queue access (R174, R175, R182, R388). Host-window and control-block addresses and NC leaves go past
the L1 (R189). An atomic on the host window faults with cause permission at the level of its leaf (R206), and so does one on a
control block, which is reached by LD and ST alone (R410, log 79). -/
def State.target (s : State) (t : Tid) (ctx : Nat) (priv : Priv) (va : Word) (acc : Access) (n : Nat) (x : Xl) : Target :=
  match x with
  | .miss => .walk
  | .fault sub level => .fault (fXlate sub level va)
  | .seg f b => .at_ (segPa f b) true
  | .pa a nc =>
    match s.paKind a with
    | .host =>
      if acc = .atomic then .fault (fXlate 0x2 (s.leafLevel t ctx va.toNat) va)
      else if s.hostOk t.st a n then .at_ a true else .fault (fXlate 0x5 (s.leafLevel t ctx va.toNat) va)
    | .control | .rctl => if priv == .user ∨ acc = .atomic then .fault (fXlate 0x2 (s.leafLevel t ctx va.toNat) va) else .at_ a true
    | .bad => .fault (fXlate 0x5 (s.leafLevel t ctx va.toNat) va)
    | _ => .at_ a nc

/-- The target of an access with the fills of its translation; what faults is not cached (R184). -/
def State.targetFill (s : State) (t : Tid) (ctx : Nat) (priv : Priv) (va : Word) (acc : Access) (n : Nat) : Target × State :=
  let (x, s) := s.xlateFill t ctx priv va.toNat acc
  match s.target t ctx priv va acc n x with
  | .fault f => (.fault f, s.dropLeaf t ctx va.toNat)
  | g => (g, s)

def Ctx.target (x : Ctx) (s : State) (va : Word) (acc : Access) (n : Nat) : Target :=
  let th := x.th s
  s.target x.t th.ctx th.priv va acc n (s.xlate x.t th.ctx th.priv va.toNat acc)

/-- The word faults on its translation, which is cached no longer (R184). -/
def Ctx.badTarget (x : Ctx) (s : State) (va : Word) (f : FRec) : Act := .fault f (s.dropLeaf x.t (x.th s).ctx va.toNat)

/-- The issuing L1 writes back the dirty bytes of the target line of an atomic and drops the line (R206). -/
def State.dropTarget (s : State) (t : Tid) (pa : Nat) : State :=
  let la := pa / 128 * 128
  (s.writeBack t.st t.co la false).modCore t.st t.co fun c => (c.dropLine la).dropFifo la

/-- Whether an operation executes at the home slice alone (R206, R212). -/
def OpKind.atHome : OpKind → Bool
  | .load => false | .cmo => false | .pref => false | _ => true

/-- The segment that stands in the frame that an operation reads, if it is one of the segment window. -/
def State.segSeen (s : State) (st : Nat) (o : MemOp) : Option Resident :=
  match o.pa with
  | some pa =>
    let f := (pa - 2 ^ 52) / 2 ^ 22
    if isSegPa pa && s.frameHas st f ((pa - 2 ^ 52) % 2 ^ 22) o.size then some (s.frame st f) else none
  | none => none

/-- Puts an operation of the issuing word in flight. -/
def Ctx.start (x : Ctx) (s : State) (tg : Target) (o : MemOp) : Nat × State :=
  let (id, s) := s.fresh
  let o := { o with id := id, e := x.e, q := x.q, since := s.cyc }
  let o := match tg with
    | .at_ pa nc => { o with pa := some pa, nc := o.nc || nc, stage := .send }
    | _ => o
  let o := { o with seg := s.segSeen x.t.st o }
  let s := match tg with
    | .at_ pa _ => (if o.kind.atHome then s.dropTarget x.t pa else s).useLeaf x.t (x.th s).ctx o.va.toNat
    | _ => s
  (id, s.modThread x.t fun th => { th with ops := th.ops ++ [o] })

/-- The destination of a register that a completion writes; S0 takes nothing (R31). -/
def dstOf (base : Nat) (r : SReg) : Nat := if r.val = 0 then 64 else physS base r.val

/-- LD (R196, R198, R199): the register is written at completion, under R30. An acquire holds the S queue. -/
def execLd (c : Ctl) (sz : Size) (m a : SReg) (off : Fin 512) (s : State) : Outcome State Fault Refusal :=
  .next (s.issue c { order := true } 0 fun x s =>
    let A := effAddr (x.s s a) 9 off.val c.imms sz.bytes
    if A.toNat % sz.bytes ≠ 0 then .fault (fAlign A) s
    else
      match x.target s A .read sz.bytes with
      | .fault f => x.badTarget s A f
      | tg => x.ordered s .load (if inSegRegion A.toNat then .thread else .system) fun scope o s =>
        let acq := if o.acquires then some scope else none
        let (id, s) := x.start s tg
          { id := 0, kind := .load, e := x.e, va := A, size := sz.bytes, nc := o.acquires, dst := dstOf x.e.base m, acq := acq }
        .done (if o.acquires then x.block s id else s))

/-- ST (R196, R197, R199): it issues into the store buffer; a release goes to its home slice and waits for its scope. -/
def execSt (c : Ctl) (sz : Size) (m a : SReg) (off : Fin 512) (s : State) : Outcome State Fault Refusal :=
  .next (s.issue c { order := true } 0 fun x s =>
    let A := effAddr (x.s s a) 9 off.val c.imms sz.bytes
    if A.toNat % sz.bytes ≠ 0 then .fault (fAlign A) s
    else
      match x.target s A .write sz.bytes with
      | .fault f => x.badTarget s A f
      | tg =>
        if Config.storeBufferEntries ≤ (x.th s).sb.length then .hold s
        else x.ordered s .store .system fun _ o s =>
          let (id, s) := s.fresh
          let b : SbEntry := { id := id, e := x.e, va := A, size := sz.bytes, v := x.s s m, past := o.releases }
          let (b, s) := match tg with
            | .at_ pa nc => ({ b with pa := some pa, nc := nc, past := b.past || nc }, s.useLeaf x.t (x.th s).ctx A.toNat)
            | _ => (b, s)
          .done (s.modThread x.t fun th => { th with sb := th.sb ++ [b] }))

/-- Whether two byte ranges overlap. -/
def rangesMeet (a n b m : Nat) : Bool := decide (a < b + m) && decide (b < a + n)

/-- Whether a buffered store may overlap a range: by physical address where both are known, else by the place within a page,
which translation does not change (R197, R229). -/
def SbEntry.meets (b : SbEntry) (pa : Option Nat) (va : Word) (n : Nat) : Bool :=
  match b.pa, pa with
  | some p, some q => rangesMeet p b.size q n
  | _, _ => rangesMeet (b.va.toNat % 4096) b.size (va.toNat % 4096) n

/-- The physical address of a target, once it is known. -/
def Target.pa? : Target → Option Nat
  | .at_ pa _ => some pa
  | _ => none

/-- The atomics and queue operations (R205 to R208): alignment, rights, the wait for overlapping stores, ordering. -/
def Ctx.atomic (x : Ctx) (s : State) (va : Word) (n : Nat) (o : MemOp) : Act :=
  if va.toNat % n ≠ 0 then .fault (fAlign va) s
  else
    match x.target s va .atomic n with
    | .fault f => x.badTarget s va f
    | tg =>
      if (x.th s).sb.any fun b => b.meets tg.pa? va n then .hold s
      else x.ordered s .both .system fun scope ord s =>
        let (id, s) := x.start s tg { o with va := va, size := n, acq := if ord.acquires then some scope else none }
        .done (if ord.acquires then x.block s id else s)

def execAmo (c : Ctl) (dbl : Bool) (d a b : SReg) (op : AmoOp) (s : State) : Outcome State Fault Refusal :=
  .next (s.issue c { order := true } 0 fun x s =>
    x.atomic s (x.s s a) (if dbl then 8 else 4) { id := 0, kind := .amo op, e := x.e, v1 := x.s s b, dst := dstOf x.e.base d })

def execCas (c : Ctl) (dbl : Bool) (d a b : SReg) (s : State) : Outcome State Fault Refusal :=
  .next (s.issue c { order := true } 0 fun x s =>
    x.atomic s (x.s s a) (if dbl then 8 else 4) { id := 0, kind := .cas, e := x.e, v1 := x.s s b, v2 := x.s s d, dst := dstOf x.e.base d })

def execEnq (c : Ctl) (d a b : SReg) (s : State) : Outcome State Fault Refusal :=
  .next (s.issue c { order := true } 0 fun x s =>
    x.atomic s (x.s s a) 64 { id := 0, kind := .enq, e := x.e, v1 := x.s s b, dst := dstOf x.e.base d })

def execDeq (c : Ctl) (d a b : SReg) (s : State) : Outcome State Fault Refusal :=
  .next (s.issue c { order := true } 0 fun x s =>
    x.atomic s (x.s s a) 64 { id := 0, kind := .deq, e := x.e, dst := dstOf x.e.base d, dst2 := dstOf x.e.base b })

/-- The acquire part of a fence (R200): its earlier loads and atomics have completed, then the invalidation runs. The entry's
stage is 2 while it runs. -/
def Ctx.fenceAcquire (x : Ctx) (s : State) (e : Entry) (scope : Scope) : Act :=
  if e.stage = 2 then
    if (x.th s).acq.any (·.q == x.q) then .hold (x.keep s e) else .done s
  else if (x.th s).ops.any (fun o => decide (o.e.seq < e.seq)) || (x.th s).acq.any (·.q == x.q) then .hold (x.keep s { e with stage := 1 })
  else if scope.code ≤ 2 then .done s
  else .hold ((x.keep s { e with stage := 2 }).startAcquire x.t scope x.q)

/-- FENCE (R200, R201), a waiting word. The entry's stage is 0 while it releases. -/
def execFence (c : Ctl) (kind : FenceKind) (scope : Scope) (s : State) : Outcome State Fault Refusal :=
  .next (s.issue c {} 0 fun x s =>
    if kind = .acq ∨ 0 < x.e.stage then x.fenceAcquire s x.e scope
    else
      let (ok, e, s) := x.release s x.e scope
      if !ok then .hold (x.keep s e)
      else
        match (if 5 ≤ scope.code then s.takeLost x.t else none) with
        | some s => .fault fLost s
        | none => if kind = .rel then .done s else x.fenceAcquire s { e with stage := 1 } scope)

/-- Whether an entry is a VST (R43, R44). -/
def Entry.isVst (e : Entry) : Bool :=
  fldN e.word 29 3 == 1 && fldN e.word 21 4 == 15 && e.exts.any fun w => fldN w 27 2 == 2 && fldN w 19 8 == 0x3A

/-- Whether every STS, and every VST placed before a word, has landed (R202). -/
def Thread.csLanded (th : Thread) (seq : Nat) : Bool :=
  !(th.pend.any fun p => decide (p.seq < seq) && !(csWrites p.ws).isEmpty) && !(th.qv.es.any fun e => decide (e.seq < seq) && e.isVst)

/-- XFENCE (R202), a waiting word: a drain as for a STATION release, the earlier atomics and barrier updates acknowledged,
and the core-store writes landed. -/
def execXfence (c : Ctl) (s : State) : Outcome State Fault Refusal :=
  .next (s.issue c {} 0 fun x s =>
    let (ok, e, s) := x.release s x.e .station
    if !ok || !(x.th s).csLanded x.e.seq then .hold (x.keep s e)
    else
      match s.takeLost x.t with
      | some s => .fault fLost s
      | none => .done s)

/-- The cached lines of a core that hold a byte of a physical run. -/
def Core.linesIn (c : Core) (pa n : Nat) : List Nat :=
  (c.lines.filter fun l => decide (l.la < pa + n) && decide (pa < l.la + 128)).map Line.la

/-- One line of one L1 under CMO (R203). -/
def State.cmoLine (s : State) (st co la : Nat) (op : CmoOp) : State :=
  match op with
  | .clean => s.writeBack st co la true
  | .flush => (s.writeBack st co la false).modCore st co fun c => (c.dropLine la).dropFifo la
  | .inval => s.modCore st co fun c => (c.dropLine la).dropFifo la

/-- The cores that a CMO acts on: the issuing one, or every one of the module that holds a line (R203). -/
def State.cmoCores (s : State) (t : Tid) (home : Bool) : List (Nat × Nat) :=
  if home then s.cores.map fun x => (x.1 / 8, x.1 % 8) else [(t.st, t.co)]

/-- CMO over the runs of its range, with the write-backs it started. -/
def State.cmoRun (s : State) (t : Tid) (op : CmoOp) (home : Bool) (pa n : Nat) : State :=
  (s.cmoCores t home).foldl (fun s (st, co) =>
    ((s.core st co).linesIn pa n).foldl (fun s la => s.cmoLine st co la op) s) s

/-- The numbers of the write-backs now in flight. -/
def State.wbIds (s : State) : List Nat := s.cores.flatMap fun x => x.2.wbs.map Wb.id

/-- CMO acts page by page up to the first translation fault (R203). -/
def State.cmoPages (s : State) (t : Tid) (ctx : Nat) (priv : Priv) (op : CmoOp) (home : Bool) (hi : Nat) :
    List Nat → Option FRec × State
  | [] => (none, s)
  | a :: rest =>
    let n := min hi ((a / 4096 + 1) * 4096) - a
    if s.walkWaits t ctx a then (some fWait, s) else
    match s.xlateTo t ctx priv a n (if op = .clean then .read else .write) with
    | (.fault sub level, s) => (some (fXlate sub level (BitVec.ofNat 64 a)), s)
    | (.pa p _, s) => (s.cmoRun t op home p n).cmoPages t ctx priv op home hi rest
    | (_, s) => s.cmoPages t ctx priv op home hi rest

/-- CMO, a holding word (R203, R296): done once its write-backs are acknowledged, and not before the cycles of R203. -/
def execCmo (c : Ctl) (a b : SReg) (op : CmoOp) (home : Bool) (s : State) : Outcome State Fault Refusal :=
  .next (s.issue c {} 0 fun x s =>
    let th := x.th s
    let va := (x.s s a).toNat
    let n := (x.s s b).toNat
    if n = 0 then .done s
    else
      let before := s.wbIds
      let (f, s) := s.cmoPages x.t th.ctx th.priv op home (va + n) (pagesOf va n)
      match f with
      | some f => if f.waits then .hold s else .fault f s
      | none =>
        let lines := (va + n - 1) / 128 - va / 128 + 1
        let (id, s) := x.start s .walk { id := 0, kind := .cmo, e := x.e, wait := s.wbIds.filter fun i => !before.contains i }
        let due := s.cyc + lines + if home then 256 else 0
        let s := s.modThread x.t fun th => { th with ops := th.ops.map fun o => if o.id = id then { o with stage := .away, since := due } else o }
        .done (x.block s id))

/-- PREF (R204): it never faults; a translation that fails drops it. The line is fetched by HOME_SLICE_READ. -/
def execPref (c : Ctl) (wr : Bool) (a : SReg) (off : Fin 512) (s : State) : Outcome State Fault Refusal :=
  .next (s.issue c { order := true } 0 fun x s =>
    let A := effAddr (x.s s a) 9 off.val c.imms 128
    let (_, _, warn) := c.ordering .load (if inSegRegion A.toNat then .thread else .system)
    let s := x.flag s (flagIf warn flMODWARN)
    match x.target s A .read 128 with
    | .fault _ => .done s
    | .at_ pa nc =>
      if isSegPa pa || nc || s.paKind pa == .gone then .done s
      else .done (x.start s (.at_ pa nc) { id := 0, kind := .pref, e := x.e, va := A, v1 := if wr then 1 else 0 }).2
    | .walk => .done (x.start s .walk { id := 0, kind := .pref, e := x.e, va := A, v1 := if wr then 1 else 0 }).2)

end Sys2Proof.Machine
end

