-- ==== Sys2Proof/Machine/Tokens.lean ====
section
/-! DEFINITION. Tokens and rendezvous: POST and WAIT of every engine, RDV (R193 to R195). -/

namespace Sys2Proof.Machine

open Host

/-- Whether an operation's completion is part of what a POST waits for (R194). -/
def OpKind.covered : OpKind → Bool
  | .pref => false | .cmo => false | _ => true

/-- The completion condition of a POST (R194), for the words placed before it in its own queue. -/
def State.postReady (s : State) (t : Tid) (q : QName) (seq : Nat) : Bool :=
  let th := s.thread t
  let landed := !(th.pend.any fun p => p.q == q && decide (p.seq < seq))
  match q with
  | .s => landed && !(th.ops.any fun o => o.q == .s && decide (o.e.seq < seq) && o.kind.covered)
  | .v => landed
  | .m => true
  | .c => true
  | .x => landed && !((s.core t.st t.co).xs.any fun x => x.t == t && decide (x.seq < seq))

/-- What a posted token lets its consumer observe (R30, R194): POST.M and POST.C report no completion. -/
def postCover (q : QName) (seq : Nat) : Cover :=
  match q with
  | .m => none
  | .c => none
  | q => some (q, seq)

/-- Tokens of a counter, those posted in this thread cycle included. -/
def Thread.tokensHeld (th : Thread) (w : Nat) : Nat :=
  (th.tokens w).length + (th.pend.flatMap PWrite.ws).countP fun | .tok v _ => v == w | _ => false

/-- A POST with its completion condition met adds one to a counter below 15; a WAIT in the next thread cycle can consume it. -/
def Ctx.post (x : Ctx) (s : State) (w : Nat) (cover : Cover) : Act :=
  if 15 ≤ (x.th s).tokensHeld w then .hold s else .done (x.write s 1 [.tok w cover])

def State.postWord (s : State) (c : Ctl) (w : Token) : State :=
  s.issue c {} 0 fun x s =>
    if (x.th s).tokenCount ≤ w.val then .fault (fOver 4) s
    else if s.postReady x.t x.q x.e.seq then x.post s w.val (postCover x.q x.e.seq)
    else .hold s

def State.waitWord (s : State) (c : Ctl) (w : Token) : State :=
  s.issue c {} 0 fun x s =>
    if (x.th s).tokenCount ≤ w.val then .fault (fOver 4) s
    else if ((x.th s).tokens w.val).isEmpty then .hold s
    else .done (s.modThread x.t fun th => th.consume x.q w.val)

def execPostS (c : Ctl) (t : Token) (s : State) : Outcome State Fault Refusal := .next (s.postWord c t)
def execPostV (c : Ctl) (t : Token) (s : State) : Outcome State Fault Refusal := .next (s.postWord c t)
def execPostM (c : Ctl) (t : Token) (s : State) : Outcome State Fault Refusal := .next (s.postWord c t)
def execPostC (c : Ctl) (t : Token) (s : State) : Outcome State Fault Refusal := .next (s.postWord c t)
def execPostX (c : Ctl) (t : Token) (s : State) : Outcome State Fault Refusal := .next (s.postWord c t)
def execWaitS (c : Ctl) (t : Token) (s : State) : Outcome State Fault Refusal := .next (s.waitWord c t)
def execWaitV (c : Ctl) (t : Token) (s : State) : Outcome State Fault Refusal := .next (s.waitWord c t)
def execWaitM (c : Ctl) (t : Token) (s : State) : Outcome State Fault Refusal := .next (s.waitWord c t)
def execWaitC (c : Ctl) (t : Token) (s : State) : Outcome State Fault Refusal := .next (s.waitWord c t)
def execWaitX (c : Ctl) (t : Token) (s : State) : Outcome State Fault Refusal := .next (s.waitWord c t)

/-- RDV issues once every word placed before it, in every queue, has issued (R195); the step keeps later words back. -/
def execRdv (c : Ctl) (s : State) : Outcome State Fault Refusal :=
  .next (s.issue c {} 0 fun x s =>
    if (x.th s).entries.any fun e => decide (e.seq < x.e.seq) then .hold s else .done s)

end Sys2Proof.Machine
end

