-- ==== Sys2Proof/Machine/Barrier.lean ====
section
/-! DEFINITION. Barrier objects and their words: BINIT, BARV, BEXP, BWAIT (R209 to R212). -/

namespace Sys2Proof.Machine

open Host

/-- A barrier object (R209). -/
structure BObj where
  phase : Nat
  expect : Nat
  arrived : Nat
  ovf : Bool
  xbytes : Nat
  rbytes : Nat
  deriving DecidableEq, Repr

def BObj.of (d0 d1 : Nat) : BObj := ⟨bits d0 48 16, bits d0 32 16, bits d0 16 16, tbit d0 0, bits d1 32 32, bits d1 0 32⟩
def BObj.dw0 (b : BObj) : Nat := b.phase * 2 ^ 48 + b.expect * 2 ^ 32 + b.arrived * 2 ^ 16 + b.ovf.toNat
def BObj.dw1 (b : BObj) : Nat := b.xbytes * 2 ^ 32 + b.rbytes

/-- The flip rule (R210); the answer says whether the phase advanced. -/
def BObj.flip (b : BObj) : BObj × Bool :=
  if b.expect ≤ b.arrived ∧ b.xbytes ≤ b.rbytes then
    ({ b with ovf := b.ovf || decide (b.expect < b.arrived) || decide (b.xbytes < b.rbytes),
              phase := (b.phase + 1) % 2 ^ 16, arrived := 0, rbytes := 0 }, true)
  else (b, false)

/-- ARRIVED and RBYTES saturate, with OVER (R209). -/
def BObj.arrive (b : BObj) (n bytes : Nat) : BObj :=
  { b with arrived := min (b.arrived + n) 0xFFFF, rbytes := min (b.rbytes + bytes) 0xFFFFFFFF,
           ovf := b.ovf || decide (0xFFFF < b.arrived + n) || decide (0xFFFFFFFF < b.rbytes + bytes) }

/-- EXPECT moves by a signed amount, clamped; XBYTES saturates with OVER (R212). -/
def BObj.expectMore (b : BObj) (v : Word) : BObj :=
  let e : Int := b.expect + sext (wbits v 0 16) 16
  let x := b.xbytes + wbits v 32 32
  { b with expect := (min (max e 0) 0xFFFF).toNat, xbytes := min x 0xFFFFFFFF, ovf := b.ovf || decide (0xFFFFFFFF < x) }

/-- The object that BINIT writes (R212). -/
def BObj.init (v : Word) : BObj := ⟨0, wbits v 0 16, 0, false, wbits v 32 32, 0⟩

/-- FRZKIL's step on a member slot (R362). -/
def BObj.remove (b : BObj) (arrivedNow : Bool) : BObj :=
  { b with expect := b.expect - 1, arrived := if arrivedNow then b.arrived - 1 else b.arrived }

/-- The object at a physical address, at its home slice; one that an ordinary store has touched since its BINIT is a free value
(R209, log 17). -/
def State.bobj (s : State) (pa : Nat) : BObj :=
  if s.bars.contains (pa, true) then
    let k := 2 ^ 64 * (s.freeCtr + 1) + pa
    BObj.of (Config.freeWord (2 * k)).toNat (Config.freeWord (2 * k + 1)).toNat
  else BObj.of (s.homeN pa 8) (s.homeN (pa + 8) 8)

/-- Writes an object; one that an ordinary store has touched since its BINIT takes free values (R209, log 17). -/
def State.putBobj (s : State) (pa : Nat) (b : BObj) : State :=
  if s.bars.contains (pa, true) then
    let (u, s) := s.freeWord
    let (v, s) := s.freeWord
    (s.homePutN pa 8 u.toNat).homePutN (pa + 8) 8 v.toNat
  else (s.homePutN pa 8 b.dw0).homePutN (pa + 8) 8 b.dw1

/-- A flip of an object that a saved job waits on appends a mailbox entry, or sets MBOVF where the entry at MBHEAD is not zero
(R315). -/
def State.mailAppend (s : State) (st phase : Nat) (w : SavedWait) : State :=
  let o := 0x1810 + 0x20 * w.ctx
  let size := s.cbBits st (o + 8) 0 16
  let head := s.cbBits st (o + 8) 32 16
  let a := s.pa st (s.cbBits st o 0 35 + 16 * head)
  if size = 0 then s
  else if s.homeN a 16 ≠ 0 then s.setCb st (o + 8) (wset (s.cb st (o + 8)) 63 1 1)
  else
    let s := s.homePut a (leBytes 8 w.word.toNat ++ leBytes 2 phase ++ leBytes 2 w.recd ++ leBytes 4 0)
    s.setCb st (o + 8) (wset (s.cb st (o + 8)) 32 16 (if size ≤ head + 1 then 0 else head + 1))

/-- One update of an object at its home slice, with the flip rule and the notice of saved waiters (R210, R315). -/
def State.updateBar (s : State) (pa : Nat) (f : BObj → BObj) : State :=
  let (o, flipped) := (f (s.bobj pa)).flip
  let s := s.putBobj pa o
  if !flipped then s
  else
    s.stations.foldl (fun s x => (x.2.waits.filter fun w => w.pa == pa).foldl (fun s w => s.mailAppend x.1 o.phase w) s) s

/-- Bytes credited to an object (R216). -/
def State.credit (s : State) (pa : Option Nat) (n : Nat) : State :=
  match pa with
  | some pa => s.updateBar pa fun o => o.arrive 0 n
  | none => s

/-- The slot number and address that a barrier word's register names (R211). -/
def slotOf (v : Word) : Nat := v.toNat % 16
def slotAddr (v : Word) : Nat := v.toNat / 16 * 16

/-- A word that names a slot with another address rebinds it (R211). -/
def BSlot.bind (b : BSlot) (a : Nat) : BSlot :=
  if b.bound ∧ b.addr = a then b else { bound := true, addr := a, phase := b.phase }

def Thread.bslot (th : Thread) (n : Nat) : BSlot := Tab.get th.slots n
def Thread.setBslot (th : Thread) (n : Nat) (b : BSlot) : Thread := { th with slots := Tab.set th.slots n b }

/-- The default scope of a barrier word: MODULE for an object of this module, else DOMAIN (R211). -/
def State.barScope (s : State) (pa : Nat) : Scope := if paModule pa = s.modnum then .modul else .domain

/-- BINIT, BARV and BEXP hold the S queue until the home slice acknowledges (R212); they come behind the thread's earlier stores to
the object (R229, R241). -/
def Ctx.barrier (x : Ctx) (s : State) (a : Word) (kind : OpKind) (v : Word) (releases : Bool) : Act :=
  if (x.th s).barriers ≤ slotOf a then .fault (fOver 3) s
  else
    let va := BitVec.ofNat 64 (slotAddr a)
    match x.target s va .atomic 16 with
    | .fault f => x.badTarget s va f
    | tg =>
      if (x.th s).sb.any fun b => b.meets tg.pa? va 16 then .hold s else
      let dflt := match tg with
        | .at_ pa _ => s.barScope pa
        | _ => Scope.unset
      let (scope, warn) := x.c.fixedScope dflt .system
      let s := x.flag s (flagIf warn flMODWARN)
      let rel : Option Rel := if releases then some { scope := scope } else none
      let (id, s) := x.start s tg { id := 0, kind := kind, e := x.e, va := va, size := 16, v1 := v, slot := slotOf a, rel := rel }
      .done (x.block s id)

def execBinit (c : Ctl) (a b : SReg) (s : State) : Outcome State Fault Refusal :=
  .next (s.issue c { order := true } 0 fun x s =>
    if wbits (x.s s b) 0 16 = 0 ∧ wbits (x.s s b) 32 32 = 0 then .fault fFormat s
    else x.barrier s (x.s s a) .binit (x.s s b) false)

def execBarv (c : Ctl) (a b : SReg) (s : State) : Outcome State Fault Refusal :=
  .next (s.issue c { order := true } 0 fun x s => x.barrier s (x.s s a) .barv (x.s s b) true)

def execBexp (c : Ctl) (a b : SReg) (s : State) : Outcome State Fault Refusal :=
  .next (s.issue c { order := true } 0 fun x s => x.barrier s (x.s s a) .bexp (x.s s b) true)

/-- BWAIT, a waiting word (R212, R238): it compares the object's PHASE at the home slice with the slot's recorded phase; a
flip that the mailbox replayed releases it at once (R315). -/
def execBwait (c : Ctl) (a : SReg) (s : State) : Outcome State Fault Refusal :=
  .next (s.issue c { order := true } 0 fun x s =>
    let e := x.latched [x.s s a]
    let v := e.reg 0
    let n := slotOf v
    let th := x.th s
    if th.barriers ≤ n then .fault (fOver 3) s
    else
      let va := BitVec.ofNat 64 (slotAddr v)
      if s.walkWaits x.t th.ctx va.toNat then .hold (x.keep s e) else
      let (g, s) := s.targetFill x.t th.ctx th.priv va .atomic 16
      match g with
      | .fault f => .fault f s
      | .walk => .hold (x.keep s e)
      | .at_ pa _ =>
        let (scope, warn) := c.fixedScope (s.barScope pa) .system
        let sl := th.bslot n
        let phase := (s.bobj pa).phase
        let go (ph : Nat) : Act :=
          let s := s.modThread x.t fun th => th.setBslot n { sl with phase := ph, flipped := none }
          let s := s.modThread x.t fun th => th.observe fun u => u.ws.any (·.isProg pa)
          .done ((x.flag s (flagIf warn flMODWARN)).startAcquire x.t scope x.q)
        if !sl.bound || sl.addr != va.toNat then
          .hold ((x.keep s e).modThread x.t fun th => th.setBslot n { bound := true, addr := va.toNat, phase := phase })
        else
          match sl.flipped with
          | some ph => go ph
          | none => if phase ≠ sl.phase then go phase else .hold (x.keep s e))

end Sys2Proof.Machine
end

