-- ==== Sys2Proof/Machine/Progress.lean ====
section
/-! DEFINITION. Progress, timing and speculation words: PCHK, BUDG, SEGWAIT, TIMEWAIT, ACCEPT, COMMIT, TTARM, TELM (R294 to
R307). -/

namespace Sys2Proof.Machine

open Host

/-- PCHK (R298). -/
def pchkValue (th : Thread) (cyc : Nat) : Word :=
  match th.preq with
  | some r => if r.seen ≤ cyc then BitVec.ofNat 64 (max 1 (r.f - cyc)) else 0
  | none => 0

def execPchk (c : Ctl) (d : SReg) (s : State) : Outcome State Fault Refusal :=
  .next (s.scalar c 1 0 fun x s => wrS x.e.base d (pchkValue (x.th s) s.cyc))

/-- BUDG (R299): at user privilege it can only shorten the budget. -/
def execBudg (c : Ctl) (a : SReg) (s : State) : Outcome State Fault Refusal :=
  .next (s.scalar c 1 0 fun x s => [.bud ((x.th s).priv != .user) (wbits (x.s s a) 0 32)])

/-- The core cycle at which byte b of the job's segment becomes readable (R264, R300). -/
def Thread.readableAt (th : Thread) (b : Nat) : Nat := (Cells.get th.slate 7).toNat + 8 + b / 6400

/-- SEGWAIT, a waiting word (R300): no segment, or a byte beyond it, is a format fault. -/
def execSegwait (c : Ctl) (a : SReg) (s : State) : Outcome State Fault Refusal :=
  .next (s.issue c {} 0 fun x s =>
    let e := x.latched [x.s s a]
    let b := (e.reg 0).toNat
    let th := x.th s
    if th.segExp = 0 ∨ 256 + th.segLen ≤ b then .fault fFormat s
    else if th.readableAt b ≤ s.cyc then .done s
    else .hold (x.keep s e))

/-- TIMEWAIT, a waiting word (R301); the LATE check is made when the word first stands at the head. -/
def execTimewait (c : Ctl) (a : SReg) (late : Bool) (s : State) : Outcome State Fault Refusal :=
  .next (s.issue c {} 0 fun x s =>
    let e := x.latched [x.s s a]
    let T := (e.reg 0).toNat
    if late ∧ e.stage = 0 ∧ T + s.tbskew.toNat < s.tb then .fault { cause := 0x08, sub := 1, va := s.tbWord } s
    else if T ≤ s.tb then .done s
    else .hold (x.keep s { e with stage := 1 }))

/-- The job that a thread runs. -/
def State.jobOf (s : State) (t : Tid) : Option Job := (s.station t.st).jobs.find? fun j => j.id == (s.thread t).job

/-- The sequence block of a row of the thread's job: none for a row without a sequence (R99). -/
def State.rowBlock (s : State) (t : Tid) (r : Nat) : Option Row :=
  match s.jobOf t with
  | none => none
  | some j =>
    match j.rows[r]? with
    | some w => if w.va = 0 then none else some w
    | none => none

/-- Whether a row is live for its thread: its bit of L0. -/
def Thread.rowLive (th : Thread) (r : Nat) : Bool := (Cells.get th.l 0).getLsbD r

/-- The rows that a slate has (SLATE item ROWS). -/
def Thread.rows (th : Thread) : Nat := (Cells.get th.slate 0).toNat

/-- ACCEPT and COMMIT release, then change FIDX and PEND at the home slice in one step, and hold the queue (R303). -/
def Ctx.rowUpdate (x : Ctx) (s : State) (pa : Nat) (commit : Bool) (fidx : Nat) : Act :=
  let (scope, warn) := x.c.fixedScope .station .system
  let s := x.flag s (flagIf warn flMODWARN)
  let (id, s) := x.start s (.at_ (pa + 8) true)
    { id := 0, kind := .row commit, e := x.e, v1 := BitVec.ofNat 64 fidx, rel := some { scope := scope } }
  .done (x.block s id)

def execAccept (c : Ctl) (a b : SReg) (s : State) : Outcome State Fault Refusal :=
  .next (s.issue c { order := true } 0 fun x s =>
    let r := wbits (x.s s a) 0 6
    let th := x.th s
    if th.rows ≤ r then .fault fFormat s
    else
      match s.rowBlock x.t r with
      | none => .done s
      | some w => if th.rowLive r then x.rowUpdate s w.pa false (wbits (x.s s b) 0 6) else .done s)

/-- Whether every C word of a thread placed before a word has completed (R225, R303). -/
def State.copiesDone (s : State) (t : Tid) (seq : Nat) : Bool :=
  !((s.thread t).qc.es.any fun e => decide (e.seq < seq)) &&
    !((s.station t.st).copies.any fun k => k.t == t && decide (k.e.seq < seq))

/-- COMMIT (R303): a waiting word while its C words complete, a holding word after that. -/
def execCommit (c : Ctl) (a : SReg) (s : State) : Outcome State Fault Refusal :=
  .next (s.issue c { order := true } 0 fun x s =>
    let e := x.latched [x.s s a]
    let v := e.reg 0
    let r := wbits v 0 6
    let th := x.th s
    if th.rows ≤ r then .fault fFormat s
    else
      match s.rowBlock x.t r with
      | none => .done s
      | some w =>
        if !th.rowLive r then .done s
        else if s.copiesDone x.t x.e.seq then
          x.rowUpdate s w.pa true (if v.getLsbD 22 then wbits v 16 6 else 0xFFFF)
        else .hold (x.keep s e))

/-- The control-block offset of timetable entry e of core k (R291). -/
def ttOff (k e : Nat) : Nat := 0x800 + 0x100 * k + 0x20 * e

/-- A whole timetable entry is written in one step: FIRED clears on a 1, SLIP on a 0 (R291, R305). -/
def State.ttWrite (s : State) (st k e : Nat) (d0 d1 d2 d3 : Word) : State :=
  let o := ttOff k e
  let old := s.cb st (o + 0x18)
  let slip := old.getLsbD 10 && d3.getLsbD 10
  let fired := old.getLsbD 9 && !d3.getLsbD 9
  let d3 := BitVec.ofNat 64 (slip.toNat * 1024 + fired.toNat * 512 + wbits d3 4 5 * 16 + wbits d3 0 2)
  (((s.setCb st o d0).setCb st (o + 8) d1).setCb st (o + 0x10) d2).setCb st (o + 0x18) d3

/-- TTARM (R305), a holding word of at least four thread cycles; one arming raises at most one request (R291), which bit 63
of the entry's last doubleword would not show: it is kept at offset 0x10000 above the block. -/
def execTtarm (c : Ctl) (a b : SReg) (s : State) : Outcome State Fault Refusal :=
  .next (s.issue c {} 3 fun x s =>
    let v := x.s s a
    let o := x.s s b
    let th := x.th s
    if th.priv == .user then .fault fPriv s
    else if o.toNat % 32 ≠ 0 then .fault (fAlign o) s
    else if th.csBytes < o.toNat + 32 then .fault (fOver 2) s
    else
      let d (i : Nat) : Word := BitVec.ofNat 64 (s.csReadQ x.t x.q (o.toNat + 8 * i) 8)
      let k := wbits v 3 3
      let e := wbits v 0 3
      .done ((s.ttWrite x.t.st k e (d 0) (d 1) (d 2) (d 3)).setCb x.t.st (0x10000 + ttOff k e) 0))

/-- The telemetry record (R307). -/
def telmRecord (cyc : Nat) (jobid v : Word) (code ctx : Nat) (priv : Priv) : List Byte :=
  leBytes 8 cyc ++ leBytes 8 jobid.toNat ++ leBytes 8 v.toNat ++ leBytes 2 code ++ [BitVec.ofNat 8 ctx, BitVec.ofNat 8 (privNum priv)]
    ++ List.replicate 4 0

/-- The records that a context has appended in the present window of 4,096 cycles. -/
def Station.telmCount (x : Station) (ctx cyc : Nat) : Nat := if x.telmWin = cyc / 4096 then Tab.get x.telm ctx else 0

/-- TELM (R307): user records beyond TLRATE, and any record while TLSIZE is 0, are dropped and counted. -/
def execTelm (c : Ctl) (a b : SReg) (s : State) : Outcome State Fault Refusal :=
  .next (s.issue c {} 0 fun x s =>
    let th := x.th s
    let st := x.t.st
    let size := s.cbBits st 0x1408 0 21
    let n := (s.station st).telmCount th.ctx s.cyc
    if size = 0 ∨ (th.priv = .user ∧ s.cbBits st 0x1418 0 16 ≤ n) then .done (s.count st 0x1420)
    else
      let head := s.cbBits st 0x1410 0 21
      let jobid := if th.kind = .handler then 0 else th.creg crJOBID
      let s := s.homePut (s.pa st (s.cbBits st 0x1400 0 35 + 32 * head)) (telmRecord s.cyc jobid (x.s s b) (wbits (x.s s a) 0 16) th.ctx th.priv)
      let s := s.setCb st 0x1410 (BitVec.ofNat 64 (if size ≤ head + 1 then 0 else head + 1))
      .done (s.modStation st fun y =>
        let old := if y.telmWin = s.cyc / 4096 then y.telm else []
        { y with telmWin := s.cyc / 4096, telm := Tab.set old th.ctx (n + 1) }))

end Sys2Proof.Machine
end

