-- ==== Sys2Proof/Machine/Jobs.lean ====
section
/-! DEFINITION. Jobs, sequences and contexts as the dispatcher and the fault machinery change them: skips, ends, discards and
detachments (R267 to R270), capabilities and handler requests (R327, R328, R353), sequence traps (R341 to R345), the context
halt line (R366, R367), kills (R362). -/

namespace Sys2Proof.Machine

/-! Context descriptors (R322), as they act. -/

def State.desc (s : State) (st c k lo len : Nat) : Nat := s.cbBits st (0x2000 + 0x40 * c + 8 * k) lo len
def State.hctx (s : State) (st c : Nat) : Nat := s.desc st c 1 58 4
def State.ctxPriv (s : State) (st c : Nat) : Priv := if s.desc st c 1 62 1 = 1 then .supervisor else .user
def State.resident (s : State) (st c : Nat) : Bool := s.desc st c 1 63 1 == 1
def State.halted (s : State) (st c : Nat) : Bool := tbit (s.cb st 0x2C18).toNat c

/-! Jobs. -/

def State.job? (s : State) (st id : Nat) : Option Job := (s.station st).jobs.find? fun j => j.id == id
def State.modJob (s : State) (st id : Nat) (f : Job → Job) : State :=
  s.modStation st fun x => { x with jobs := x.jobs.map fun j => if j.id = id then f j else j }

/-- The thread of a launched job. -/
def Job.tid (j : Job) (st : Nat) : Option Tid :=
  match j.st with
  | .launched tx => some ⟨st, j.core, tx⟩
  | _ => none

/-- A save record becomes free: nothing stays bound to it (R309, R314, R315). -/
def State.freeRecord (s : State) (st c n : Nat) : State :=
  (s.modStation st fun x => { x with waits := x.waits.filter fun b => !(b.ctx == c && b.recd == n) }).setRecState st c n 0

/-- A save that runs is abandoned and its record freed (R309). -/
def State.dropSave (s : State) (t : Tid) : State :=
  match (s.thread t).drain with
  | some .yield_ | some .forced | some .debug => s.freeRecord t.st (s.thread t).ctx (s.thread t).saveRec
  | _ => s

/-- A job's window and allotment are returned (R145, R323). -/
def State.freeAreas (s : State) (st co id : Nat) : State :=
  s.modCore st co fun c => { c with allot := c.allot.filter (·.1 != id), wins := c.wins.filter (·.1 != id) }

/-- A job is over: it leaves the posted queue and the list; its slate record becomes free (R414). -/
def State.jobOver (s : State) (st id : Nat) : State :=
  match s.job? st id with
  | none => s
  | some j =>
    let s := s.modCore st j.core fun c => { c with posted := c.posted.filter (· != id) }
    s.modStation st fun x => { x with jobs := x.jobs.filter (·.id != id) }

/-- A capability entry whose target is gone, used up or revoked becomes invalid and its generation advances (R328). -/
def CapE.invalidate (e : CapE) : CapE := { e with valid := false, gen := (e.gen + 1) % 2 ^ 20 }
def State.capInvalid (s : State) (st i : Nat) : State :=
  s.modStation st fun x => if (Tab.get x.caps i).valid then { x with caps := Tab.set x.caps i (Tab.get x.caps i).invalidate } else x

/-- Every capability on a thread becomes invalid. -/
def State.capsOfThread (s : State) (t : Tid) : State :=
  s.modStation t.st fun x => { x with caps := x.caps.map fun (i, e) =>
    if e.valid ∧ e.kind = 1 ∧ e.target = t then (i, e.invalidate) else (i, e) }

/-- A launched job is ended (R270): its unissued words are discarded and its thread drains. -/
def State.endJob (s : State) (st id : Nat) : State :=
  match (s.job? st id).bind (·.tid st) with
  | none => s
  | some t =>
    let s := ((s.answer t false).dropSave t).capsOfThread t
    let s := s.modThread t fun th =>
      let th := QName.all.foldl (fun (th : Thread) q => th.setQueue q { th.queue q with es := [] }) th
      { th with drain := some .ended, drainE := none, saveAt := none, spl := { th.spl with stop := .done } }
    s.count st 0x238

/-- A restore that the end of its job cuts off frees the record (R309, R314). -/
def State.dropRestore (s : State) (t : Tid) : State :=
  match (s.thread t).restoring with
  | some (n, _) => (s.freeRecord t.st (s.thread t).ctx n).modThread t fun th => { th with restoring := none }
  | none => s

/-- A job not launched, or saved, is discarded (R268): its save area is freed. -/
def State.discardJob (s : State) (st id : Nat) : State :=
  match s.job? st id with
  | none => s
  | some j =>
    let s := match j.st with
      | .saved r => s.freeRecord st j.ctx r
      | _ => s
    (s.freeAreas st j.core id).jobOver st id

/-- What happens to a job at its declaring cycle, or when its last row is gone (R268 to R270). -/
def State.closeJob (s : State) (st id : Nat) : State :=
  match s.job? st id with
  | none => s
  | some j =>
    match j.tid st with
    | none => s.discardJob st id
    | some t =>
      let th := s.thread t
      if th.status = .frozen ∨ th.status = .freezing ∨ th.status = .stopped ∨ th.halted then s.modThread t fun th => { th with detached := true }
      else
        match th.drain with
        | some .ended => s
        | some .killed => s
        | _ => s.endJob st id

/-- Fields of a segment tag (R263, R269). -/
def tagModel (tag : Word) : Nat := wbits tag 52 12
def tagLayer (tag : Word) : Nat := wbits tag 40 12
def tagPart (tag : Word) : Nat := wbits tag 24 16
def tagRot (tag : Word) : Nat := wbits tag 0 24
def mkTag (model layer part rot : Nat) : Word :=
  BitVec.ofNat 64 (model % 2 ^ 12 * 2 ^ 52 + layer % 2 ^ 12 * 2 ^ 40 + part % 2 ^ 16 * 2 ^ 24 + rot % 2 ^ 24)
def sameLayer (a b : Word) : Bool := tagModel a == tagModel b && tagLayer a == tagLayer b && tagRot a == tagRot b

/-- The rejoin point after a tag: its layer, one rotation later, part 0 (R269, R345). -/
def rejoinTag (tag : Word) : Word := mkTag (tagModel tag) (tagLayer tag) 0 (tagRot tag + 1)

/-- The thread context that the dispatcher's own translations use: the first of core 0 (its fills go to the station). -/
def dispTid (st : Nat) : Tid := ⟨st, 0, 0⟩

/-- The physical address of a sequence block, where it translates with R and W at supervisor privilege to station memory of
this station (R277). -/
def State.seqBlock (s : State) (st c : Nat) (va : Word) : Option Nat :=
  match s.xlateFull (dispTid st) c .supervisor va.toNat .atomic with
  | .pa a _ => if s.paKind a == .own && paStation a == st then some a else none
  | _ => none

/-- A row of a job is removed (R269): from the slate before launch, from L0 after it, from what a saved job will hold; the slate
record stays as it was written (log 78); a job left without rows is closed. -/
def State.removeRow (s : State) (st id r : Nat) (byTrap : Bool := false) : State :=
  let s := s.modJob st id fun j => { j with rows := j.rows.mapIdx fun i w => if i = r then { w with skipped := true, byTrap := byTrap } else w }
  match s.job? st id with
  | none => s
  | some j =>
    let s := match j.tid st with
      | some t => s.modThread t fun th =>
          let gone := th.removed ||| BitVec.ofNat 64 (2 ^ r)
          { th with removed := gone, l := Cells.set th.l 0 (Cells.get th.l 0 &&& ~~~ gone) }
      | none => s.modJob st id fun j => { j with live := j.live &&& ~~~ BitVec.ofNat 64 (2 ^ r), gone := j.gone ||| BitVec.ofNat 64 (2 ^ r) }
    if j.rows.all fun w => w.skipped || w.complete then s.closeJob st id else s

/-- A sequence is no longer engaged, and its row is removed from each of its jobs of one layer (R269); for a trap, from each but
the job that trapped it (R343). -/
def State.removeSeq (s : State) (st c : Nat) (va tag : Word) (trapped : Option Nat := none) : State :=
  let s := s.modStation st fun x => { x with engaged := x.engaged.filter fun e => !(e.ctx == c && e.va == va) }
  let hits := (s.station st).jobs.filter fun j => j.ctx == c && sameLayer j.tag tag && j.expiry != 0 && some j.id != trapped
  hits.foldl (fun s j =>
    (List.range j.rows.length).foldl (fun s r =>
      match j.rows[r]? with
      | some w => if w.va = va ∧ !w.skipped ∧ !w.complete then s.removeRow st j.id r trapped.isSome else s
      | none => s) s) s

/-- skip(s, g) of R269. Each of its four writes of the block that fails is dropped and counted (R277). -/
def State.skip (s : State) (st c : Nat) (va tag : Word) : State :=
  let s := match s.seqBlock st c va with
    | some pa =>
      let s := s.homePutN (pa + 0x28) 4 (s.homeN (pa + 0x28) 4 + 1)
      let s := s.homePutN (pa + 0x30) 8 tag.toNat
      let s := s.homePutN (pa + 0x38) 8 (rejoinTag tag).toNat
      s.homePutN (pa + 0x0D) 1 (s.homeN (pa + 0x0D) 1 ||| 8)
    | none => (((s.count st 0x320).count st 0x320).count st 0x320).count st 0x320
  (s.count st 0x230).removeSeq st c va tag

/-- Every incomplete row of a job is skipped (R268). -/
def State.skipRows (s : State) (st : Nat) (j : Job) : State :=
  j.rows.foldl (fun s w => if w.va ≠ 0 ∧ !w.complete ∧ !w.skipped then s.skip st j.ctx w.va j.tag else s) s

/-! Fault records and handler requests. -/

/-- The 64-byte fault record without its handle (R352). -/
def faultRecord (f : FRec) (jobid segtag : Word) (cyc ctx st co last : Nat) : List Byte :=
  leBytes 8 0 ++ leBytes 8 f.pc.toNat ++ leBytes 8 f.va.toNat ++
    [BitVec.ofNat 8 f.cause, BitVec.ofNat 8 f.sub, BitVec.ofNat 8 f.level, 0] ++ leBytes 2 f.code ++ [0, 0] ++
    leBytes 8 jobid.toNat ++ leBytes 8 segtag.toNat ++ leBytes 8 cyc ++
    [BitVec.ofNat 8 ctx, BitVec.ofNat 8 st, BitVec.ofNat 8 co, BitVec.ofNat 8 last] ++ leBytes 4 0

/-- The lowest free entry of the capability table (R327). -/
def Station.freeCap (x : Station) : Option Nat := (List.range 4096).find? fun i => !(Tab.get x.caps i).valid

/-- A handle with all four rights (R326). -/
def CapE.handle (e : CapE) (st i : Nat) : Word :=
  BitVec.ofNat 64 (e.kind * 2 ^ 62 + e.rights * 2 ^ 58 + st * 2 ^ 52 + e.gen * 2 ^ 32 + i)

/-- Makes a capability from a template, keeping the entry's generation. -/
def State.makeCap (s : State) (st : Nat) (e : CapE) : Option (Nat × State) :=
  match (s.station st).freeCap with
  | none => none
  | some i =>
    let old := Tab.get (s.station st).caps i
    some (i, s.modStation st fun x => { x with caps := Tab.set x.caps i { e with valid := true, gen := old.gen } })

/-! The context halt line. -/

/-- One rind record (R367). -/
def rindRecord (cyc engine tx co st ctx cause depth : Nat) (head jobid : Word) (out word : Nat) : List Byte :=
  leBytes 8 cyc ++ [BitVec.ofNat 8 engine, BitVec.ofNat 8 tx, BitVec.ofNat 8 co, BitVec.ofNat 8 st, BitVec.ofNat 8 ctx,
    BitVec.ofNat 8 cause] ++ leBytes 2 depth ++ leBytes 8 head.toNat ++ leBytes 8 jobid.toNat ++ leBytes 4 out ++ leBytes 4 word
    ++ List.replicate 24 0

/-- Appends rind records at RINDHEAD (R367, R368). -/
def State.rinds (s : State) (st c : Nat) (rs : List (List Byte)) : State :=
  rs.foldl (fun s r =>
    let size := s.cbBits st (0x2C28 + 0x10 * c) 0 16
    let head := s.cbBits st (0x2C28 + 0x10 * c) 16 16
    if size = 0 then s
    else
      let s := s.homePut (s.pa st (s.cbBits st (0x2C20 + 0x10 * c) 0 35 + 64 * head)) r
      s.setCb st (0x2C28 + 0x10 * c) (wset (s.cb st (0x2C28 + 0x10 * c)) 16 16 (if size ≤ head + 1 then 0 else head + 1))) s

/-- The threads that a context's halt stops: its own, and the handlers that serve it (R367). -/
def State.ctxThreads (s : State) (st c : Nat) : List Tid :=
  (s.tidsOf st).filter fun t =>
    let th := s.thread t
    th.status != .free && ((th.kind != .handler && th.ctx == c) || (th.kind == .handler && th.forCtx == c))

/-- Loads, and atomics with the queue operations among them, as a rind record counts them (R367, log 71). -/
def OpKind.counted : OpKind → Bool
  | .load | .frzld | .amo _ | .cas | .enq | .deq => true
  | _ => false

/-- The records of engines 0 to 7 for a context, in ascending engine, core and thread order. -/
def State.rindList (s : State) (st c cause : Nat) : List (List Byte) :=
  let ts := s.ctxThreads st c
  let cop (t : Tid) := ((s.station st).copies.filter fun k => k.t == t).length
  let vat (t : Tid) := ((s.core st t.co).vat.cmds.filter fun k => k.t == t).length
  let out (t : Tid) := ((s.thread t).ops.filter fun o => o.kind.counted).length + cop t
  let jid (t : Tid) := if (s.thread t).kind = .handler then 0 else (s.thread t).creg crJOBID
  let queueRecs := QName.all.flatMap fun q => ts.map fun t =>
    let es := ((s.thread t).queue q).es
    let h := es.headD {}
    rindRecord s.cyc (QName.num q) t.tx t.co st c cause es.length h.pc (jid t) (out t) h.word
  let vatRecs := (ts.filter fun t => 0 < vat t || (s.core st t.co).vat.holder == some t).map fun t =>
    rindRecord s.cyc 5 t.tx t.co st c cause (vat t) 0 (jid t) (out t) 0
  let copRecs := (ts.filter fun t => 0 < cop t).map fun t => rindRecord s.cyc 6 t.tx t.co st c cause (cop t) 0 (jid t) (out t) 0
  let dispRecs := ((List.range 8).flatMap fun co => (s.station st).jobs.filter fun j => j.core == co && j.ctx == c && (match j.st with
      | .posted => true
      | .saved _ => true
      | _ => false)).map fun j => rindRecord s.cyc 7 0xFF j.core st c cause 0 0 j.jobid 0 0
  queueRecs ++ vatRecs ++ copRecs ++ dispRecs

/-- The context halt line is raised (R366, R367): the context's threads and handlers stop, its copies end short, its Vat
commands are abandoned, the rind records are written, its capabilities become invalid and its CHALT bit is set. -/
def State.haltCtx (s : State) (st c cause : Nat) : State :=
  let ts := s.ctxThreads st c
  let recs := s.rindList st c cause
  if s.halted st c then s.rinds st c recs
  else
    let s := ts.foldl (fun s t => s.modThread t fun th => { th with status := .stopped, drain := none }) s
    let s := s.modStation st fun x =>
      { x with
        copies := x.copies.filter fun k => !ts.contains k.t
        reqs := x.reqs.filter fun r => r.ctx != c
        fq := x.fq.filter fun r => r.ctx != c
        caps := x.caps.map fun (i, e) =>
          if e.valid ∧ ((e.kind = 1 ∧ ts.contains e.target) ∨ (e.kind = 2 ∧ e.blkCtx = c)) then (i, e.invalidate) else (i, e) }
    let s := ts.foldl (fun s t => (s.dropLease t).modCore st t.co fun k =>
      { k with
        resOwner := if k.resOwner = some t then none else k.resOwner
        vat := { k.vat with cmds := k.vat.cmds.map fun m => if m.t = t then { m with abandoned := true } else m } }) s
    let s := s.rinds st c recs
    s.setCb st 0x2C18 (s.cb st 0x2C18 ||| BitVec.ofNat 64 (2 ^ c))

/-- A fault asks for a handler (R353): a capability entry, a free handler context of the core, else the station fault queue,
else the halt line. With HFRAG 0 the halt line is raised. -/
def State.requestHandler (s : State) (st co c : Nat) (e : CapE) (rcd : List Byte) : State :=
  if s.desc st c 4 0 64 = 0 then s.haltCtx st c 2
  else
    let (cap, s) := match s.makeCap st e with
      | some (i, s) => (some i, s)
      | none => (none, s)
    let rq : HReq := { core := co, ctx := c, rcd := rcd, cap := cap, capE := e }
    let busy := (s.station st).reqs.countP fun r => r.core == co
    let free := [4, 5].countP fun tx => (s.thread ⟨st, co, tx⟩).status == .free
    if cap.isSome ∧ busy < free then s.modStation st fun x => { x with reqs := x.reqs ++ [rq] }
    else if 64 ≤ (s.station st).fq.length then
      match cap with
      | some i => (s.capInvalid st i).haltCtx st c 1
      | none => s.haltCtx st c 1
    else
      let s := (if cap.isNone then s.count st 0x2410 else s).modStation st fun x => { x with fq := x.fq ++ [rq] }
      let n := (s.station st).fq.length
      if s.cbBits st 0x2C00 8 8 < n then s.setCb st 0x2C00 (wset (s.cb st 0x2C00) 8 8 n) else s

/-! Sequence traps (R341 to R345). -/

/-- What a trap writes into the snapshot record (R341): slot, crossed probes, NRES, scores by probe. -/
structure Snap where
  slot : Nat
  cross : Nat
  nres : Nat
  scores : List (Nat × Word32)
  deriving DecidableEq, Repr

/-- Whether a valid sequence capability names a block (R341, R343). -/
def Station.seqCap (x : Station) (c : Nat) (va : Word) : Bool :=
  x.caps.any fun (_, e) => e.valid && e.kind == 2 && e.blkCtx == c && e.blkVa == va

/-- The trap steps for one row of a thread's job; none for a row that has been skipped (R344). The answer's flag says that the trap
was no duplicate. -/
def State.trapRow (s : State) (t : Tid) (r : Nat) (snap : Snap) (cause sub code : Nat) : Bool × State :=
  let th := s.thread t
  let c := th.ctx
  match s.rowBlock t r with
  | none => (false, s)
  | some w =>
    if w.skipped ∧ !w.byTrap then (false, s) else
    let pa := w.pa
    let was := tbit (s.homeN (pa + 0x0D) 1) 4
    let s := s.homePutN (pa + 0x0D) 1 (s.homeN (pa + 0x0D) 1 ||| 16)
    let gone := th.trapped ||| BitVec.ofNat 64 (2 ^ r)
    let s := s.modThread t fun th => { th with trapped := gone, l := Cells.set th.l 0 (Cells.get th.l 0 &&& ~~~ gone) }
    let s := s.modJob t.st th.job fun j => { j with rows := j.rows.mapIdx fun i w => if i = r then { w with complete := true } else w }
    let dup := was || (s.station t.st).seqCap c w.va
    let s := if dup then
        let o := 0x2810 + 0x20 * c
        s.setCb t.st o (wset (s.cb t.st o) 0 32 (s.cbBits t.st o 0 32 + 1))
      else
        let s := s.homePutN (pa + 0x200) 8 (th.creg crSEGTAG).toNat
        let s := s.homePutN (pa + 0x208) 8 snap.cross
        let s := s.homePutN (pa + 0x210) 8 s.cyc
        let s := s.homePutN (pa + 0x218) 8 (th.creg crJOBID).toNat
        let s := s.homePutN (pa + 0x228) 4 snap.nres
        let s := s.homePutN (pa + 0x22C) 4 (snap.slot + r * 256)
        let s := snap.scores.foldl (fun s x => s.homePutN (pa + 0x240 + 4 * x.1) 4 x.2.toNat) s
        let f : FRec := { cause := cause, sub := sub, code := code }
        let e : CapE := { kind := 2, rights := 15, target := t, blk := pa, blkVa := w.va, blkCtx := c, row := r, hctx := s.hctx t.st c, info := f }
        s.requestHandler t.st t.co c e (faultRecord f (th.creg crJOBID) (th.creg crSEGTAG) s.cyc c t.st t.co r)
    (!dup, s.removeSeq t.st c w.va (th.creg crSEGTAG) (some th.job))

/-- A resume through a sequence capability (R345). -/
def State.seqResume (s : State) (e : CapE) : State :=
  let tag : Word := BitVec.ofNat 64 (s.homeN (e.blk + 0x200) 8)
  let fl := s.homeN (e.blk + 0x0D) 1
  (s.homePutN (e.blk + 0x0D) 1 ((setBits fl 4 1 0) ||| 8)).homePutN (e.blk + 0x38) 8 (rejoinTag tag).toNat

/-- A kill through a sequence capability (R345). -/
def State.seqKill (s : State) (e : CapE) : State :=
  s.homePutN (e.blk + 0x0D) 1 (setBits (setBits (s.homeN (e.blk + 0x0D) 1) 4 1 0) 0 1 0)

/-! Kills. -/

/-- A barrier object on whose phase a member no longer counts (R362), with the flip rule. -/
def State.unbindSlot (s : State) (t : Tid) (b : BSlot) : State :=
  let th := s.thread t
  if !b.bound || !b.member then s
  else
    match s.xlateFull t th.ctx th.priv b.addr .atomic with
    | .pa pa _ => s.updateBar pa fun o => o.remove (b.arrived && b.arrPhase == o.phase)
    | _ => s

/-- A thread is killed (R362): its images are discarded, its memberships end, and it drains as in R100. -/
def State.killThread (s : State) (t : Tid) : State :=
  let s := (s.thread t).slots.foldl (fun s b => s.unbindSlot t b.2) s
  (s.answer t false).modThread t fun th =>
    let th := QName.all.foldl (fun (th : Thread) q => th.setQueue q {}) th
    { th with status := .frozen, drain := some .killed, drainE := none, slots := [], spl := { th.spl with stop := .done } }

end Sys2Proof.Machine
end

