-- ==== Sys2Proof/Machine/Copy.lean ====
section
/-! DEFINITION. The C words (R213 to R225, R236, R237): acceptance with the copy descriptor read and every byte checked, the copies
that result, CWAIT and CCNCL. The pieces are performed by COPY_PIECE (EvCopy.lean). -/

namespace Sys2Proof.Machine

open Host

/-! Descriptors (R214). -/

structure Desc where
  src : Word
  dst : Word
  dsp : Nat
  ssp : Nat
  esz : Nat
  e : List Nat
  ss : List Int
  ds : List Int
  rsv : Bool
  deriving DecidableEq, Repr

def Desc.of (ws : List Word) : Desc :=
  let w (i : Nat) : Word := ws.getD i 0
  let ext (i : Nat) : Nat := let v := if i < 4 then wbits (w 3) (16 * i) 16 else wbits (w 4) (16 * (i - 4)) 16; if v = 0 then 1 else v
  let stride (k i : Nat) : Int := sext (wbits (w (k + i / 2)) (32 * (i % 2)) 32) 32
  { src := w 0, dst := w 1, dsp := wbits (w 2) 6 2, ssp := wbits (w 2) 4 2, esz := wbits (w 2) 0 3
    e := (List.range 6).map ext, ss := (List.range 6).map (stride 5), ds := (List.range 6).map (stride 8)
    rsv := wbits (w 2) 8 56 != 0 || wbits (w 2) 3 1 != 0 || wbits (w 4) 32 32 != 0 || (ws.drop 11).any (· != 0) }

def Desc.bytes (d : Desc) : Nat := 2 ^ d.esz
def Desc.total (d : Desc) : Nat := d.e.foldl (· * ·) d.bytes

/-- The descriptor that a register names, as core store holds it now (R213). -/
def Ctx.desc (x : Ctx) (s : State) (a : Word) : Except FRec Desc :=
  if a.toNat % 64 ≠ 0 then .error (fAlign a)
  else if (x.th s).csBytes < a.toNat + 128 then .error (fOver 2)
  else
    let d := Desc.of ((List.range 16).map fun i => BitVec.ofNat 64 (s.csReadQ x.t .c (a.toNat + 8 * i) 8))
    if 1 < d.ssp ∨ 1 < d.dsp ∨ 6 < d.esz then .error { cause := 0x03 }
    else if 2 ^ 31 < d.total then .error fFormat
    else .ok d

/-- A run of bytes: source address, destination address, length. -/
structure Run where
  src : Nat
  dst : Nat
  len : Nat
  deriving DecidableEq, Repr

/-- The offsets of a nest, the first dimension fastest. -/
def nestOffs : List (Nat × Int × Int) → List (Int × Int)
  | [] => [(0, 0)]
  | (n, a, b) :: rest => (nestOffs rest).flatMap fun o => (List.range n).map fun i : Nat => (o.1 + i * a, o.2 + i * b)

/-- One more element before the runs that follow it. -/
def addRun (n : Nat) (e : Nat × Nat) : List Run → List Run
  | [] => [⟨e.1, e.2, n⟩]
  | r :: rest => if e.1 + n = r.src ∧ e.2 + n = r.dst then ⟨e.1, e.2, n + r.len⟩ :: rest else ⟨e.1, e.2, n⟩ :: r :: rest

def copyRuns (n : Nat) (es : List (Nat × Nat)) : List Run := es.foldr (addRun n) []

/-- A run cut at the 4 KiB boundaries of its source and its destination (R215). -/
def cutRun : Nat → Run → List Run
  | 0, _ => []
  | fuel + 1, r =>
    if r.len = 0 then []
    else
      let k := min r.len (min (4096 - r.src % 4096) (4096 - r.dst % 4096))
      ⟨r.src, r.dst, k⟩ :: cutRun fuel ⟨r.src + k, r.dst + k, r.len - k⟩

def cutRuns (rs : List Run) : List Run := rs.flatMap fun r => cutRun (r.len / 2048 + 3) r

/-- The element addresses of a descriptor, with the rows of an index array in place of dimension 1 (R214, R218): sel 1 indexes the
source, 2 the destination. -/
def Desc.elems (d : Desc) (sel : Nat) (idx : List Nat) : List (Nat × Nat) :=
  let at_ (w : Word) (o : Int) : Nat := (w + ofInt64 o).toNat
  if sel = 0 then (nestOffs (d.e.zip (d.ss.zip d.ds))).map fun o => (at_ d.src o.1, at_ d.dst o.2)
  else
    let s1 := d.ss.getD 1 0
    let d1 := d.ds.getD 1 0
    (idx.zip (List.range idx.length)).flatMap fun (v, j) => (List.range (d.e.headD 1)).map fun i : Nat =>
      let o := (i : Int) * d.ss.headD 0
      let p := (i : Int) * d.ds.headD 0
      if sel = 1 then (at_ d.src (v * s1 + o), at_ d.dst (j * d1 + p)) else (at_ d.src (j * s1 + o), at_ d.dst (v * d1 + p))

/-- The pieces' addresses, or the alignment fault of an element (R214). -/
def Desc.runs (d : Desc) (sel : Nat) (idx : List Nat) : Except FRec (List Run) :=
  let es := d.elems sel idx
  let al := min d.bytes 8
  match es.find? fun e => e.1 % al != 0 || e.2 % al != 0 with
  | some e => .error (fAlign (BitVec.ofNat 64 (if e.1 % al ≠ 0 then e.1 else e.2)))
  | none => .ok (cutRuns (copyRuns d.bytes es))

/-! One side of a piece, translated and checked (R188, R213, R214, R220). -/

/-- Which physical addresses a side may name: this module and the host window, with the segment window or without it, one other
module, this module alone. -/
inductive Reach where
  | ring
  | near
  | far
  | home
  deriving DecidableEq, Repr

/-- A core-store range of a thread's allotment. -/
def Thread.csLoc (th : Thread) (t : Tid) (a n : Nat) : Except FRec Loc :=
  if th.csBytes < a + n then .error (fOver 2) else .ok (.cs t.co (th.csBase + a))

/-- A side in virtual memory. The segment window is read by CPY, CGTH, CBCST and SEGHOLD alone (R173, R265). -/
def State.virtLoc (s : State) (t : Tid) (reach : Reach) (acc : Access) (a n : Nat) : Except FRec Loc × State :=
  let th := s.thread t
  let va := BitVec.ofNat 64 a
  if s.walkWaits t th.ctx a then (.error fWait, s) else
  match s.xlateTo t th.ctx th.priv a n acc with
  | (.fault sub level, s) => (.error (fXlate sub level va), s)
  | (.seg f b, s) =>
    if reach = .far then (.error fSpan, s)
    else if reach ≠ .ring then (.error (fXlate 0x2 0 va), s)
    else (if s.frameHas t.st f b n then .ok (.seg f b) else .error (fXlate 0x1 0 va), s)
  | (.pa pa _, s) =>
    let k := s.paKind pa
    let ok := match reach with
      | .ring | .near => k == PKind.own || k == PKind.host
      | .far => k == PKind.remote || k == PKind.gone
      | .home => k == PKind.own
    State.dropOn t th.ctx a
      (if ok then .ok (.mem pa) else .error (if reach == Reach.near || reach == Reach.ring then fXlate 0x2 (s.leafLevel t th.ctx a) va else fSpan), s)
  | (.miss, s) => (.error (fXlate 0x1 0 va), s)

def State.side (s : State) (t : Tid) (space : Nat) (reach : Reach) (acc : Access) (a n : Nat) : Except FRec Loc × State :=
  if space = 0 then (if reach = .far then .error fSpan else (s.thread t).csLoc t a n, s) else s.virtLoc t reach acc a n

/-- How the two sides of a copy are reached. -/
structure Sides where
  ssp : Nat
  dsp : Nat
  sr : Reach := .near
  dr : Reach := .near

def State.piece (s : State) (t : Tid) (k : Sides) (r : Run) : Except FRec Piece × State :=
  match s.side t k.ssp k.sr .read r.src r.len with
  | (.error f, s) => (.error f, s)
  | (.ok a, s) =>
    match s.side t k.dsp k.dr .write r.dst r.len with
    | (.error f, s) => (.error f, s)
    | (.ok b, s) => (.ok { src := a, dst := b, len := r.len, sva := if k.ssp = 0 then none else some r.src, dva := if k.dsp = 0 then none else some r.dst }, s)

def State.pieces (s : State) (t : Tid) (k : Sides) : List Run → Except FRec (List Piece) × State
  | [] => (.ok [], s)
  | r :: rest =>
    match s.piece t k r with
    | (.error f, s) => (.error f, s)
    | (.ok p, s) =>
      let (ps, s) := s.pieces t k rest
      (ps.map (p :: ·), s)

/-- The barrier object that a register names; 0 names none (R216). It stands in station memory of the domain (R209). -/
def State.copyBar (s : State) (t : Tid) (v : Word) : Except FRec (Option Nat) × State :=
  if v = 0 then (.ok none, s)
  else
    let th := s.thread t
    let a := slotAddr v
    let va := BitVec.ofNat 64 a
    if s.walkWaits t th.ctx a then (.error fWait, s) else
    match s.xlateTo t th.ctx th.priv a 16 .atomic with
    | (.fault sub level, s) => (.error (fXlate sub level va), s)
    | (.pa pa _, s) =>
      State.dropOn t th.ctx a (if s.paKind pa == .own || s.paKind pa == .remote || s.paKind pa == .gone then .ok (some pa) else .error (fXlate 0x2 (s.leafLevel t th.ctx a) va), s)
    | (_, s) => (.error (fXlate 0x2 0 va), s)

/-! Acceptance (R213). -/

/-- What an accepted copy will do, with the addresses beside its pieces' that were translated for it. -/
structure CopyPlan where
  pieces : List Piece
  rbar : Option Nat := none
  tag : Option Word := none
  kv : Option KvRun := none
  rsv : Bool := false
  vas : List Nat := []

abbrev Planning := Except FRec CopyPlan × State

/-- An engine of the station that can take a word in this cycle. -/
def State.engine (s : State) (st : Nat) : Option Nat :=
  [0, 1].find? fun n =>
    let js := (s.station st).copies.filter fun k => k.engine == n
    decide (js.length < 16) && !js.any fun k => k.acc == s.cyc

/-- A word whose checks end in a fault, or that waits for a page under migration (R252). -/
def Act.bad (f : FRec) (s : State) : Act := if f.waits then .hold s else .fault f s

/-- The C word issues as an engine accepts it: only then is it read and checked (R213). A copy without bytes is accepted as any
other. The first copy word after a resume ends what R224 keeps for a KVCMP. -/
def Ctx.accept (x : Ctx) (s : State) (bar : Word) (plan : State → Planning) : Act :=
  match s.engine x.t.st with
  | none => .hold s
  | some n =>
    match plan s with
    | (.error f, s) => .bad f s
    | (.ok p, s) =>
      match s.copyBar x.t bar with
      | (.error f, s) => .bad f s
      | (.ok b, s) =>
        let (id, s) := s.fresh
        let s := (x.flag s (flagIf p.rsv flRSVWARN)).modThread x.t fun th => { th with kvRestart := false }
        .done (s.modStation x.t.st fun y =>
          { y with copies := y.copies ++
            [{ id := id, t := x.t, e := x.e, engine := n, acc := s.cyc, pieces := p.pieces, bar := b, rbar := p.rbar, tag := p.tag
               kv := p.kv, vas := p.vas ++ if bar = 0 then [] else [slotAddr bar] }] })

/-- Whether an entry is an S-queue word whose performance an XFENCE awaits: a store, an atomic, a queue word, a barrier update, an STS
(R202). -/
def Entry.isUpdate (e : Entry) : Bool :=
  match decodeInstr e.word e.exts with
  | .ok (.st ..) | .ok (.sts ..) | .ok (.amo ..) | .ok (.cas ..) | .ok (.enq ..) | .ok (.deq ..) | .ok (.binit ..) | .ok (.barv ..)
  | .ok (.bexp ..) | .ok (.frzarv ..) => true
  | _ => false

/-- A release on a copy form drains as an XFENCE does, at its scope: every earlier store, atomic and update has issued and is performed
(R202, R217). -/
def Ctx.copyWord (x : Ctx) (s : State) (widest : Scope) (bar : Word) (plan : State → Planning) : Act :=
  let (_, o, _) := x.c.ordering .both widest
  if o.releases && ((x.th s).qs.es.any fun e => decide (e.seq < x.e.seq) && e.isUpdate) then .hold s
  else x.ordered s .both widest fun _ o s =>
    if o.releases && !(x.th s).csLanded x.e.seq then .hold s else x.accept s bar plan

/-- The widest scope of a descriptor's two spaces (R173, R217). -/
def Desc.widest (d : Desc) : Scope :=
  if (d.ssp = 1 ∧ !inSegRegion d.src.toNat) ∨ (d.dsp = 1 ∧ !inSegRegion d.dst.toNat) then .system else .station

def State.planOf (s : State) (t : Tid) (k : Sides) (rsv : Bool) (rs : Except FRec (List Run)) : Planning :=
  match rs with
  | .error f => (.error f, s)
  | .ok rs =>
    let (ps, s) := s.pieces t k rs
    (ps.map fun ps => { pieces := ps, rsv := rsv }, s)

/-- A copy form with a descriptor, read again as the word is accepted (R213). -/
def State.descWord (s : State) (c : Ctl) (a b : SReg) (widest : Option Scope) (plan : Ctx → Desc → State → Planning) : State :=
  s.issue c { order := true } 0 fun x s =>
    let now := match x.desc s (x.s s a) with
      | .ok d => d.widest
      | .error _ => Scope.system
    x.copyWord s (widest.getD now) (x.s s b) fun s =>
      match x.desc s (x.s s a) with
      | .error f => (.error f, s)
      | .ok d => plan x d s

/-- CPY (R217). -/
def Ctx.planCpy (x : Ctx) (d : Desc) (s : State) : Planning := s.planOf x.t { ssp := d.ssp, dsp := d.dsp, sr := .ring } d.rsv (d.runs 0 [])

def execCpy (c : Ctl) (a b : SReg) (s : State) : Outcome State Fault Refusal := .next (s.descWord c a b none fun x d s => x.planCpy d s)

/-- The index array of CGTH and CSCT (R218). -/
def Ctx.index (x : Ctx) (s : State) (d : Desc) (a : Word) : Except FRec (List Nat) :=
  let n := d.e.getD 1 1
  if (d.e.drop 2).any (1 < ·) then .error fFormat
  else if a.toNat % 4 ≠ 0 then .error (fAlign a)
  else if (x.th s).csBytes < a.toNat + 4 * n then .error (fOver 2)
  else .ok ((List.range n).map fun j => s.csReadQ x.t .c (a.toNat + 4 * j) 4)

/-- CGTH, where sel is 1, and CSCT, where sel is 2: the index array's address is the third register (R218). -/
def Ctx.planIndexed (x : Ctx) (sel : Nat) (i : SReg) (d : Desc) (s : State) : Planning :=
  match x.index s d (x.s s i) with
  | .error f => (.error f, s)
  | .ok idx => s.planOf x.t { ssp := d.ssp, dsp := d.dsp, sr := if sel = 1 then .ring else .near } d.rsv (d.runs sel idx)

def execCgth (c : Ctl) (a b x : SReg) (s : State) : Outcome State Fault Refusal :=
  .next (s.descWord c a b none fun y d s => y.planIndexed 1 x d s)
def execCsct (c : Ctl) (a b x : SReg) (s : State) : Outcome State Fault Refusal :=
  .next (s.descWord c a b none fun y d s => y.planIndexed 2 x d s)

/-- The threads of the sibling jobs on the cores of a mask (R219): jobs of the same context that the same segment arrival
launched. -/
def State.siblings (s : State) (t : Tid) (mask : Nat) : List Tid :=
  match s.jobOf t with
  | none => []
  | some j =>
    (List.range 8).filterMap fun co =>
      if !tbit mask co then none
      else if co = t.co then some t
      else ((s.station t.st).jobs.find? fun k => k.core == co && k.ctx == j.ctx && k.arrive == j.arrive && j.expiry != 0
        && (k.tid t.st).isSome).bind (·.tid t.st)

/-- One run of a CBCST to the core store of one sibling, after the pieces before it. -/
def State.bcastRun (t u : Tid) (ssp : Nat) (p : Planning) (r : Run) : Planning :=
  match p with
  | (.error f, s) => (.error f, s)
  | (.ok p, s) =>
    match s.side t ssp .ring .read r.src r.len with
    | (.error f, s) => (.error f, s)
    | (.ok l, s) =>
      match (s.thread u).csLoc u r.dst r.len with
      | .error f => (.error f, s)
      | .ok m => (.ok { p with pieces := p.pieces ++ [{ src := l, dst := m, len := r.len, sva := if ssp = 0 then none else some r.src }] }, s)

/-- CBCST: every run to every sibling of the mask in the third register (R219); nonzero reserved bits of it set RSVWARN (log 99). -/
def Ctx.planCbcst (y : Ctx) (x : SReg) (d : Desc) (s : State) : Planning :=
  if d.dsp ≠ 0 then (.error fFormat, s)
  else
    match d.runs 0 [] with
    | .error f => (.error f, s)
    | .ok rs =>
      (s.siblings y.t (wbits (y.s s x) 0 8)).foldl (fun p u => rs.foldl (State.bcastRun y.t u d.ssp) p)
        (.ok { pieces := [], rsv := d.rsv || wbits (y.s s x) 8 56 != 0 }, s)

def execCbcst (c : Ctl) (a b x : SReg) (s : State) : Outcome State Fault Refusal :=
  .next (s.descWord c a b none fun y d s => y.planCbcst x d s)

/-- The modules that locations lie on. -/
def modulesOf (ls : List Loc) : List Nat :=
  (ls.filterMap fun l => match l with
    | .mem pa => some (paModule pa)
    | _ => none).eraseDups

/-- XPUT: a far destination on one module; its barrier lies there too (R220). -/
def Ctx.planXput (y : Ctx) (x : SReg) (d : Desc) (s : State) : Planning :=
  match s.planOf y.t { ssp := d.ssp, dsp := d.dsp, sr := .home, dr := .far } d.rsv (d.runs 0 []) with
  | (.error f, s) => (.error f, s)
  | (.ok p, s) =>
    let ms := modulesOf (p.pieces.map Piece.dst)
    if 1 < ms.length then (.error fSpan, s)
    else
      match s.copyBar y.t (y.s s x) with
      | (.error f, s) => (.error f, s)
      | (.ok none, s) => (.ok p, s)
      | (.ok (some pa), s) => (if ms.contains (paModule pa) then .ok { p with rbar := some pa, vas := [slotAddr (y.s s x)] } else .error fSpan, s)

def execXput (c : Ctl) (a b x : SReg) (s : State) : Outcome State Fault Refusal :=
  .next (s.descWord c a b (some .system) fun y d s => y.planXput x d s)

/-- XGET: a far source on one module (R220). -/
def Ctx.planXget (y : Ctx) (d : Desc) (s : State) : Planning :=
  match s.planOf y.t { ssp := d.ssp, dsp := d.dsp, sr := .far, dr := .home } d.rsv (d.runs 0 []) with
  | (.error f, s) => (.error f, s)
  | (.ok p, s) => (if 1 < (modulesOf (p.pieces.map Piece.src)).length then .error fSpan else .ok p, s)

def execXget (c : Ctl) (a b : SReg) (s : State) : Outcome State Fault Refusal :=
  .next (s.descWord c a b (some .system) fun y d s => y.planXget d s)

/-- SEGHOLD: bound to the tag of the segment that the frame holds at acceptance (R221); nonzero reserved bits set RSVWARN (log 99). -/
def Ctx.planSeghold (y : Ctx) (a x : SReg) (s : State) : Planning :=
  let A := (y.s s a).toNat
  let v := y.s s x
  let n := wbits v 32 22
  let o := A - segBase
  let f := o / 2 ^ 22
  if A < segBase ∨ 64 ≤ f ∨ !s.frameHas y.t.st f (o % 2 ^ 22) n then (.error (fXlate 0x1 0 (y.s s a)), s)
  else
    let (p, s) := s.planOf y.t { ssp := 1, dsp := 0, sr := .ring } (wbits v 22 10 != 0 || wbits v 54 10 != 0) (.ok (cutRuns [⟨A, wbits v 0 22, n⟩]))
    (p.map fun p => { p with tag := some (s.frame y.t.st f).tag }, s)

def execSeghold (c : Ctl) (a b x : SReg) (s : State) : Outcome State Fault Refusal :=
  .next (s.issue c { order := true } 0 fun y s => y.copyWord s .station (y.s s b) (y.planSeghold a x))

/-! Key-value words (R222 to R224). -/

/-- The key-value fields of the sequence block that a register names. -/
def State.kvBlock (s : State) (t : Tid) (va : Word) (acc : Access) : Except FRec KvRun × State :=
  let th := s.thread t
  if s.walkWaits t th.ctx va.toNat then (.error fWait, s) else
  match s.xlateTo t th.ctx th.priv va.toNat 8 acc with
  | (.fault sub level, s) => (.error (fXlate sub level va), s)
  | (.pa a _, s) =>
    if s.paKind a ≠ .own then State.dropOn t th.ctx va.toNat (.error (fXlate 0x2 (s.leafLevel t th.ctx va.toNat) va), s)
    else if va.toNat % 8 ≠ 0 then (.error (fAlign va), s)
    else
      let r (o n : Nat) := s.homeN (a + o) n
      (.ok { pa := a, ent := r 0x40 4, ppg := r 0x44 2, nl := r 0x46 2, np := r 0x60 4, len := r 0x48 4
             pl := BitVec.ofNat 64 (r 0x50 8), alt := BitVec.ofNat 64 (r 0x58 8), list := [], next := 0 }, s)
  | (_, s) => (.error (fXlate 0x2 0 va), s)

/-- The page that holds position p of layer l in a page list (R222): none beyond KVNP, or where the list holds 0. -/
def State.kvPage (s : State) (t : Tid) (k : KvRun) (list : Word) (l p : Nat) : Except FRec Nat × State :=
  let miss : FRec := fXlate 0x1 0 0
  if k.ppg = 0 ∨ k.np ≤ p / k.ppg then (.error miss, s)
  else
    match s.virtLoc t .near .read (list + BitVec.ofNat 64 (8 * (l * k.np + p / k.ppg))).toNat 8 with
    | (.error f, s) => (.error f, s)
    | (.ok (.mem pa), s) => (if s.homeN pa 8 = 0 then .error miss else .ok (s.homeN pa 8), s)
    | (.ok _, s) => (.error miss, s)

/-- The byte address of an entry. -/
def State.kvEntry (s : State) (t : Tid) (k : KvRun) (list : Word) (l p : Nat) : Except FRec Nat × State :=
  let (r, s) := s.kvPage t k list l p
  (r.map fun a => a + p % k.ppg * k.ent, s)

/-- KVAPP (R222); bits 31:22 of its third register, which the rule does not name, set RSVWARN (log 99). -/
def State.planKvapp (s : State) (t : Tid) (blk v : Word) : Planning :=
  match s.kvBlock t blk .read with
  | (.error f, s) => (.error f, s)
  | (.ok k, s) =>
    let n := wbits v 32 16
    let l := wbits v 48 16
    let tail := s.homeN (k.pa + 0x4C) 4
    if n = 0 ∨ 4096 < n ∨ k.nl ≤ l then (.error fFormat, s)
    else
      (List.range n).foldl (fun (p : Planning) i =>
        match p with
        | (.error f, s) => (.error f, s)
        | (.ok p, s) =>
          match s.kvEntry t k k.pl l (tail + i) with
          | (.error f, s) => (.error f, s)
          | (.ok a, s) =>
            let (ps, s) := s.pieces t { ssp := 0, dsp := 1 } (cutRuns [⟨wbits v 0 22 + i * k.ent, a, k.ent⟩])
            (ps.map fun ps => { p with pieces := p.pieces ++ ps }, s)) (.ok { pieces := [], rsv := wbits v 22 10 != 0 }, s)

def execKvapp (c : Ctl) (a b x : SReg) (s : State) : Outcome State Fault Refusal :=
  .next (s.issue c { order := true } 0 fun y s =>
    y.copyWord s .system (y.s s b) fun s => s.planKvapp y.t (y.s s a) (y.s s x))

/-- r, m and T of R223. -/
def KvRun.r (k : KvRun) : Nat := k.len % k.ppg
def KvRun.m (k : KvRun) : Nat := k.r + k.list.length
def KvRun.total (k : KvRun) : Nat := k.nl * k.m

/-- The positions that entry e is read from and written to. -/
def KvRun.entry (k : KvRun) (e : Nat) : Nat × Nat × Nat :=
  let i := e % k.m
  if i < k.r then (e / k.m, k.len - k.r + i, k.len - k.r + i) else (e / k.m, k.list.getD (i - k.r) 0, k.len + (i - k.r))

/-- The pages that the entries are read from, or written to, as far as the lists can be read. -/
def State.kvPages (s : State) (t : Tid) (k : KvRun) (write : Bool) : List Nat :=
  ((List.range k.total).filterMap fun e =>
    let (l, a, b) := k.entry e
    match (s.kvPage t k (if write then k.alt else k.pl) l (if write then b else a)).1 with
    | .ok p => some p
    | .error _ => none).eraseDups

/-- The accept list (R223): count, strictly ascending positions from KVLEN to KVTAIL - 1; where it lies wrong, the causes of any other
core-store operand (log 100). -/
def State.acceptList (s : State) (t : Tid) (k : KvRun) (a : Word) : Except FRec (List Nat) :=
  let th := s.thread t
  let n := s.csReadQ t .c a.toNat 4
  if a.toNat % 4 ≠ 0 then .error (fAlign a)
  else if th.csBytes < a.toNat + 4 then .error (fOver 2)
  else if n = 0 ∨ 1024 < n then .error fFormat
  else if th.csBytes < a.toNat + 4 + 4 * n then .error (fOver 2)
  else
    let l := (List.range n).map fun i => s.csReadQ t .c (a.toNat + 4 + 4 * i) 4
    let tail := s.homeN (k.pa + 0x4C) 4
    let up := (l.zip (l.drop 1)).all fun (x, y) => decide (x < y)
    if up ∧ k.len ≤ l.headD 0 ∧ l.getLastD 0 < tail then .ok l else .error fFormat

/-- KVCMP's acceptance (R223, R224): a page size of 0 is a format fault. -/
def State.planKvcmp (s : State) (t : Tid) (blk a : Word) : Planning :=
  match s.kvBlock t blk .atomic with
  | (.error f, s) => (.error f, s)
  | (.ok k, s) =>
    match s.acceptList t k a with
    | .error f => (.error f, s)
    | .ok l =>
      let k := { k with list := l }
      if k.ppg = 0 ∨ (s.kvPages t k true).any (fun p => (s.kvPages t k false).contains p) then (.error fFormat, s)
      else
        let prog := (s.thread t).creg crCPROG
        let s := if (s.thread t).kvRestart then s else s.modThread t fun th => th.setCreg crCPROG (wset prog 0 32 0)
        (.ok { pieces := [], kv := some { k with next := if (s.thread t).kvRestart then wbits prog 0 32 else 0 }, vas := [blk.toNat] }, s)

def execKvcmp (c : Ctl) (a b x : SReg) (s : State) : Outcome State Fault Refusal :=
  .next (s.issue c { order := true } 0 fun y s =>
    y.copyWord s .system (y.s s b) fun s => s.planKvcmp y.t (y.s s a) (y.s s x))

/-! CWAIT and CCNCL (R225). -/

/-- A copy of the thread has ended short: a CWAIT behind its word sets SHORT. -/
def Thread.endsShort (th : Thread) (seq : Nat) : Thread :=
  { th with short := some (match th.short with
    | some n => min n seq
    | none => seq) }

/-- Whether a copy that a word with a stream number covers has ended short. -/
def Thread.shortBefore (th : Thread) (seq : Nat) : Bool := th.short.any fun n => decide (n < seq)

/-- CWAIT, a waiting word. It covers the copies before it, whose PROG is observed; SHORT is observed with the token that it posts, or
at once where it posts none (R30, R194, R225, log 53). -/
def execCwait (c : Ctl) (post : Bool) (t : Token) (s : State) : Outcome State Fault Refusal :=
  .next (s.issue c {} 0 fun x s =>
    let th := x.th s
    if post && decide (th.tokenCount ≤ t.val) then .fault (fOver 4) s
    else if !s.copiesDone x.t x.e.seq then .hold s
    else if post && decide (15 ≤ th.tokensHeld t.val) then .hold s
    else
      let w := RegW.short (th.shortBefore x.e.seq)
      let s := s.modThread x.t fun th => th.observe fun u => u.q == .c && decide (u.seq < x.e.seq)
      if post then
        x.post (s.modThread x.t fun th => { th with unobs := th.unobs ++ [⟨.c, x.e.seq, [w]⟩] }) t.val (some (.c, x.e.seq + 1))
      else .done (s.modThread x.t fun th => th.land w))

/-- The parts of pieces that have been begun: of a piece performed unit by unit some units are done (R215). -/
def CopyJob.begun (k : CopyJob) : List Piece :=
  k.pieces.filter fun p => p.grp != 0 && decide (((k.pieces.filter fun q => q.grp == p.grp).map Piece.len).sum < p.whole)

/-- Whether a copy has something that has not been begun: a piece, or an entry of a KVCMP. -/
def CopyJob.unbegun (k : CopyJob) : Bool :=
  k.begun.length != k.pieces.length || k.kv.any fun r => decide (r.next + (!k.pieces.isEmpty).toNat < r.total)

/-- CCNCL: what has been begun is performed, the rest is dropped, and the copies that lost something end short; the C queue is held until
then. -/
def execCcncl (c : Ctl) (s : State) : Outcome State Fault Refusal :=
  .next (s.issue c {} 0 fun x s =>
    let mine (k : CopyJob) : Bool := k.t == x.t
    let drops (k : CopyJob) : Bool := mine k && k.unbegun && k.begun.isEmpty
    let ended := (s.station x.t.st).copies.filter drops
    let s := (s.modStation x.t.st fun y => { y with copies := (y.copies.filter fun k => !drops k).map fun k =>
      (if mine k && k.unbegun then { k with pieces := k.begun, cancel := true } else k) }).modThread x.t fun th => ended.foldl (fun th k => th.endsShort k.e.seq) th
    if (s.station x.t.st).copies.any mine then .hold s else .done s)

end Sys2Proof.Machine
end

