-- ==== Sys2Proof/Machine/EvControl.lean ====
section
/-! DEFINITION. The station control block: fields and access codes of its registers (R8, R410), reads, and the writes with a
step of their own: DEVLOG_SIZE_WRITE, TELEMETRY_SIZE_WRITE, CAP_REVOKE, CONTEXT_TEARDOWN, DESCRIPTOR_WRITE, TIMETABLE_WRITE,
TILE_WALK_STOP_CLEAR, TLB_INVALIDATE and its end, MIGEN_CLEAR, MODULE_LEASE_ACQUIRE and _RELEASE, REGISTER_WRITE. -/

namespace Sys2Proof.Machine

open Host

/-! Fields. -/

/-- The fields of a doubleword by access code: RW at supervisor privilege, RW at firmware privilege alone, ST, RW1C. -/
structure RegF where
  rw : Nat := 0
  fw : Nat := 0
  st : Nat := 0
  w1c : Nat := 0
  deriving DecidableEq, Repr

/-- Bits hi to lo. -/
def fld (hi lo : Nat) : Nat := 2 ^ (hi + 1) - 2 ^ lo
def all64 : Nat := fld 63 0

/-- Doublewords of the blocks that repeat by context, core, entry or slot. -/
def regRep (o : Nat) : RegF :=
  if 0x400 ≤ o ∧ o < 0x800 then
    match o % 0x40 with
    | 0x00 => { rw := fld 63 12 } | 0x08 => { rw := all64 } | 0x10 => { rw := fld 12 0 } | 0x18 => { rw := all64 }
    | 0x20 => { rw := all64 } | 0x28 => { rw := fld 63 6 } | 0x30 => { rw := fld 17 0 } | _ => { rw := 1 }
  else if 0x800 ≤ o ∧ o < 0x1000 then
    if o % 0x20 = 0x18 then { rw := fld 8 4 + fld 1 0, st := fld 10 10, w1c := fld 9 9 } else { rw := all64 }
  else if 0x1000 ≤ o ∧ o < 0x1400 then
    match o % 0x20 with
    | 0x10 => { rw := fld 63 6 } | 0x18 => { rw := fld 31 16 + fld 7 4 + 1, w1c := 2 } | _ => { rw := all64 }
  else if 0x1800 ≤ o ∧ o < 0x1A00 then
    match o % 0x20 with
    | 0x00 => { rw := fld 34 16 } | 0x08 => { rw := fld 31 0 } | 0x10 => { rw := fld 34 4 }
    | _ => { rw := fld 47 32 + fld 15 0, st := fld 63 63 }
  else if 0x1B00 ≤ o ∧ o < 0x1B80 ∧ o % 16 = 0 then { rw := fld 20 14 }
  else if 0x2000 ≤ o ∧ o < 0x2400 then
    match o % 0x40 with
    | 0x00 => { rw := fld 51 12 } | 0x08 => { rw := fld 63 58 + fld 52 18 } | 0x10 => { rw := fld 63 28 } | 0x18 => { rw := fld 31 0 }
    | 0x20 => { rw := fld 63 6 } | 0x28 => { rw := all64 } | 0x30 => { st := 1 } | _ => {}
  else if 0x2800 ≤ o ∧ o < 0x2A00 then
    match o % 0x20 with
    | 0x00 => { rw := fld 34 15 } | 0x08 => { rw := fld 34 13 } | _ => { rw := all64 }
  else if 0x2C20 ≤ o ∧ o < 0x2D20 then
    if o % 16 = 0 then { rw := fld 34 6 } else { rw := fld 31 0 }
  else if 0x3060 ≤ o ∧ o < 0x30E0 then
    if o % 16 = 0 then { rw := all64 } else { rw := fld 63 63 + fld 31 0 }
  else if 0x3100 ≤ o ∧ o < 0x3370 then { rw := fld 63 32 }
  else if 0x5000 ≤ o ∧ o < 0x5800 then
    match o % 0x20 with
    | 0x00 => { rw := all64 } | 0x08 => { rw := fld 34 0 } | 0x10 => { rw := fld 63 8 + fld 1 0 } | _ => { rw := 1 }
  else if o = 0x6200 then { rw := all64 }
  else if 0x6100 ≤ o ∧ o < 0x6200 then
    if o % 16 = 0 then { rw := fld 63 10 } else { rw := fld 15 0 }
  else {}

/-- The doubleword at an offset of the control block. -/
def regF (o : Nat) : RegF :=
  match o with
  | 0x00 => { rw := fld 34 5 } | 0x08 => { rw := fld 20 0 } | 0x10 => { rw := fld 20 0 } | 0x18 => { rw := all64 }
  | 0x40 => { rw := fld 56 12 } | 0x48 => { rw := fld 23 2 } | 0x50 => { st := 2 }
  | 0x100 => { rw := fld 48 0 }
  | 0x200 => { fw := all64 } | 0x210 => { fw := fld 39 17 + fld 10 0 } | 0x218 => { rw := 0x8FFF8FFF8FFF8FFF } | 0x220 => { rw := fld 55 0 }
  | 0x228 => { rw := fld 6 0 } | 0x230 => { rw := all64 } | 0x238 => { rw := all64 } | 0x240 => { rw := all64 } | 0x248 => { rw := all64 }
  | 0x300 => { rw := all64 } | 0x308 => { rw := fld 19 0 } | 0x310 => { rw := all64 } | 0x318 => { rw := all64 } | 0x320 => { rw := all64 }
  | 0x328 => { rw := all64 } | 0x3C0 => { rw := all64 }
  | 0x1400 => { rw := fld 34 5 } | 0x1408 => { rw := fld 20 0 } | 0x1410 => { rw := fld 20 0 } | 0x1418 => { rw := fld 15 0 }
  | 0x1420 => { rw := all64 }
  | 0x1A80 => { rw := all64 } | 0x1A88 => { rw := all64 } | 0x1A90 => { rw := fld 15 0 }
  | 0x1A98 => { rw := fld 29 24 + fld 22 0, st := fld 61 61 }
  | 0x2410 => { rw := all64 } | 0x2418 => { rw := all64 } | 0x2A00 => { rw := fld 34 0 } | 0x2A08 => { rw := fld 34 0 }
  | 0x2C00 => { rw := fld 15 8 } | 0x2C08 => { rw := all64 } | 0x2C10 => { rw := all64 } | 0x2C18 => { w1c := fld 15 0 }
  | 0x3000 => { rw := all64 } | 0x3008 => { rw := all64 } | 0x3010 => { rw := all64 } | 0x3018 => { rw := all64 } | 0x3020 => { rw := all64 }
  | 0x3028 => { rw := all64 } | 0x3030 => { rw := all64 } | 0x3038 => { rw := all64 } | 0x3040 => { rw := all64 }
  | 0x3048 => { fw := fld 34 12 } | 0x3050 => { fw := fld 34 12 } | 0x3058 => { fw := fld 34 0 }
  | 0x4000 => { rw := fld 31 0 } | 0x4008 => { rw := fld 23 4 } | 0x4010 => { rw := all64 }
  | o => regRep o

/-- Registers of the port dies, which every control block shows (R256, R386, R407). -/
def regShared (o : Nat) : Bool :=
  (decide (0x1000 ≤ o) && decide (o < 0x1400)) || (decide (0x3100 ≤ o) && decide (o < 0x3370)) || (decide (0x4000 ≤ o) && decide (o < 0x4020))

def State.regCell (s : State) (st o : Nat) : Word := if regShared o then Cells.get s.pcb o else s.cb st o
def State.setRegCell (s : State) (st o : Nat) (v : Word) : State :=
  if regShared o then { s with pcb := Cells.set s.pcb o v } else s.setCb st o v

/-! Reads. -/

/-- The ring slot that a core cycle falls in (R260, R275). -/
def State.rsn (s : State) (st : Nat) : Nat := (s.cyc - (s.cb st 0x200).toNat) / Config.slotCycles

/-- The presence map's doubleword k (R411). -/
def State.presence (s : State) (k : Nat) : Word :=
  BitVec.ofNat 64 ((List.range 64).map fun j => if s.present.contains (64 * k + j) then 2 ^ j else 0).sum

/-- DBGCTL's read-only bits (R317). -/
def State.dbgRead (s : State) (st co : Nat) : Nat :=
  ((List.range 6).map fun j => if (s.thread ⟨st, co, j⟩).halted then 2 ^ (21 + j) else 0).sum + if (s.core st co).copyq then 2 ^ 27 else 0

/-- BUSY of TISTAT: from the cycle after GO is written until the invalidation is over (R186). -/
def State.tiBusy (s : State) (st : Nat) : Bool :=
  match (s.station st).tiDone with
  | some d => decide (d < s.cyc + 65)
  | none => false

/-- The bits of a doubleword that hardware shows beside the stored ones. -/
def State.regLive (s : State) (st o : Nat) (priv : Priv) : Nat :=
  let x := s.station st
  if o = 0x50 then (s.tiBusy st).toNat
  else if o = 0x208 then s.rsn st
  else if o = 0x1A98 then if x.moving.isSome then 2 ^ 62 else 0
  else if 0x1B00 ≤ o ∧ o < 0x1B80 ∧ o % 16 = 0 then s.dbgRead st ((o - 0x1B00) / 16)
  else if o = 0x2400 then x.caps.countP fun e => e.2.valid
  else if o = 0x2C00 then x.fq.length
  else if 0x3100 ≤ o ∧ o < 0x3370 then
    let p : Port := Tab.get s.ports ((o - 0x3100) / 8)
    p.lanes.length * 2 ^ 16 + (p.lanes.map fun l => 2 ^ l).sum
  else if 0x6000 ≤ o ∧ o < 0x60C0 then (s.presence ((o - 0x6000) / 8)).toNat
  else if o = 0x60C0 then s.modnum
  else if priv ≠ .firmware then 0
  else if o = 0x3800 then s.leaseEpoch * 2 ^ 32 + s.leaseHeld.toNat * 64 + s.leaseHolder
  else if o = 0x3808 then s.leaseExp
  else if o = 0x3818 then (s.cb st 0x13818).toNat
  else 0

/-- A doubleword as a load reads it. -/
def State.readReg (s : State) (st o : Nat) (priv : Priv) : Word := s.regCell st o ||| BitVec.ofNat 64 (s.regLive st o priv)

/-- The bytes that a load of a control block returns, as a number. -/
def State.cbRead (s : State) (st off size : Nat) (priv : Priv) : Nat :=
  (s.readReg st (off / 8 * 8) priv).toNat / 2 ^ (8 * (off % 8)) % 2 ^ (8 * size)

/-! Writes. -/

def CbWrite.dw (w : CbWrite) : Nat := w.off / 8 * 8

/-- The bits that a store writes, and their values at their places; the unwritten bytes count as zero. -/
def CbWrite.mask (w : CbWrite) : Word := BitVec.ofNat 64 ((2 ^ (8 * w.size) - 1) * 2 ^ (8 * (w.off % 8)))
def CbWrite.bits (w : CbWrite) : Word := BitVec.ofNat 64 (w.val.toNat % 2 ^ (8 * w.size) * 2 ^ (8 * (w.off % 8)))

/-- Whether a store writes at least one byte of a field. -/
def CbWrite.touches (w : CbWrite) (lo len : Nat) : Bool :=
  decide (8 * (w.off % 8) < lo + len) && decide (lo < 8 * (w.off % 8) + 8 * w.size)

/-- Whether a store writes a bit, as 1. -/
def CbWrite.sets (w : CbWrite) (i : Nat) : Bool := w.bits.getLsbD i

/-- The doubleword that a store leaves under the access codes. -/
def regMerge (f : RegF) (w : CbWrite) (old : Word) : Word :=
  let rw := (BitVec.ofNat 64 f.rw ||| if w.priv = .firmware then BitVec.ofNat 64 f.fw else 0) &&& w.mask
  let v := (old &&& ~~~ rw) ||| (w.bits &&& rw)
  v &&& ~~~ (BitVec.ofNat 64 f.st &&& w.mask &&& ~~~ w.bits) &&& ~~~ (BitVec.ofNat 64 f.w1c &&& w.bits)

/-- Values that are stored as others (R275, R278, R287). -/
def regNorm (o : Nat) (v : Word) : Word :=
  if o = 0x210 then if 1864 < wbits v 0 11 then wset v 0 11 1864 else v
  else if o = 0x220 then BitVec.ofNat 64 ((List.range 8).map fun t => min 64 (wbits v (7 * t) 7) * 2 ^ (7 * t)).sum
  else if o = 0x228 then if wbits v 0 7 = 0 ∨ 64 < wbits v 0 7 then 64 else v
  else if o = 0x308 then if v = 0 then 1 else v
  else if 0x400 ≤ o ∧ o < 0x800 ∧ o % 0x40 = 0x10 then if 4096 < v.toNat then 4096 else v
  else v

def State.engineOf (s : State) (e : Nat) : TWalk := Tab.get s.engines e
def State.modEngine (s : State) (e : Nat) (f : TWalk → TWalk) : State := { s with engines := Tab.set s.engines e (f (s.engineOf e)) }

/-- A write of a register, its fields merged. A tile-walk engine's binding names a context of the station whose block it was
written through (log 40). -/
def State.regWrite (s : State) (w : CbWrite) : State :=
  let o := w.dw
  let x := s.station w.st
  if (o = 0x40 ∨ o = 0x48) ∧ s.tiBusy w.st then s
  else if o = 0x1A98 ∧ x.moving.isSome then s
  else
    let s := s.setRegCell w.st o (regNorm o (regMerge (regF o) w (s.regCell w.st o)))
    if 0x1000 ≤ o ∧ o < 0x1400 ∧ o % 0x20 = 0x18 then s.modEngine ((o - 0x1000) / 0x20) fun e => { e with stn := w.st } else s

/-- The write being performed, taken. -/
def State.takeCbw (s : State) : Option (CbWrite × State) := s.cbw.map fun w => (w, { s with cbw := none })

/-- A step that does something with the write being performed. -/
def State.withCbw (s : State) (f : CbWrite → State → State) : State :=
  match s.takeCbw with
  | some (w, s) => f w s
  | none => s

/-- The steps of a write of DBGCTL (R316, R317): a bit written as 1 halts, be it 1 already; one that becomes 0 releases. -/
def State.dbgSteps (s : State) (w : CbWrite) : List Instr :=
  let co := (w.dw - 0x1B00) / 16
  let old := s.cb w.st w.dw
  let new := regMerge (regF w.dw) w old
  let per (p : Nat → Bool) (k : Tid → Instr) : List Instr := ((List.range 6).filter p).map fun j => k ⟨w.st, co, j⟩
  let freed (j : Nat) : Bool := ((s.thread ⟨w.st, co, j⟩).halted || (s.thread ⟨w.st, co, j⟩).halting) && !new.getLsbD (14 + j) && w.touches (14 + j) 1
  (if w.sets 20 then [Instr.dbgHaltCore w.st co] else []) ++ per (fun j => w.sets (14 + j)) .dbgHaltThread ++
    per (fun j => w.sets (8 + j)) .dbgSave ++
    (if old.getLsbD 20 && !new.getLsbD 20 then [Instr.dbgReleaseCore w.st co] else []) ++ per freed .dbgReleaseThread

/-- The steps that a write of a control block consists of. -/
def State.cbSteps (s : State) (w : CbWrite) : List Instr :=
  let o := w.dw
  if o = 0x08 then [.devlogSizeWrite]
  else if o = 0x1408 then [.telemetrySizeWrite]
  else if o = 0x2408 then [.capRevoke]
  else if o = 0x2C18 then [.contextTeardown]
  else if 0x2000 ≤ o ∧ o < 0x2400 then [.descriptorWrite]
  else if 0x1000 ≤ o ∧ o < 0x1400 ∧ o % 0x20 = 0x18 ∧ w.sets 1 then [.tileWalkStopClear]
  else if o = 0x48 ∧ w.sets 0 then [.tlbInvalidate]
  else if o = 0x1A98 ∧ w.sets 63 then [.recordMove]
  else if 0x800 ≤ o ∧ o < 0x1000 then [.timetableWrite]
  else if o = 0x3810 then
    if w.priv ≠ .firmware then [.registerWrite]
    else
      match wbits w.bits 8 2 with
      | 1 => [.moduleLeaseAcquire]
      | 2 => [.moduleLeaseRelease]
      | _ => [.registerWrite]
  else if o = 0x100 ∧ w.touches 48 1 ∧ !w.sets 48 then [.migenClear]
  else if 0x1A00 ≤ o ∧ o < 0x1A80 ∧ o % 16 = 0 then
    let co := (o - 0x1A00) / 16
    (if wbits w.bits 4 4 = 0 then [] else [Instr.preemptWithdraw w.st co (Fin.ofNat 16 (wbits w.bits 4 4))]) ++
      if wbits w.bits 0 4 = 0 then [] else [Instr.preemptRaise w.st co (Fin.ofNat 16 (wbits w.bits 0 4))]
  else if 0x1B00 ≤ o ∧ o < 0x1B80 ∧ o % 16 = 0 then .registerWrite :: s.dbgSteps w
  else [.registerWrite]

/-- A write arrives at a control block: its steps come next. -/
def State.cbPerform (s : State) (w : CbWrite) : State :=
  { s with cbw := some w, agenda := (s.cbSteps w).map Action.ev ++ s.agenda }

/-- REGISTER_WRITE (R410). -/
def execRegisterWrite (s : State) : Outcome State Fault Refusal := .next (s.withCbw fun w s => s.regWrite w)

/-- DEVLOG_SIZE_WRITE (R171). -/
def execDevlogSizeWrite (s : State) : Outcome State Fault Refusal :=
  .next (s.withCbw fun w s => if w.touches 0 21 then (s.regWrite w).setCb w.st 0x10 0 else s)

/-- TELEMETRY_SIZE_WRITE (R307). -/
def execTelemetrySizeWrite (s : State) : Outcome State Fault Refusal :=
  .next (s.withCbw fun w s => if w.touches 0 21 then (s.regWrite w).setCb w.st 0x1410 0 else s)

/-- CAP_REVOKE (R328, R361): a frozen thread that the entry names is killed. -/
def execCapRevoke (s : State) : Outcome State Fault Refusal :=
  .next (s.withCbw fun w s =>
    if !w.touches 0 12 then s
    else
      let i := wbits w.bits 0 12
      let e := Tab.get (s.station w.st).caps i
      let s := s.capInvalid w.st i
      if e.valid ∧ e.kind = 1 then s.killThread e.target else s)

/-- The teardown of a halted context (R368). -/
def State.teardown (s : State) (st c : Nat) : State :=
  let s := (s.ctxThreads st c).foldl (fun s t => s.killThread t) s
  let o := 0x2008 + 0x40 * c
  let s := s.modStation st fun x => { x with missed := x.missed.filter fun m => m.1 != c, rebuilding := x.rebuilding.filter fun m => m.1 != c }
  (s.setCb st o (wset (s.cb st o) 63 1 0)).setCb st 0x2C18 (s.cb st 0x2C18 &&& ~~~ BitVec.ofNat 64 (2 ^ c))

/-- CONTEXT_TEARDOWN (R368). -/
def execContextTeardown (s : State) : Outcome State Fault Refusal :=
  .next (s.withCbw fun w s =>
    ((List.range 16).filter fun c => w.sets c && s.halted w.st c).foldl (fun s c => s.teardown w.st c) s)

/-- The protected fields of a context descriptor (R322), by doubleword. -/
def descProtected (k : Nat) : Nat :=
  match k with
  | 0 => fld 51 12 | 1 => fld 62 58 | 2 => fld 63 28 | 3 => fld 31 0 | _ => 0

/-- Whether a context has a launched, saved or frozen job. -/
def State.hasJobs (s : State) (st c : Nat) : Bool :=
  (s.station st).jobs.any fun j => j.ctx == c && (match j.st with
    | .launched _ => true
    | .saved _ => true
    | _ => false)

/-- DESCRIPTOR_WRITE (R322). -/
def execDescriptorWrite (s : State) : Outcome State Fault Refusal :=
  .next (s.withCbw fun w s =>
    let o := w.dw
    let c := (o - 0x2000) / 0x40
    let p : Word := BitVec.ofNat 64 (descProtected (o % 0x40 / 8))
    let old := s.cb w.st o
    if s.hasJobs w.st c ∧ w.mask &&& p ≠ 0 then
      let s := s.setCb w.st o (((regMerge (regF o) w old) &&& ~~~ p) ||| (old &&& p))
      let b := 0x2030 + 0x40 * c
      s.setCb w.st b (s.cb w.st b ||| 1)
    else s.regWrite w)

/-- TIMETABLE_WRITE (R291): a new arming may raise its one request. -/
def execTimetableWrite (s : State) : Outcome State Fault Refusal :=
  .next (s.withCbw fun w s =>
    let s := s.regWrite w
    if w.dw % 0x20 = 0x18 ∧ w.touches 8 1 then s.setCb w.st (0x10000 + (w.dw - 0x18)) 0 else s)

/-- TILE_WALK_STOP_CLEAR (R256). -/
def execTileWalkStopClear (s : State) : Outcome State Fault Refusal :=
  .next (s.withCbw fun w s =>
    s.regWrite w)

/-! The module lease (R394). -/

def State.leaseCell (s : State) : LeaseCell := ⟨s.leaseEpoch, s.leaseHeld, s.leaseHolder, s.leaseExp, s.active⟩
def State.putLease (s : State) (c : LeaseCell) : State :=
  { s with leaseEpoch := c.epoch, leaseHeld := c.held, leaseHolder := c.holder, leaseExp := c.exp, active := c.active }

/-- The cell serves one request: an acquire of a station, or its release; the requests of one cycle by station (R394, log 93). LRES of a
station is kept at 0x13818. -/
def State.leaseServe (s : State) (r : Nat × Bool) : State :=
  let i := r.1
  if !r.2 then if s.leaseHolder = i then { s with leaseHeld := false } else s
  else if !s.leaseHeld ∨ s.leaseExp ≤ s.tb ∨ s.leaseHolder = i then
    let s := { s with
      leaseEpoch := if !s.leaseHeld ∨ s.leaseHolder ≠ i then (s.leaseEpoch + 1) % 2 ^ 32 else s.leaseEpoch
      active := if !s.leaseHeld ∨ s.leaseHolder ≠ i then (s.station i).image else s.active
      leaseHolder := i
      leaseHeld := true
      leaseExp := s.tb + 8000000 }
    s.setCb i 0x13818 1
  else s.setCb i 0x13818 0

/-- A request behind those of lower stations and of its own. -/
def insertReq (r : Nat × Bool) : List (Nat × Bool) → List (Nat × Bool)
  | [] => [r]
  | x :: xs => if x.1 ≤ r.1 then x :: insertReq r xs else r :: x :: xs

/-- A request comes: it and the others of this cycle are served in ascending station order, from the cell as the cycle began. -/
def State.leaseRequest (s : State) (r : Nat × Bool) : State :=
  let (c, rs) := s.leaseNow.getD (s.leaseCell, [])
  let rs := insertReq r rs
  { rs.foldl State.leaseServe (s.putLease c) with leaseNow := some (c, rs) }

/-- MODULE_LEASE_ACQUIRE. -/
def execModuleLeaseAcquire (s : State) : Outcome State Fault Refusal := .next (s.withCbw fun w s => s.leaseRequest (w.st, true))

/-- MODULE_LEASE_RELEASE. -/
def execModuleLeaseRelease (s : State) : Outcome State Fault Refusal := .next (s.withCbw fun w s => s.leaseRequest (w.st, false))

/-! Invalidation of translations (R186). -/

def InvSel.hits (v : InvSel) (ctx a n : Nat) : Bool :=
  match v.scope with
  | 0 => ctx == v.ctx && decide (a < v.lo + v.n) && decide (v.lo < a + n)
  | 1 => ctx == v.ctx
  | _ => true

def State.invSel (s : State) (st : Nat) (r : Word) : InvSel :=
  let pages := if wbits r 8 16 = 0 then 65536 else wbits r 8 16
  { scope := wbits r 2 2, ctx := wbits r 4 4, lo := (s.cb st 0x40).toNat, n := 4096 * pages }

/-- The addresses that were translated for a piece. -/
def Piece.vas (p : Piece) : List Nat := p.sva.toList ++ p.dva.toList

/-- Whether a piece was translated under a context by what an invalidation selects. -/
def Piece.hit (p : Piece) (v : InvSel) (ctx : Nat) : Bool := p.vas.any fun a => v.hits ctx a p.len

/-- The entry of a KVCMP that a copy's pieces belong to; 0 for the other copies. -/
def CopyJob.entry (k : CopyJob) : Nat := (k.kv.map KvRun.next).getD 0

/-- Whether what a copy still does was translated by what an invalidation selects. -/
def CopyJob.hit (k : CopyJob) (v : InvSel) (ctx : Nat) : Bool := k.pieces.any (·.hit v ctx) || k.vas.any fun a => v.hits ctx a 16

/-- The context of a tile-walk engine's binding (R256). -/
def State.engCtx (s : State) (e : Nat) : Nat := wbits (Cells.get s.pcb (0x1000 + 0x20 * e + 0x18)) 4 4

/-- Whether an address beside its pieces was translated for a tile: its barrier, credited with each piece. -/
def TWalk.hit (x : TWalk) (v : InvSel) (ctx : Nat) : Bool :=
  x.pieces.any (·.p.hit v ctx) || (!x.pieces.isEmpty && x.vas.any fun a => v.hits ctx a 16)

/-- The context that an operation's address was translated in: for a frozen-state word that of its thread or sequence (R359). -/
def State.opCtx (s : State) (t : Tid) (o : MemOp) : Nat := match o.kind with
  | .frzld | .frzst | .frzarv => (match o.for_ with
    | some u => (s.thread u).ctx
    | none => (Tab.get (s.station t.st).caps o.v2.toNat).blkCtx)
  | _ => (s.thread t).ctx

/-- The accesses and Vat commands that a dropped translation still serves. -/
def State.invUsers (s : State) (st : Nat) (v : InvSel) : List InvUser :=
  let ts := s.tidsOf st
  (ts.flatMap fun t =>
    let th := s.thread t
    ((th.ops.filter fun o => o.pa.isSome && o.stage != .done && v.hits (s.opCtx t o) o.va.toNat o.size).map fun o => .op t o.id) ++
      ((th.sb.filter fun b => b.pa.isSome && v.hits th.ctx b.va.toNat b.size).map fun b => .op t b.id) ++
      (((s.core t.st t.co).wbs.filter fun w => w.by_ == some t && (match w.va with
        | some (va, n) => v.hits th.ctx va n
        | none => false)).map fun w => .op t w.id)) ++
  ((List.range 8).flatMap fun co => ((s.vat st co).cmds.filter fun m =>
      m.pins.any fun p => match p with
        | some (.page va n _ _ _ _) => v.hits (s.thread m.t).ctx va n
        | _ => false).map fun m => .cmd co m.id) ++
  (((s.station st).copies.filter fun k => k.hit v (s.thread k.t).ctx).map fun k => .copy k.id k.entry v) ++
  ((s.engines.map Prod.fst).filter fun e => (s.engineOf e).stn == st && (s.engineOf e).hit v (s.engCtx e)).map fun e => .tile e (s.engineOf e).begun v

/-- The pins that an invalidation drops. -/
def dropPins (v : InvSel) (th : Thread) : Thread :=
  { th with pins := th.pins.filter fun p => match p.2 with
    | some (.page va n _ _ _ _) => !v.hits th.ctx va n
    | _ => true }

/-- TLB_INVALIDATE (R186): every entry is dropped as GO is performed (log 98). SCOPE 3 is unassigned: GO is ignored. -/
def execTlbInvalidate (s : State) : Outcome State Fault Refusal :=
  .next (s.withCbw fun w s =>
    if s.tiBusy w.st then s
    else
      let s := s.regWrite w
      let v := s.invSel w.st (s.cb w.st 0x48)
      if v.scope = 3 then s
      else
        let users := s.invUsers w.st v
        let s := s.modStation w.st fun x =>
          { x with
            tlb := x.tlb.filter fun l => !v.hits l.ctx l.va l.span
            wc := x.wc.filter fun e => !v.hits e.ctx (e.va * 2 ^ (12 + 9 * e.level)) (2 ^ (12 + 9 * e.level))
            tiDone := some (s.cyc + 65)
            tiWait := x.tiWait ++ users }
        let s := (List.range 8).foldl (fun s co =>
          if Tab.has s.cores (coreKey w.st co) then s.modCore w.st co fun c => { c with mutlb := c.mutlb.filter fun l => !v.hits l.ctx l.va l.span }
          else s) s
        (s.tidsOf w.st).foldl (fun s t => s.modThread t (dropPins v)) s)

/-- Whether an access or command that an invalidation waits for is still under way. -/
def State.invBusy (s : State) (st : Nat) : InvUser → Bool
  | .op t id =>
    (s.thread t).ops.any (fun o => o.id == id && o.stage != .done) || (s.thread t).sb.any (·.id == id) || (s.core t.st t.co).wbs.any (·.id == id)
  | .cmd co id => (s.vat st co).cmds.any (·.id == id)
  | .copy id entry v => (s.station st).copies.any fun k => k.id == id && k.entry == entry && k.hit v (s.thread k.t).ctx
  | .tile e begun v => (s.engineOf e).busy && (s.engineOf e).begun == begun && (s.engineOf e).hit v (s.engCtx e)

def State.invOver (s : State) (st : Nat) : Bool :=
  match (s.station st).tiDone with
  | none => false
  | some d => decide (d ≤ s.cyc) && !(s.station st).tiWait.any (s.invBusy st)

/-- TLB_INVALIDATE_DONE (R186). -/
def execTlbInvalidateDone (st : Nat) (s : State) : Outcome State Fault Refusal :=
  .next (if s.invOver st then s.modStation st fun x => { x with tiDone := none, tiWait := [] } else s)

end Sys2Proof.Machine
end

