-- ==== Sys2Proof/Machine/Numbers.lean ====
section
/-! DEFINITION. Number formats and rounding (R58 to R73): exact values, reading and writing of every element format, round_to
and dither, overflow and saturation, conversions to integer and Q codes, exact sums, products, quotients and the function
forms (R118), the FP32 orders (R117, R120). -/

namespace Sys2Proof.Machine

/-- An exact value. A number is (-1)^neg · (m + δ) · 2^e: δ is 0, or, with `more`, an unknown part strictly between 0 and 1
of a value whose digits go on. -/
inductive Val where
  | nan
  | inf (neg : Bool)
  | num (neg : Bool) (m : Nat) (e : Int) (more : Bool)
  deriving DecidableEq, Repr, Inhabited

/-- Results with the event flags they raise. -/
abbrev Flagged (α : Type) := α × Word

def Val.zero (neg : Bool := false) : Val := .num neg 0 0 false
def Val.one : Val := .num false 1 0 false
def Val.ofInt (i : Int) : Val := .num (decide (i < 0)) i.natAbs 0 false

def Val.isNan : Val → Bool
  | .nan => true
  | _ => false

def Val.isZero : Val → Bool
  | .num _ m _ more => m == 0 && !more
  | _ => false

def Val.neg : Val → Val
  | .nan => .nan
  | .inf n => .inf (!n)
  | .num n m e more => .num (!n) m e more

/-- Two to an integer power times a natural number, rounded down. -/
def scaleNat (m : Nat) (e : Int) : Nat := if 0 ≤ e then m * 2 ^ e.toNat else m / 2 ^ (-e).toNat

/-! Formats (R60, R61, R63). -/

/-- A floating-point format: width, fraction bits, bias, and whether it is E4M3. -/
structure FpFmt where
  width : Nat
  f : Nat
  bias : Nat
  e4m3 : Bool := false
  deriving DecidableEq, Repr

def FpFmt.p (k : FpFmt) : Nat := k.f + 1
def FpFmt.ebits (k : FpFmt) : Nat := k.width - 1 - k.f
def FpFmt.emin (k : FpFmt) : Int := 1 - k.bias
def FpFmt.emax (k : FpFmt) : Int := if k.e4m3 then 8 else k.bias

/-- The largest finite value is this many units of 2^(emax - p + 1): E4M3 gives up its last code to NaN. -/
def FpFmt.maxM (k : FpFmt) : Nat := if k.e4m3 then 14 else 2 ^ k.p - 1

def fp32 : FpFmt := ⟨32, 23, 127, false⟩
def fp16 : FpFmt := ⟨16, 10, 15, false⟩
def bf16 : FpFmt := ⟨16, 7, 127, false⟩
def e5m2 : FpFmt := ⟨8, 2, 15, false⟩
def e4m3 : FpFmt := ⟨8, 3, 7, true⟩

/-- Whether subnormals of the format may be flushed (R66, R73). -/
def FpFmt.flushable (k : FpFmt) : Bool := k.width != 32

/-- The canonical NaN (R64). -/
def FpFmt.nan (k : FpFmt) : Nat :=
  if k.e4m3 then 0x7F else (2 ^ k.ebits - 1) * 2 ^ k.f + 2 ^ (k.f - 1)

/-- How a format is read: floating point, or an integer of some bits, signed or a Q code. -/
inductive FmtKind where
  | fp (k : FpFmt)
  | int (width : Nat) (signed : Bool)
  deriving DecidableEq, Repr

end Sys2Proof.Machine

namespace Sys2Proof
open Machine

/-- The format of a code; `dflt` stands for FP32, the own format of every form that takes a TYPE (R116, R122, R130, R166). -/
def Fmt.kind : Fmt → FmtKind
  | .dflt => .fp Machine.fp32
  | .i4 => .int 4 true
  | .i8 => .int 8 true
  | .i32 => .int 32 true
  | .q4g32 => .int 4 false
  | .q4g64 => .int 4 false
  | .q4g128 => .int 4 false
  | .q8g32 => .int 8 false
  | .q8g64 => .int 8 false
  | .q8g128 => .int 8 false
  | .e4m3 => .fp Machine.e4m3
  | .e5m2 => .fp Machine.e5m2
  | .fp16 => .fp Machine.fp16
  | .bf16 => .fp Machine.bf16
  | .fp32 => .fp Machine.fp32

/-- Bits of an element. -/
def Fmt.width (f : Fmt) : Nat :=
  match f.kind with
  | .fp k => k.width
  | .int w _ => w

/-- Elements of a group, 0 for a format without groups (R61). -/
def Fmt.group : Fmt → Nat
  | .q4g32 => 32
  | .q8g32 => 32
  | .q4g64 => 64
  | .q8g64 => 64
  | .q4g128 => 128
  | .q8g128 => 128
  | _ => 0

/-- The precision that decides whether DTH applies (R409). -/
def Fmt.precision (f : Fmt) : Nat :=
  match f.kind with
  | .fp k => k.p
  | .int w signed => if signed then w - 1 else w

def GroupFmt.fmt : GroupFmt → Fmt
  | .q4g32 => .q4g32
  | .q4g64 => .q4g64
  | .q4g128 => .q4g128
  | .q8g32 => .q8g32
  | .q8g64 => .q8g64
  | .q8g128 => .q8g128

end Sys2Proof

namespace Sys2Proof.Machine

/-! Reading and writing. -/

/-- The value of a floating-point encoding (R63). -/
def FpFmt.read (k : FpFmt) (b : Nat) : Val :=
  let s := tbit b (k.width - 1)
  let ef := bits b k.f k.ebits
  let fr := bits b 0 k.f
  if k.e4m3 ∧ ef = 15 ∧ fr = 7 then .nan
  else if !k.e4m3 ∧ ef = 2 ^ k.ebits - 1 then if fr = 0 then .inf s else .nan
  else if ef = 0 then .num s fr (k.emin - k.f) false
  else .num s (2 ^ k.f + fr) ((ef : Int) - k.bias - k.f) false

/-- A subnormal encoding: a nonzero one whose exponent field is 0. -/
def FpFmt.subnormal (k : FpFmt) (b : Nat) : Bool := bits b k.f k.ebits == 0 && bits b 0 k.f != 0

/-- An input of a format, flushed where asked (R73). -/
def FpFmt.input (k : FpFmt) (fin : Bool) (b : Nat) : Flagged Val :=
  if fin && k.flushable && k.subnormal b then (.zero (tbit b (k.width - 1)), flFI) else (k.read b, 0)

/-- The value that an element holds in its low bits (R110). -/
def readAs (f : Fmt) (fin : Bool) (b : Nat) : Flagged Val :=
  match f.kind with
  | .fp k => k.input fin (b % 2 ^ k.width)
  | .int w true => (.ofInt (sext b w), 0)
  | .int w false => (.ofInt (b % 2 ^ w : Nat), 0)

/-- The encoding of (-1)^neg · m · 2^e for a value the format holds, m below or at 2^p. -/
def FpFmt.write (k : FpFmt) (neg : Bool) (m : Nat) (e : Int) : Nat :=
  let sg := neg.toNat * 2 ^ (k.width - 1)
  let (m, e) := if m = 2 ^ k.p then (2 ^ k.f, e + 1) else (m, e)
  if m < 2 ^ k.f then sg + m
  else sg + (e + k.f + k.bias).toNat * 2 ^ k.f + (m - 2 ^ k.f)

/-! Rounding (R66 to R68). -/

/-- The five modes, as RM codes them. -/
inductive RMode where
  | rne | rtz | rup | rdn | dth
  deriving DecidableEq, Repr, Inhabited

/-- What rounds a result: mode, the dither entry, flushing of results, saturation. -/
structure Rounding where
  mode : RMode := .rne
  d : Nat := 0
  fout : Bool := false
  sat : Bool := false
  deriving DecidableEq, Repr

/-- The value of an overflow or an infinite result, and SATD (R68). -/
def FpFmt.overflow (k : FpFmt) (neg : Bool) (r : Rounding) : Flagged Nat :=
  let maxf := k.write neg k.maxM (k.emax - k.f)
  let inf := neg.toNat * 2 ^ (k.width - 1) + (2 ^ k.ebits - 1) * 2 ^ k.f
  if k.e4m3 || r.sat then (maxf, flSATD)
  else
    match r.mode with
    | .rne => (inf, 0)
    | .dth => (inf, 0)
    | .rtz => (maxf, 0)
    | .rup => (if neg then maxf else inf, 0)
    | .rdn => (if neg then inf else maxf, 0)

/-- Whether the discarded part rem + δ, of 2^sh, is below, at or above a half. -/
def halfCmp (rem sh : Nat) (more : Bool) : Ordering :=
  if 2 * rem < 2 ^ sh then .lt else if 2 * rem = 2 ^ sh ∧ !more then .eq else .gt

/-- round_core of R67. -/
def FpFmt.round (k : FpFmt) (r : Rounding) : Val → Flagged Nat
  | .nan => (k.nan, 0)
  | .inf n => k.overflow n r
  | .num neg m e more =>
    let z0 := neg.toNat * 2 ^ (k.width - 1)
    if m = 0 ∧ !more then (z0, 0)
    else
      let lg : Int := (Nat.log2 m : Int) + e
      let ee := max lg k.emin
      let qe := ee - k.f
      let sh := (qe - e).toNat
      let t := if e ≤ qe then m / 2 ^ sh else m * 2 ^ (e - qe).toNat
      let rem := if e ≤ qe then m % 2 ^ sh else 0
      let inexact := rem != 0 || more
      let up :=
        match r.mode with
        | .rne =>
          match halfCmp rem sh more with
          | .lt => false
          | .eq => t % 2 == 1
          | .gt => true
        | .rtz => false
        | .rup => inexact && !neg
        | .rdn => inexact && neg
        | .dth =>
          let d8 := rem * 256 / 2 ^ sh
          let sticky := rem * 256 % 2 ^ sh != 0 || more
          decide (r.d < d8) || (d8 == r.d && sticky)
      let t := t + up.toNat
      let fl := if inexact then flNX ||| flagIf (decide (lg < k.emin)) flUF else 0
      if k.maxM * 2 ^ (max 0 (k.emax - k.f - qe)).toNat < t * 2 ^ (max 0 (qe - (k.emax - k.f))).toNat then
        let (v, f) := k.overflow neg r
        (v, fl ||| flOF ||| flNX ||| f)
      else if t = 0 then (z0, fl)
      else if r.fout && k.flushable && decide (t < 2 ^ k.f) then (z0, fl ||| flFO ||| flUF ||| flNX)
      else (k.write neg t qe, fl)

/-- The dither matrix M (R70) and the entry of a block position under a phase (R67). -/
def ditherM (i j : Nat) : Nat :=
  let b (n : Nat) : Nat := 2 * (tbit i n != tbit j n).toNat + (tbit i n).toNat
  64 * b 0 + 16 * b 1 + 4 * b 2 + b 3

def ditherD (i j phase : Nat) : Nat := ditherM ((i + phase / 16) % 16) ((j + phase) % 16)

/-- Rounds to the nearest integer, ties to even: the integer and whether a part was discarded. -/
def Val.toInt : Val → Int × Bool
  | .num neg m e more =>
    let sh := (-e).toNat
    let t := if 0 ≤ e then m * 2 ^ e.toNat else m / 2 ^ sh
    let rem := if 0 ≤ e then 0 else m % 2 ^ sh
    let up :=
      match halfCmp rem sh more with
      | .lt => false
      | .eq => t % 2 == 1 && sh != 0
      | .gt => sh != 0
    let n : Int := ((t + up.toNat : Nat) : Int)
    (if neg then -n else n, rem != 0 || more)
  | _ => (0, false)

/-- A conversion into an integer format or a Q code (R69). -/
def toIntFmt (width : Nat) (signed : Bool) (v : Val) : Flagged Int :=
  let lo : Int := if signed then -((2 ^ (width - 1) : Nat) : Int) else 0
  let hi : Int := if signed then ((2 ^ (width - 1) - 1 : Nat) : Int) else ((2 ^ width - 1 : Nat) : Int)
  match v with
  | .nan => (0, flNV)
  | .inf n => (if n then lo else hi, flSATD ||| flNV)
  | v =>
    let (n, inexact) := v.toInt
    if n < lo then (lo, flSATD ||| flNV) else if hi < n then (hi, flSATD ||| flNV)
    else (n, flagIf inexact flNX)

/-- A value into a format, as a 32-bit element holds it (R69, R110, R122). -/
def writeAs (f : Fmt) (r : Rounding) (v : Val) : Flagged Word32 :=
  match f.kind with
  | .fp k => let (b, fl) := k.round r v; (BitVec.ofNat 32 b, fl)
  | .int w s => let (n, fl) := toIntFmt w s v; (BitVec.ofInt 32 n, fl)

/-! Exact arithmetic. -/

/-- The exact sum of finite numbers over their least exponent. -/
def sumFinite (vs : List Val) : Int × Int :=
  let ms := vs.filterMap fun
    | .num n m e _ => if m = 0 then none else some (n, m, e)
    | _ => none
  let e := ms.foldl (fun a x => min a x.2.2) (match ms with
    | x :: _ => x.2.2
    | [] => 0)
  (ms.foldl (fun acc x => let v : Int := ((x.2.1 * 2 ^ (x.2.2 - e).toNat : Nat) : Int); if x.1 then acc - v else acc + v) 0, e)

/-- An exact sum (R65, R124, R160): both infinities give NaN with NV, beside a NaN too; else a NaN gives NaN, without NV (log 74); zeros
of one sign keep it; an exact zero of operands of opposite sign is -0 under RDN alone. -/
def Val.sum (mode : RMode) (vs : List Val) : Flagged Val :=
  let pos := vs.contains (.inf false)
  let neg := vs.contains (.inf true)
  if pos && neg then (.nan, flNV)
  else if vs.any Val.isNan then (.nan, 0)
  else
    if pos then (.inf false, 0)
    else if neg then (.inf true, 0)
    else
      let (n, e) := sumFinite vs
      if n = 0 then
        let sg (b : Bool) := vs.any fun
          | .num s _ _ _ => s == b
          | _ => false
        (.zero (if sg true && sg false then mode == .rdn else sg true), 0)
      else (.num (decide (n < 0)) n.natAbs e false, 0)

def Val.add (mode : RMode) (x y : Val) : Flagged Val := Val.sum mode [x, y]

/-- An exact product; a zero takes the product's sign (log 73). -/
def Val.mul : Val → Val → Flagged Val
  | .nan, _ => (.nan, 0)
  | _, .nan => (.nan, 0)
  | .inf a, .inf b => (.inf (a != b), 0)
  | .inf a, .num b m _ _ => if m = 0 then (.nan, flNV) else (.inf (a != b), 0)
  | .num a m _ _, .inf b => if m = 0 then (.nan, flNV) else (.inf (a != b), 0)
  | .num a m e _, .num b n g _ => (.num (a != b) (m * n) (e + g) false, 0)

/-- x · y + z, exact (R116). A NaN addend makes the result NaN from an input and sets no flag (log 74). -/
def Val.fma (mode : RMode) (x y z : Val) : Flagged Val :=
  let (p, f) := Val.mul x y
  if z.isNan then (.nan, 0)
  else
    let (v, g) := Val.add mode p z
    (v, f ||| g)

/-- The integer square root, bit by bit from bit n - 1. -/
def isqrt : Nat → Nat → Nat → Nat
  | 0, r, _ => r
  | n + 1, r, x => isqrt n (if (r + 2 ^ n) * (r + 2 ^ n) ≤ x then r + 2 ^ n else r) x

/-- 1/x (R118). -/
def Val.rcp : Val → Flagged Val
  | .nan => (.nan, 0)
  | .inf n => (.zero n, 0)
  | .num n m e _ =>
    if m = 0 then (.inf n, flDZ)
    else
      let k := Nat.log2 m + 64
      (.num n (2 ^ k / m) (-e - k) (2 ^ k % m != 0), 0)

/-- 1/√x (R118). -/
def Val.rsq : Val → Flagged Val
  | .nan => (.nan, 0)
  | .inf n => if n then (.nan, flNV) else (.zero, 0)
  | .num n m e _ =>
    if m = 0 then (.inf n, flDZ)
    else if n then (.nan, flNV)
    else
      let (m, e) := if e % 2 = 0 then (m, e) else (2 * m, e - 1)
      let k := Nat.log2 m + 100
      let q := 2 ^ (2 * k) / m
      let r := isqrt 160 0 q
      (.num false r (-(e / 2) - k) (2 ^ (2 * k) % m != 0 || r * r != q), 0)

/-! The two transcendental functions, by fixed-point series of 320 bits (log 20). -/

def fxBits : Nat := 320

/-- 2·atanh(a/b) for 0 ≤ a/b ≤ 1/3, in units of 2^-320: 2·Σ z^(2i+1)/(2i+1). -/
def fxAtanh2 (a b : Nat) : Nat :=
  let z := a * 2 ^ fxBits / b
  let z2 := z * z / 2 ^ fxBits
  (2 * ((List.range 110).foldl (fun (acc : Nat × Nat) i => (acc.1 + acc.2 / (2 * i + 1), acc.2 * z2 / 2 ^ fxBits)) (0, z)).1)

/-- ln 2 = 2·atanh(1/3). -/
def fxLn2 : Nat := fxAtanh2 1 3

/-- exp y for 0 ≤ y < 1, in the same units. -/
def fxExp (y : Nat) : Nat :=
  ((List.range 90).foldl (fun (acc : Nat × Nat) i => (acc.1 + acc.2, acc.2 * y / 2 ^ fxBits / (i + 1))) (0, 2 ^ fxBits)).1

/-- 2^x (R118). Beyond ±1000 every result overflows or underflows alike. -/
def Val.exp2 : Val → Flagged Val
  | .nan => (.nan, 0)
  | .inf n => (if n then .zero else .inf false, 0)
  | .num neg m e _ =>
    if m = 0 then (.one, 0)
    else
      let den := 2 ^ (-e).toNat
      let x : Int := if neg then -(m * 2 ^ e.toNat : Nat) else (m * 2 ^ e.toNat : Nat)
      let n := x.fdiv den
      let fr := (x.fmod den).toNat
      if 1000 < n then (.num false 1 1000 (fr != 0), 0)
      else if n < -1000 then (.num false (2 ^ 64) (-1100) true, 0)
      else if fr = 0 then (.num false 1 n false, 0)
      else
        let y : Nat := fr * fxLn2 / (2 ^ (-e).toNat)
        (.num false (fxExp y / 2 ^ 64) (n - 256) true, 0)

/-- log2 x (R118). -/
def Val.log2 : Val → Flagged Val
  | .nan => (.nan, 0)
  | .inf n => if n then (.nan, flNV) else (.inf false, 0)
  | .num neg m e _ =>
    if m = 0 then (.inf true, flDZ)
    else if neg then (.nan, flNV)
    else
      let l := Nat.log2 m
      let k : Int := l + e
      if m = 2 ^ l then (.num (decide (k < 0)) k.natAbs 0 false, 0)
      else
        let frac := fxAtanh2 (m - 2 ^ l) (m + 2 ^ l) * 2 ^ fxBits / fxLn2
        let v : Int := k * (2 ^ fxBits : Nat) + frac
        (.num (decide (v < 0)) (v.natAbs / 2 ^ 64) (-256) true, 0)

/-! Group formats (R61, R62, R123). -/

/-- (q - zp) · s (R61, R62): no rounding is needed in FP32; the sign of a zero is log 73's. -/
def dequant (q zp : Nat) (s : Val) : Flagged Val := Val.mul (.ofInt ((q : Int) - zp)) s

/-- a / s + zp rounded into a code of w bits (R123, R69). DZ: a nonzero finite number was divided by zero (R74). -/
def quant (w zp : Nat) (a s : Val) : Flagged Nat :=
  let hi := 2 ^ w - 1
  match a, s with
  | .nan, _ => (0, flNV)
  | _, .nan => (0, flNV)
  | .inf _, .inf _ => (0, flNV)
  | .inf n, .num t _ _ _ => (if n != t then 0 else hi, flSATD ||| flNV)
  | .num _ _ _ _, .inf _ => (zp, 0)
  | .num n m e _, .num t k g _ =>
    if k = 0 then
      if m = 0 then (0, flNV) else (if n != t then 0 else hi, flSATD ||| flNV ||| flDZ)
    else
      let d : Int := e - g
      let num : Int := if n != t then -((m * 2 ^ d.toNat : Nat) : Int) else ((m * 2 ^ d.toNat : Nat) : Int)
      let den : Nat := k * 2 ^ (-d).toNat
      let y : Int := num + zp * den
      let q := y.fdiv den
      let r := (y.fmod den).toNat
      let up := decide (den < 2 * r) || (2 * r == den && q.fmod 2 == 1)
      let v : Int := if up then q + 1 else q
      if v < 0 then (0, flSATD ||| flNV) else if hi < v then (hi, flSATD ||| flNV) else (v.toNat, flagIf (r != 0) flNX)

/-! FP32 orders. -/

def isNan32 (b : Word32) : Bool := (fp32.read b.toNat).isNan

/-- A NaN as the canonical NaN. -/
def canon32 (b : Word32) : Word32 := if isNan32 b then 0x7FC00000 else b

/-- The place of an FP32 value in the total order of R117: NaN lowest, -0 below +0. -/
def key32 (b : Word32) : Int :=
  if isNan32 b then -(2 ^ 32 : Nat)
  else if b.getLsbD 31 then -((b.toNat % 2 ^ 31 : Nat) : Int) - 1 else b.toNat

def min32 (x y : Word32) : Word32 := canon32 (if key32 x ≤ key32 y then x else y)
def max32 (x y : Word32) : Word32 := canon32 (if key32 y ≤ key32 x then x else y)

/-- An FP32 value in the IEEE 754 order, where the zeros are equal. -/
def ieee32 (b : Word32) : Int := if b.getLsbD 31 then -((b.toNat % 2 ^ 31 : Nat) : Int) else b.toNat

end Sys2Proof.Machine

namespace Sys2Proof
open Machine

/-- FP32 comparison of VCMP (R120): with a NaN only NE and the N codes are true. -/
def Cond.fp (cc : Cond) (x y : Word32) : Bool :=
  let un := isNan32 x || isNan32 y
  let a := ieee32 x
  let b := ieee32 y
  match cc with
  | .eq => !un && a == b
  | .ne => un || a != b
  | .lt => !un && decide (a < b)
  | .ge => !un && decide (b ≤ a)
  | .le => !un && decide (a ≤ b)
  | .gt => !un && decide (b < a)
  | .ltn => un || decide (a < b)
  | .gen => un || decide (b ≤ a)
  | .len => un || decide (a ≤ b)
  | .gtn => un || decide (b < a)

/-- I32 comparison of VCMP (R120). -/
def Cond.int32 (cc : Cond) (x y : Word32) : Bool :=
  match cc with
  | .eq => x == y
  | .ne => x != y
  | .lt => x.slt y
  | .ge => !x.slt y
  | .le => x.sle y
  | .gt => !x.sle y
  | .ltn => x.ult y
  | .gen => !x.ult y
  | .len => x.ule y
  | .gtn => !x.ule y

end Sys2Proof
end

