-- ==== Sys2Proof/Machine/Operands.lean ====
section
/-! DEFINITION. Operand forms of the vector engine and of every word that names planes: lines (R105 to R108), lane masks (R111,
R112), rounding controls (R58, R66), the writing of lanes (R109, R342). -/

namespace Sys2Proof.Machine

/-- The effective value of a cursor (R95, R107). -/
def Thread.cursor (th : Thread) (pass : Nat) (k : KReg) : Nat :=
  let v := (Cells.get th.k k.val).toNat
  if tbit (th.creg crEC).toNat 9 then (v + pass * wbits (th.creg crKINC) (6 * k.val) 6) % 64 else v

/-- The number of a plane element. -/
def zKey (plane row col : Nat) : Nat := 4096 * plane + 64 * row + col
def keyRow (key : Nat) : Nat := key % 4096 / 64
def keyCol (key : Nat) : Nat := key % 64

/-- Row and column of lane i of a line at cursor value k (R106). -/
def lineAt (d : Dir) (k i : Nat) : Nat × Nat :=
  match d with
  | .row => (k, i)
  | .col => (i, k)
  | .diag => (i, (i + k) % 64)
  | .anti => (i, (k + 64 - i) % 64)

/-- The elements that a plane operand selects, lane by lane. -/
def Thread.line (th : Thread) (base pass : Nat) (o : PlaneOp) : List Nat :=
  let k := th.cursor pass o.k
  (List.range 64).map fun i => let rc := lineAt o.dir k i; zKey (physZ base o.z.val) rc.1 rc.2

def Ctx.line (x : Ctx) (s : State) (o : PlaneOp) : List Nat := (s.thread x.t).line x.e.base x.e.pass o

/-- The elements' bits. -/
def Ctx.lanes (x : Ctx) (s : State) (o : PlaneOp) : List Word32 := (x.line s o).map fun key => Cells.get (s.thread x.t).z key

/-- A plane at or beyond the declared ones (R108). -/
def Ctx.noPlane (x : Ctx) (s : State) (o : PlaneOp) : Bool := decide ((s.thread x.t).planes ≤ physZ x.e.base o.z.val)

/-- The lane mask of a word (R36, R111). -/
def Ctx.mask (x : Ctx) (s : State) : Word :=
  let l (i : Nat) := Cells.get (s.thread x.t).l i
  match x.c.mods with
  | none => l 0
  | some m =>
    match m.mask with
    | .l0 => l 0
    | .l1 => l 1
    | .l2 => l 2
    | .l3 => l 3
    | .all => BitVec.allOnes 64

/-- Whether a later word still writes, or stores from, a plane row (R342). -/
def Thread.rowWritable (th : Thread) (key : Nat) : Bool := !th.trapped.getLsbD (keyRow key)

/-- The writes of enabled lanes to a line. -/
def Thread.laneWrites (th : Thread) (keys : List Nat) (mask : Word) (vs : List Word32) : List RegW :=
  ((keys.zip vs).zip (List.range 64)).filterMap fun ((key, v), i) =>
    if mask.getLsbD i && th.rowWritable key then some (.z key v) else none

/-- The mode that a code of RM or RND names. -/
def rmOf (n : Nat) : RMode :=
  match n with
  | 2 => .rtz | 3 => .rup | 4 => .rdn | 5 => .dth | _ => .rne

end Sys2Proof.Machine

namespace Sys2Proof
open Machine

def Rnd.mode? : Rnd → Option RMode
  | .rm => none | .rne => some .rne | .rtz => some .rtz | .rup => some .rup | .rdn => some .rdn | .dth => some .dth

/-- The rounding mode of a word (R58). -/
def Ctl.mode (c : Ctl) (th : Thread) : RMode :=
  match c.mods.bind (·.rnd.mode?) with
  | some m => m
  | none => rmOf (th.creg crRM).toNat

/-- DTH where the form does not admit dither: RNE, with MODWARN where RND itself says DTH (R49, R72). -/
def Ctl.plainMode (c : Ctl) (th : Thread) : RMode × Word :=
  match c.mode th with
  | .dth => (.rne, flagIf (c.mods.any fun m => m.rnd == .dth) flMODWARN)
  | m => (m, 0)

/-- Input and output flushing (R66). -/
def Ctl.fin (c : Ctl) (th : Thread) : Bool :=
  match c.mods.map Mods.flush with
  | some Flush.flush => true
  | some Flush.noFlush => false
  | _ => (th.creg crFZ).getLsbD 0

def Ctl.fout (c : Ctl) (th : Thread) : Bool :=
  match c.mods.map Mods.flush with
  | some Flush.flush => true
  | some Flush.noFlush => false
  | _ => (th.creg crFZ).getLsbD 1

def Fmt.isFp (f : Fmt) : Bool :=
  match f.kind with
  | .fp _ => true
  | .int _ _ => false

/-- FP16, BF16, E4M3 or E5M2. -/
def Fmt.narrow (f : Fmt) : Bool :=
  match f.kind with
  | .fp k => k.width != 32
  | .int _ _ => false

/-- Whether a conversion admits dither (R49, R409). -/
def Fmt.admitsDither (dst src : Fmt) : Bool := dst.narrow && decide (dst.precision < src.precision)

/-- Whether a conversion takes the word's RND: not an exact one, and not a DTH that falls back to RNE (R49, R409). -/
def Ctl.takesRnd (c : Ctl) (dst src : Fmt) : Bool :=
  dst.isFp && decide (dst.precision < src.precision) && (dst.narrow || !(c.mods.any fun m => m.rnd == .dth))

/-- The rounding mode of a conversion (R49, R58, R409): an exact one ignores an RND other than DTH, and a DTH that does not apply is RNE,
whether RND or RM says it (log 30). -/
def Ctl.convMode (c : Ctl) (th : Thread) (dst src : Fmt) : RMode :=
  let rm := rmOf (th.creg crRM).toNat
  let m := match c.mods.bind (·.rnd.mode?) with
    | some .dth => .dth
    | some m => if dst.precision < src.precision then m else rm
    | none => rm
  if m = .dth ∧ !dst.admitsDither src then .rne else m

def Ctl.sat (c : Ctl) : Bool := c.mods.any (·.sat)
def Ctl.type (c : Ctl) : Fmt := (c.mods.map (·.type)).getD .dflt

end Sys2Proof

namespace Sys2Proof.Machine

/-- A V word with plane operands: planes are checked in order, then the body runs (R108, R114). -/
def State.vword (s : State) (c : Ctl) (u : ModUse) (planes : List PlaneOp) (body : Ctx → State → Act) : State :=
  s.issue c u 0 fun x s => if planes.any (x.noPlane s) then .fault (fOver 0) s else body x s

/-- Lane by lane over the enabled lanes: new bits and event flags (R75, R111). -/
def Ctx.eachLane (x : Ctx) (s : State) (lat : Nat) (d : PlaneOp) (f : Nat → Flagged Word32) : State :=
  let keys := x.line s d
  let mask := x.mask s
  let rs : List (Flagged Word32) := (List.range 64).map fun i => if mask.getLsbD i then f i else (0, 0)
  let fl : Word := rs.foldl (fun a r => a ||| r.2) 0
  x.write s lat ((s.thread x.t).laneWrites keys mask (rs.map Prod.fst) ++ if fl = 0 then [] else [.flags fl])

/-- A lane of a list of 64. -/
def lane (vs : List Word32) (i : Nat) : Word32 := vs.getD i 0

/-- One result to all 64 lanes (R111, R124, R127). -/
def Ctx.allLanes (x : Ctx) (s : State) (lat : Nat) (d : PlaneOp) (r : Flagged Word32) : State :=
  x.write s lat ((s.thread x.t).laneWrites (x.line s d) (BitVec.allOnes 64) (List.replicate 64 r.1) ++
    if r.2 = 0 then [] else [.flags r.2])

end Sys2Proof.Machine
end

