-- ==== Sys2Proof/Machine/Vector.lean ====
section
/-! DEFINITION. The vector engine's short forms: FP32 arithmetic, moves and reductions (R116 to R118, R124, R127). -/

namespace Sys2Proof.Machine

open Host

/-- The lanes' FP32 values. -/
def val32 (b : Word32) : Val := fp32.read b.toNat

/-- Rounds an exact FP32 result; an operation's own flags come first (R67). -/
def round32 (r : Rounding) (v : Flagged Val) : Flagged Word32 :=
  let (b, f) := fp32.round r v.1
  (BitVec.ofNat 32 b, v.2 ||| f)

/-- What FP32 words round with, and the warning of a DTH that falls back (R49, R116). -/
def Ctx.rounding (x : Ctx) (s : State) : Rounding × Word :=
  let (m, w) := x.c.plainMode (s.thread x.t)
  ({ mode := m, sat := x.c.sat }, w)

/-- The modifiers of the rounded FP32 forms, and of the exact ones. -/
def useFp : ModUse := { rnd := true, sat := true, mask := true }
def useExact : ModUse := { mask := true }

/-- A rounded FP32 form over lanes a, b and the old d. -/
def State.vfp (s : State) (c : Ctl) (lat : Nat) (d a b : PlaneOp) (f : RMode → Val → Val → Val → Flagged Val) : State :=
  s.vword c useFp [d, a, b] fun x s =>
    let (r, w) := x.rounding s
    let va := x.lanes s a
    let vb := x.lanes s b
    let vd := x.lanes s d
    .done (x.flag (x.eachLane s lat d fun i => round32 r (f r.mode (val32 (lane va i)) (val32 (lane vb i)) (val32 (lane vd i)))) w)

/-- An exact form over lanes a and b. -/
def State.vexact (s : State) (c : Ctl) (lat : Nat) (d a b : PlaneOp) (f : Word32 → Word32 → Word32) : State :=
  s.vword c useExact [d, a, b] fun x s =>
    let va := x.lanes s a
    let vb := x.lanes s b
    .done (x.eachLane s lat d fun i => (f (lane va i) (lane vb i), 0))

def execVadd (c : Ctl) (d a b : PlaneOp) (s : State) : Outcome State Fault Refusal := .next (s.vfp c 2 d a b fun m x y _ => Val.add m x y)
def execVsub (c : Ctl) (d a b : PlaneOp) (s : State) : Outcome State Fault Refusal := .next (s.vfp c 2 d a b fun m x y _ => Val.add m x y.neg)
def execVmul (c : Ctl) (d a b : PlaneOp) (s : State) : Outcome State Fault Refusal := .next (s.vfp c 2 d a b fun _ x y _ => Val.mul x y)
def execVfma (c : Ctl) (d a b : PlaneOp) (s : State) : Outcome State Fault Refusal := .next (s.vfp c 3 d a b fun m x y z => Val.fma m x y z)
def execVfms (c : Ctl) (d a b : PlaneOp) (s : State) : Outcome State Fault Refusal := .next (s.vfp c 3 d a b fun m x y z => Val.fma m x.neg y z)
def execVmin (c : Ctl) (d a b : PlaneOp) (s : State) : Outcome State Fault Refusal := .next (s.vexact c 2 d a b min32)
def execVmax (c : Ctl) (d a b : PlaneOp) (s : State) : Outcome State Fault Refusal := .next (s.vexact c 2 d a b max32)

/-- VABS and VNEG change the sign bit; a NaN becomes the canonical one (R64, R116). -/
def abs32 (b : Word32) : Word32 := if isNan32 b then canon32 b else b &&& 0x7FFFFFFF
def neg32 (b : Word32) : Word32 := if isNan32 b then canon32 b else b ^^^ 0x80000000

def execVabs (c : Ctl) (d a : PlaneOp) (s : State) : Outcome State Fault Refusal := .next (s.vexact c 2 d a a fun x _ => abs32 x)
def execVneg (c : Ctl) (d a : PlaneOp) (s : State) : Outcome State Fault Refusal := .next (s.vexact c 2 d a a fun x _ => neg32 x)
def execVmov (c : Ctl) (d a : PlaneOp) (s : State) : Outcome State Fault Refusal := .next (s.vexact c 1 d a a fun x _ => x)

/-- The enabled lanes of a line. -/
def enabled (mask : Word) (vs : List Word32) : List Word32 :=
  (vs.zip (List.range 64)).filterMap fun (v, i) => if mask.getLsbD i then some v else none

/-- A sum over the enabled lanes, rounded once (R124). -/
def State.vreduce (s : State) (c : Ctl) (lat : Nat) (d a : PlaneOp) (f : Val → Val) : State :=
  s.vword c useFp [d, a] fun x s =>
    let (r, w) := x.rounding s
    let v := Val.sum r.mode ((enabled (x.mask s) (x.lanes s a)).map fun b => f (val32 b))
    .done (x.flag (x.allLanes s lat d (round32 r v)) w)

def execVrsum (c : Ctl) (d a : PlaneOp) (s : State) : Outcome State Fault Refusal := .next (s.vreduce c 4 d a id)
def execVrssq (c : Ctl) (d a : PlaneOp) (s : State) : Outcome State Fault Refusal := .next (s.vreduce c 4 d a fun v => (Val.mul v v).1)

/-- The highest or lowest enabled lane under R117; without one, the value given (R124). -/
def State.vpick (s : State) (c : Ctl) (lat : Nat) (d a : PlaneOp) (f : Word32 → Word32 → Word32) (none_ : Word32) : State :=
  s.vword c useExact [d, a] fun x s =>
    let r := match enabled (x.mask s) (x.lanes s a) with
      | [] => none_
      | v :: vs => vs.foldl f (canon32 v)
    .done (x.allLanes s lat d (r, 0))

def execVrmax (c : Ctl) (d a : PlaneOp) (s : State) : Outcome State Fault Refusal := .next (s.vpick c 3 d a max32 0x7FC00000)
def execVrmin (c : Ctl) (d a : PlaneOp) (s : State) : Outcome State Fault Refusal := .next (s.vpick c 3 d a min32 0x7F800000)

/-- A function form (R118): its exact value, a special result included, is rounded once (R67, R68). -/
def State.vfunc (s : State) (c : Ctl) (d a : PlaneOp) (f : Val → Flagged Val) : State :=
  s.vword c useFp [d, a] fun x s =>
    let (r, w) := x.rounding s
    let va := x.lanes s a
    .done (x.flag (x.eachLane s 5 d fun i => round32 r (f (val32 (lane va i)))) w)

def execVexp2 (c : Ctl) (d a : PlaneOp) (s : State) : Outcome State Fault Refusal := .next (s.vfunc c d a Val.exp2)
def execVlog2 (c : Ctl) (d a : PlaneOp) (s : State) : Outcome State Fault Refusal := .next (s.vfunc c d a Val.log2)
def execVrcp (c : Ctl) (d a : PlaneOp) (s : State) : Outcome State Fault Refusal := .next (s.vfunc c d a Val.rcp)
def execVrsq (c : Ctl) (d a : PlaneOp) (s : State) : Outcome State Fault Refusal := .next (s.vfunc c d a Val.rsq)

/-! Integer lanes (R119). -/

/-- An integer form over lanes a, b and the old d. -/
def State.vint (s : State) (c : Ctl) (lat : Nat) (d a b : PlaneOp) (f : Word32 → Word32 → Word32 → Word32) : State :=
  s.vword c useExact [d, a, b] fun x s =>
    let va := x.lanes s a
    let vb := x.lanes s b
    let vd := x.lanes s d
    .done (x.eachLane s lat d fun i => (f (lane va i) (lane vb i) (lane vd i), 0))

def execViadd (c : Ctl) (d a b : PlaneOp) (s : State) : Outcome State Fault Refusal := .next (s.vint c 1 d a b fun x y _ => x + y)
def execVisub (c : Ctl) (d a b : PlaneOp) (s : State) : Outcome State Fault Refusal := .next (s.vint c 1 d a b fun x y _ => x - y)
def execVimul (c : Ctl) (d a b : PlaneOp) (s : State) : Outcome State Fault Refusal := .next (s.vint c 2 d a b fun x y _ => x * y)
def execVimac (c : Ctl) (d a b : PlaneOp) (s : State) : Outcome State Fault Refusal := .next (s.vint c 2 d a b fun x y z => z + x * y)
def execVimin (c : Ctl) (d a b : PlaneOp) (s : State) : Outcome State Fault Refusal := .next (s.vint c 1 d a b fun x y _ => if x.sle y then x else y)
def execVimax (c : Ctl) (d a b : PlaneOp) (s : State) : Outcome State Fault Refusal := .next (s.vint c 1 d a b fun x y _ => if x.sle y then y else x)
def execVshl (c : Ctl) (d a b : PlaneOp) (s : State) : Outcome State Fault Refusal := .next (s.vint c 1 d a b fun x y _ => x <<< (y.toNat % 32))
def execVshr (c : Ctl) (d a b : PlaneOp) (s : State) : Outcome State Fault Refusal := .next (s.vint c 1 d a b fun x y _ => x >>> (y.toNat % 32))
def execVsar (c : Ctl) (d a b : PlaneOp) (s : State) : Outcome State Fault Refusal := .next (s.vint c 1 d a b fun x y _ => x.sshiftRight (y.toNat % 32))
def execVand (c : Ctl) (d a b : PlaneOp) (s : State) : Outcome State Fault Refusal := .next (s.vint c 1 d a b fun x y _ => x &&& y)
def execVor (c : Ctl) (d a b : PlaneOp) (s : State) : Outcome State Fault Refusal := .next (s.vint c 1 d a b fun x y _ => x ||| y)
def execVxor (c : Ctl) (d a b : PlaneOp) (s : State) : Outcome State Fault Refusal := .next (s.vint c 1 d a b fun x y _ => x ^^^ y)

end Sys2Proof.Machine
end

