-- ==== Sys2Proof/Machine/VectorLong.lean ====
section
/-! DEFINITION. The vector engine's long forms: compare and select, conversions, group formats, index and scan reductions,
permutations, core-store lines, cursors, masks, random numbers (R120 to R135). -/

namespace Sys2Proof.Machine

open Host

/-- VCMP (R120): all 64 bits of a mask, 0 for disabled lanes; a TYPE other than FP32 and I32 is ignored. -/
def execVcmp (c : Ctl) (d : LReg) (a b : PlaneOp) (cc : Cond) (s : State) : Outcome State Fault Refusal :=
  let known := c.type == .dflt || c.type == .fp32 || c.type == .i32
  .next (s.vword c { useExact with type := known } [a, b] fun x s =>
    let va := x.lanes s a
    let vb := x.lanes s b
    let mask := x.mask s
    let test (i : Nat) := if c.type = .i32 then cc.int32 (lane va i) (lane vb i) else cc.fp (lane va i) (lane vb i)
    let bitsOn := (List.range 64).map fun i => if mask.getLsbD i && test i then 2 ^ i else 0
    .done (x.write s 2 [.l d.val (BitVec.ofNat 64 bitsOn.sum)]))

/-- VSEL (R121). -/
def execVsel (c : Ctl) (d a b : PlaneOp) (m : LReg) (s : State) : Outcome State Fault Refusal :=
  .next (s.vword c useExact [d, a, b] fun x s =>
    let va := x.lanes s a
    let vb := x.lanes s b
    let sel := Cells.get (x.th s).l m.val
    .done (x.eachLane s 1 d fun i => (if sel.getLsbD i then lane va i else lane vb i, 0)))

end Sys2Proof.Machine

namespace Sys2Proof.Machine

open Host

/-- A DTH tile of the V queue takes the present phase; an M tile accepted in this thread cycle takes the next (R72). -/
def Ctx.takePhase (x : Ctx) (s : State) : Nat × State :=
  let phase := ((x.th s).creg crDPH).toNat
  let s := x.write s 1 [.dph 1]
  (phase, s.modCore x.t.st x.t.co fun k =>
    { k with vat := { k.vat with cmds := k.vat.cmds.map fun m =>
      if m.t = x.t ∧ m.acc / 4 = s.tcyc then { m with dph := (m.dph + 1) % 256 } else m } })

/-- VCVT (R122): a DTH conversion is one tile (R71, R72). -/
def execVcvt (c : Ctl) (d a : PlaneOp) (src : Fmt) (s : State) : Outcome State Fault Refusal :=
  let dst := c.type
  let u : ModUse := { type := true, rnd := c.takesRnd dst src, sat := dst.isFp, mask := true, flush := dst.narrow || src.narrow }
  .next (s.vword c u [d, a] fun x s =>
    let m := if dst.isFp then c.convMode (x.th s) dst src else .rne
    let fin := c.fin (x.th s)
    let fout := c.fout (x.th s)
    let va := x.lanes s a
    let keys := x.line s d
    let (phase, s) := if m = .dth then x.takePhase s else (0, s)
    .done (x.eachLane s 2 d fun i =>
      let (v, f) := readAs src fin (lane va i).toNat
      let key := keys.getD i 0
      let (b, g) := writeAs dst { mode := m, d := ditherD (keyRow key % 16) (keyCol key % 16) phase, fout := fout, sat := c.sat } v
      (b, f ||| g)))

/-- The record of lane i's group in the c operand: scale and zero point (R123). -/
def groupOf (fmt : GroupFmt) (fin : Bool) (vg : List Word32) (i : Nat) : Flagged Val × Nat :=
  let rcd := (lane vg (i / fmt.fmt.group)).toNat
  (fp16.input fin (rcd % 65536), bits rcd 16 (if fmt.fmt.width = 4 then 4 else 8))

/-- VQNT and VDQNT (R123). -/
def State.vgroup (s : State) (c : Ctl) (lat : Nat) (d a g : PlaneOp) (fmt : GroupFmt)
    (f : Nat → Nat → Word32 → Val → Flagged Word32) : State :=
  s.vword c { mask := true, flush := true } [d, a, g] fun x s =>
    let va := x.lanes s a
    let vg := x.lanes s g
    let fin := c.fin (x.th s)
    .done (x.eachLane s lat d fun i =>
      let ((sc, fi), zp) := groupOf fmt fin vg i
      let (b, fl) := f fmt.fmt.width zp (lane va i) sc
      (b, fi ||| fl))

def execVqnt (c : Ctl) (d a g : PlaneOp) (fmt : GroupFmt) (s : State) : Outcome State Fault Refusal :=
  .next (s.vgroup c 3 d a g fmt fun w zp v sc => let (q, f) := quant w zp (val32 v) sc; (BitVec.ofNat 32 q, f))

def execVdqnt (c : Ctl) (d a g : PlaneOp) (fmt : GroupFmt) (s : State) : Outcome State Fault Refusal :=
  .next (s.vgroup c 2 d a g fmt fun w zp v sc => round32 {} (dequant (v.toNat % 2 ^ w) zp sc))

/-- The highest enabled lane that is no NaN: lane and value (R125). -/
def bestLane (mask : Word) (vs : List Word32) : Option (Nat × Word32) :=
  (List.range 64).foldl (fun best i =>
    let v := lane vs i
    if !mask.getLsbD i || isNan32 v then best
    else
      match best with
      | none => some (i, v)
      | some (j, u) => if key32 u < key32 v then some (i, v) else some (j, u)) none

/-- VIMAX.IDX (R125); with one register for both the value stands (log 84). -/
def execVimaxIdx (c : Ctl) (d : SReg) (a : PlaneOp) (val : SReg) (s : State) : Outcome State Fault Refusal :=
  .next (s.vword c useExact [a] fun x s =>
    let (i, v) := (bestLane (x.mask s) (x.lanes s a)).getD (0, 0x7FC00000)
    .done (x.write s 4 (wrS x.e.base d (BitVec.ofNat 64 i) ++ wrS x.e.base val (v.zeroExtend 64))))

/-- VBCST (R127). -/
def execVbcst (c : Ctl) (d : PlaneOp) (a : SReg) (s : State) : Outcome State Fault Refusal :=
  .next (s.vword c {} [d] fun x s => .done (x.allLanes s 1 d ((x.s s a).truncate 32, 0)))

/-- VSCAN over the lanes in order: the accumulator, the results, the flags (R126). -/
def scanLanes (mask : Word) (vs : List Word32) (f : Word32 → Word32 → Flagged Word32) : List (Flagged Word32) :=
  ((List.range 64).foldl (fun (st : Option Word32 × List (Flagged Word32)) i =>
    if !mask.getLsbD i then (st.1, (0, 0) :: st.2)
    else
      let r := match st.1 with
        | none => (canon32 (lane vs i), 0)
        | some acc => f acc (lane vs i)
      (some r.1, r :: st.2)) (none, [])).2.reverse

def execVscan (c : Ctl) (d a : PlaneOp) (op : ScanOp) (s : State) : Outcome State Fault Refusal :=
  .next (s.vword c (if op = .sum then useFp else useExact) [d, a] fun x s =>
    let (r, w) := if op = .sum then x.rounding s else ({}, 0)
    let f (acc v : Word32) : Flagged Word32 :=
      match op with
      | .sum => round32 r (Val.add r.mode (val32 acc) (val32 v))
      | .max => (max32 acc v, 0)
      | .min => (min32 acc v, 0)
    let rs := scanLanes (x.mask s) (x.lanes s a) f
    .done (x.flag (x.eachLane s 6 d fun i => rs.getD i (0, 0)) w))

/-- VPERM: the lane that lane i reads (R128). -/
def permLane (x i : Nat) (b : Word32) : Nat := (if tbit x 6 then b.toNat % 64 else i) ^^^ (x % 64)

def execVperm (c : Ctl) (d a b : PlaneOp) (x : Fin 128) (s : State) : Outcome State Fault Refusal :=
  .next (s.vword c useExact (if tbit x.val 6 then [d, a, b] else [d, a]) fun y s =>
    let va := y.lanes s a
    let vb := if tbit x.val 6 then y.lanes s b else []
    .done (y.eachLane s 2 d fun i => (lane va (permLane x.val i (lane vb i)), 0)))

/-- VSHF (R129). -/
def execVshf (c : Ctl) (d a b : PlaneOp) (k : Fin 128) (s : State) : Outcome State Fault Refusal :=
  .next (s.vword c useExact [d, a, b] fun x s =>
    let cat := x.lanes s a ++ x.lanes s b
    .done (x.eachLane s 2 d fun i => (lane cat ((i + k.val) % 128), 0)))

/-! Core-store lines (R130 to R132). -/

/-- Bytes of an element for alignment: 1 for the 8-bit and 4-bit formats. -/
def elemBytes (f : Fmt) : Nat := max 1 (f.width / 8)

/-- Byte and, for 4-bit formats, nibble of element j of an array (R130, R131). -/
def elemByte (f : Fmt) (a j : Nat) : Nat := if f.width = 4 then a + j / 2 else a + j * elemBytes f

/-- An element as a plane holds it (R110). -/
def State.csElem (s : State) (t : Tid) (f : Fmt) (a j : Nat) : Word32 :=
  let b := s.csReadQ t .v (elemByte f a j) (elemBytes f)
  let v := if f.width = 4 then bits b (4 * (j % 2)) 4 else b
  match f.kind with
  | .int w true => BitVec.ofInt 32 (sext v w)
  | _ => BitVec.ofNat 32 v

/-- The writes of an element's low bits to core store. -/
def Thread.csElemPut (th : Thread) (f : Fmt) (a j : Nat) (v : Word32) : List RegW :=
  if f.width = 4 then [.cn (th.csBase + elemByte f a j) (j % 2 == 1) (v.truncate 4)]
  else th.csPut (elemByte f a j) (leBytes (elemBytes f) v.toNat)

/-- The checks of a vector core-store access, over the element numbers of the enabled lanes (R114). -/
def Thread.vcsCheck (th : Thread) (f : Fmt) (a : Word) (js : List Nat) : Option FRec :=
  if a.toNat % elemBytes f ≠ 0 then some (fAlign a)
  else if js.any fun j => decide (th.csBytes < elemByte f a.toNat j + elemBytes f) then some (fOver 2)
  else none

/-- The enabled lanes' numbers. -/
def onLanes (mask : Word) : List Nat := (List.range 64).filter fun i => mask.getLsbD i

def useMem : ModUse := { type := true, mask := true, order := true }

def execVld (c : Ctl) (d : PlaneOp) (a : SReg) (off : Fin 4096) (s : State) : Outcome State Fault Refusal :=
  .next (s.vword c useMem [d] fun x s =>
    let A := effAddr (x.s s a) 12 off.val c.imms 64
    match (x.th s).vcsCheck c.type A (onLanes (x.mask s)) with
    | some f => .fault f s
    | none => x.ordered s .load .station fun sc o s =>
      .done (x.acquireAfter (x.eachLane (x.touch s ((onLanes (x.mask s)).map (elemByte c.type A.toNat))) 4 d fun i => (s.csElem x.t c.type A.toNat i, 0)) sc o))

/-- VST: elements of trapped rows are not stored (R342). -/
def execVst (c : Ctl) (d : PlaneOp) (a : SReg) (off : Fin 4096) (s : State) : Outcome State Fault Refusal :=
  .next (s.vword c useMem [d] fun x s =>
    let A := effAddr (x.s s a) 12 off.val c.imms 64
    let on := onLanes (x.mask s)
    match (x.th s).vcsCheck c.type A on with
    | some f => .fault f s
    | none => x.ordered s .store .station fun _ _ s =>
      let th := x.th s
      let vs := x.lanes s d
      let keys := x.line s d
      .done (x.write s 2 ((on.filter fun i => th.rowWritable (keys.getD i 0)).flatMap fun i =>
        th.csElemPut c.type A.toNat i (lane vs i))))

def execVgth (c : Ctl) (d : PlaneOp) (a : SReg) (b : PlaneOp) (s : State) : Outcome State Fault Refusal :=
  .next (s.vword c useMem [d, b] fun x s =>
    let A := x.s s a
    let us := x.lanes s b
    match (x.th s).vcsCheck c.type A ((onLanes (x.mask s)).map fun i => (lane us i).toNat) with
    | some f => .fault f s
    | none => x.ordered s .load .station fun sc o s =>
      .done (x.acquireAfter (x.eachLane (x.touch s ((onLanes (x.mask s)).map fun i => elemByte c.type A.toNat (lane us i).toNat)) 8 d fun i =>
        (s.csElem x.t c.type A.toNat (lane us i).toNat, 0)) sc o))

/-! Cursors, masks, random numbers. -/

/-- VKSET and VKADD (R133). -/
def State.vcursor (s : State) (c : Ctl) (k : KReg) (a : SReg) (val : Nat) (add : Bool) : State :=
  s.scalar c 1 0 fun x s =>
    let old := if add then (Cells.get (x.th s).k k.val).toNat else 0
    [.k k.val (BitVec.ofNat 6 (old + (x.s s a).toNat + val))]

def execVkset (c : Ctl) (k : KReg) (a : SReg) (val : Fin 1024) (s : State) : Outcome State Fault Refusal := .next (s.vcursor c k a val.val false)
def execVkadd (c : Ctl) (k : KReg) (a : SReg) (val : Fin 1024) (s : State) : Outcome State Fault Refusal := .next (s.vcursor c k a val.val true)

/-- The mask forms (R134). -/
def State.vmask (s : State) (c : Ctl) (d a b : LReg) (f : Word → Word → Word) : State :=
  s.scalar c 1 0 fun x s => [.l d.val (f (Cells.get (x.th s).l a.val) (Cells.get (x.th s).l b.val))]

def execMskand (c : Ctl) (d a b : LReg) (s : State) : Outcome State Fault Refusal := .next (s.vmask c d a b fun x y => x &&& y)
def execMskor (c : Ctl) (d a b : LReg) (s : State) : Outcome State Fault Refusal := .next (s.vmask c d a b fun x y => x ||| y)
def execMskxor (c : Ctl) (d a b : LReg) (s : State) : Outcome State Fault Refusal := .next (s.vmask c d a b fun x y => x ^^^ y)
def execMsknot (c : Ctl) (d a : LReg) (s : State) : Outcome State Fault Refusal := .next (s.vmask c d a a fun x _ => ~~~ x)
def execMskmov (c : Ctl) (d : LReg) (a : SReg) (s : State) : Outcome State Fault Refusal :=
  .next (s.scalar c 1 0 fun x s => [.l d.val (x.s s a)])
def execMskget (c : Ctl) (a : SReg) (d : LReg) (s : State) : Outcome State Fault Refusal :=
  .next (s.scalar c 1 0 fun x s => wrS x.e.base a (Cells.get (x.th s).l d.val))

/-- One round of the hash of R135, and the hash of a lane. -/
def randRound (z : Word) : Word :=
  let z := z ^^^ (z >>> 31)
  let z := z * 0xA3C59E274F1B86D5
  z ^^^ (z >>> 29)

def randHash (key ctr : Word) (i : Nat) : Word32 :=
  ((randRound (randRound (randRound (key ^^^ (ctr <<< 6) ^^^ BitVec.ofNat 64 i)))) >>> 32).truncate 32

/-- VRAND.UNIT's value (2m + 1) · 2^-24 in FP32. -/
def randUnit (h : Word32) : Word32 := BitVec.ofNat 32 (fp32.round {} (.num false (2 * (h.toNat / 512) + 1) (-24) false)).1

def execVrand (c : Ctl) (d : PlaneOp) (key ctr : SReg) (unit : Bool) (s : State) : Outcome State Fault Refusal :=
  .next (s.vword c useExact [d] fun x s =>
    let k := x.s s key
    let n := x.s s ctr
    .done (x.eachLane s 3 d fun i => let h := randHash k n i; (if unit then randUnit h else h, 0)))

end Sys2Proof.Machine
end

