-- ==== Sys2Proof/Machine/VatData.lean ====
section
/-! DEFINITION. Stream records and pins (R136 to R141), the reads of a command's operands (R137, R138, R142, R149, R264, R265,
R412). -/

namespace Sys2Proof.Machine

open Host

/-! Stream records. -/

/-- A stream record as it acts (R136): format codes 0x0 and 0xF name no format of a stream. -/
structure Stream where
  fmt : Fmt
  space : Nat
  blk : Nat
  base : Nat
  saddr : Nat
  sks : Int
  sns : Int
  e : List Nat
  t : List Int
  p0 : Int := 0
  soff : Int := 0
  deriving DecidableEq, Repr, Inhabited

def listGet {α : Type} [Inhabited α] (l : List α) (i : Nat) : α := l.getD i default

/-- Signed fields of a doubleword. -/
def sfield (w : Word) (lo len : Nat) : Int := sext (wbits w lo len) len

/-- Group sizes by code (R136). -/
def blkOf (n : Nat) : Nat :=
  match n with
  | 1 => 32 | 2 => 64 | 3 => 128 | _ => 0

/-- A stream record from its doublewords. -/
def Stream.of (ws : List Word) : Stream :=
  let w (i : Nat) : Word := ws.getD i 0
  { fmt := ((Fmt.ofCode (wbits (w 1) 0 4)).getD .dflt), space := wbits (w 1) 4 2, blk := blkOf (wbits (w 1) 6 2)
    base := (w 0).toNat, saddr := (w 2).toNat, sks := sfield (w 3) 0 32, sns := sfield (w 3) 32 32
    e := (List.range 4).map fun i => let v := wbits (w 4) (16 * i) 16; if v = 0 then 1 else v
    t := [sfield (w 5) 0 32, sfield (w 5) 32 32, sfield (w 6) 0 32, sfield (w 6) 32 32] }

/-- A record with its reserved bits and PIN zero, and whether a reserved bit was set (R140, R157). -/
def cleanRecord (ws : List Word) : List Word × Bool :=
  let w (i : Nat) : Word := ws.getD i 0
  let keep := if wbits (w 1) 4 2 = 0 then 22 else 57
  let d0 := BitVec.ofNat 64 (wbits (w 0) 0 keep)
  let d1 := BitVec.ofNat 64 (wbits (w 1) 0 8)
  ([d0, d1, w 2, w 3, w 4, w 5, w 6, BitVec.ofNat 64 (wbits (w 7) 48 16 * 2 ^ 48)], d0 != w 0 || d1 != w 1)

def Stream.nk (s : Stream) : Nat := listGet s.e 0 * listGet s.e 2
def Stream.nl (s : Stream) : Nat := listGet s.e 1 * listGet s.e 3

/-- Bytes of a scale record and elements of its group, for a stream that has records (R138; which of I8 and E4M3 have, log 87). -/
def Stream.recs (s : Stream) : Option (Nat × Nat) :=
  if s.fmt.group ≠ 0 then some (3, s.fmt.group)
  else if s.blk ≠ 0 ∧ (s.fmt = .i8 ∨ s.fmt = .e4m3) then some (4, s.blk)
  else none

/-- The element position of logical coordinates (R137). -/
def Stream.pos (s : Stream) (k l : Nat) : Int :=
  let e0 := listGet s.e 0
  let e1 := listGet s.e 1
  s.p0 + (k % e0 : Nat) * listGet s.t 0 + (l % e1 : Nat) * listGet s.t 1 + (k / e0 : Nat) * listGet s.t 2 + (l / e1 : Nat) * listGet s.t 3

/-- The byte address of an element position. -/
def Stream.addr (s : Stream) (p : Int) : Int := if s.fmt.width = 4 then s.base + p.fdiv 2 else s.base + p * elemBytes s.fmt

/-- The address of a scale record (R138). -/
def Stream.recAddr (s : Stream) (g l : Nat) : Int := s.saddr + s.soff + g * s.sks + l * s.sns

/-- The first byte of the footprint and one past its last (R140). Every index runs from 0, so each extreme lies at an end. -/
def Stream.span (s : Stream) : Int × Int :=
  let ends := (List.range 4).map fun i => (((listGet s.e i : Nat) : Int) - 1) * listGet s.t i
  let lo := s.p0 + (ends.map fun x => min 0 x).foldl (· + ·) 0
  let hi := s.p0 + (ends.map fun x => max 0 x).foldl (· + ·) 0
  let a := s.addr lo
  let b := s.addr hi + elemBytes s.fmt
  match s.recs with
  | none => (a, b)
  | some (n, grp) =>
    let x := (((s.nk + grp - 1) / grp : Nat) - 1 : Int) * s.sks
    let y := ((s.nl : Int) - 1) * s.sns
    let r := (s.saddr : Int) + s.soff
    (min a (r + min 0 x + min 0 y), max b (r + max 0 x + max 0 y + n))

/-- The doublewords of a stream register (R136): PIN reads zero. -/
def Thread.stream (th : Thread) (g : Nat) : List Word := (List.range 8).map fun i => Cells.get th.g (8 * g + i)

def Thread.setStream (th : Thread) (g : Nat) (ws : List Word) (p : Option Pin) : Thread :=
  { th with g := Cells.setAll th.g ((List.range 8).map (8 * g + ·) |>.zip ws), pins := Tab.set th.pins g p }

/-! Pins. -/

def fExtent (level : Nat) (va : Word) : FRec := fXlate 0x7 level va
def fSpace (level : Nat) (va : Word) : FRec := fXlate 0x8 level va

/-- The bytes of one frame that a stream may reach (R140). -/
def frameBytes : Nat := 2304000

/-- The pin of a stream that lies in a frame; of several faults the first of log 86's order (R140). -/
def State.pinSegment (s : State) (st : Nat) (lo hi : Int) : Except FRec Pin :=
  let va := ofInt64 lo
  let o := va.toNat - segBase
  let f := o / 2 ^ 22
  if 64 ≤ f then .error (fXlate 0x1 4 va)
  else if (frameBytes : Int) < hi - (segBase + f * 2 ^ 22 : Nat) then .error (fExtent 0 va)
  else if !s.hasFrame st f ∨ (s.frame st f).expiry ≤ s.cyc then .error (fXlate 0x1 0 va)
  else if (s.frame st f).marker ∧ 256 < hi - (segBase + f * 2 ^ 22 : Nat) then .error (fXlate 0x1 0 va)
  else .ok (.seg f (s.frame st f).tag (s.frame st f).arriveSlot)

/-- The leaf that a pin holds, read through the caches or by a walk of its own: a pin takes no TLB entry (R187). -/
def State.pinLeaf (s : State) (t : Tid) (ctx va : Nat) : Except (Nat × Nat) Leaf × State :=
  match s.cached t ctx va with
  | some l => (.ok l, s)
  | none =>
    let w := s.walk t.st ctx va
    let s := s.walkMarks t.st ctx va
    match w with
    | .leaf l _ _ => (.ok l, s.fill t w false)
    | .fault sub level _ => (.error (sub, level), s.fill t w)

/-- The pin that a record gets (R140): a SPACE 0 stream pins nothing; of several faults the first of log 97's order. -/
def State.pin (s : State) (t : Tid) (ws : List Word) : Except FRec (Option Pin) × State :=
  let r := Stream.of ws
  let th := s.thread t
  let (lo, hi) := r.span
  if r.space = 0 then (if lo < 0 ∨ (th.csBytes : Int) < hi then .error (fOver 2) else .ok none, s)
  else if r.space ≠ 1 then (.error { cause := 0x03 }, s)
  else
    let va := ofInt64 lo
    if inSegRegion va.toNat then ((s.pinSegment t.st lo hi).map some, s)
    else
      match preXl va.toNat .read with
      | some (.fault sub level) => (.error (fXlate sub level va), s)
      | _ =>
        match s.pinLeaf t th.ctx va.toNat with
        | (.error (sub, level), s) => (.error (fXlate sub level va), s)
        | (.ok l, s) =>
          let level := if l.span = 2 ^ 21 then 1 else 0
          let pa := l.pa + (va.toNat - l.va)
          if !l.permits .read th.priv then (.error (fXlate 0x2 level va), s.dropLeaf t th.ctx va.toNat)
          else if hi - lo > (l.va + l.span - va.toNat : Nat) then (.error (fExtent level va), s.dropLeaf t th.ctx va.toNat)
          else if s.paKind pa ≠ .own ∨ paStation pa ≠ t.st then (.error (fSpace level va), s.dropLeaf t th.ctx va.toNat)
          else (.ok (some (.page l.va l.span l.pa l.r l.w l.u)), s)

/-- Whether a record's pin waits for a page of tables under migration (R252). -/
def State.pinWaits (s : State) (t : Tid) (ws : List Word) : Bool :=
  (Stream.of ws).space == 1 && s.walkWaits t (s.thread t).ctx (ofInt64 (Stream.of ws).span.1).toNat

/-- The pin that a command uses: one that was dropped is made again, and the segment of a pinned frame must still be there
(R141, R265). -/
def State.usePin (s : State) (t : Tid) (g : Nat) : Except FRec (Option Pin) × State :=
  let th := s.thread t
  let ws := th.stream g
  let lo := (Stream.of ws).span.1
  match Tab.get th.pins g with
  | some (.seg f tag slot) =>
    let r := s.frame t.st f
    (if s.hasFrame t.st f ∧ r.tag = tag ∧ r.arriveSlot = slot ∧ s.cyc < r.expiry then .ok (some (.seg f tag slot)) else .error (fXlate 0x1 0 (ofInt64 lo)), s)
  | some p => (.ok (some p), s)
  | none =>
    if s.pinWaits t ws then (.error fWait, s) else
    let (r, s) := s.pin t ws
    match r with
    | .ok p => (.ok p, s.modThread t fun th => { th with pins := Tab.set th.pins g p })
    | .error f => (.error f, s)

/-- Whether the footprint of a stream moved by a nest stays inside its pin (R162), and inside the header of a marker (R266). -/
def Stream.inside (r : Stream) (th : Thread) (marker : Nat → Bool) (p : Option Pin) : Option FRec :=
  let (lo, hi) := r.span
  match p with
  | none => if lo < 0 ∨ (th.csBytes : Int) < hi then some (fOver 2) else none
  | some (.seg f _ _) =>
    let b : Int := (segBase + f * 2 ^ 22 : Nat)
    if lo < b ∨ b + frameBytes < hi then some (fExtent 0 (ofInt64 lo))
    else if marker f ∧ b + 256 < hi then some (fXlate 0x1 0 (ofInt64 lo))
    else none
  | some (.page va span _ _ _ _) =>
    if lo < va ∨ (va + span : Nat) < hi then some (fExtent (if span = 2 ^ 21 then 1 else 0) (ofInt64 lo)) else none

/-! Operand bytes. -/

/-- Old or new, for the 4-byte unit of an address (R149, log 14). -/
def VatCmd.takesNew (m : VatCmd) (a : Nat) : Bool := Config.freeBit (2 ^ 64 + m.free * 2 ^ 52 + a / 4)

/-- A byte of a command's operand, read in the given cycle. Core store and memory may have changed since acceptance: the old or
the new value is read. A byte of the segment that the frame held at acceptance has its value before the expiry, whatever the
frame holds when the command completes, and reads as zero from the expiry on (R265, R412). -/
def State.vatByte (s : State) (m : VatCmd) (p : Option Pin) (a : Int) (cyc : Nat) : Byte :=
  match p with
  | none =>
    let k := (s.thread m.t).csBase + a.toNat
    if m.takesNew k then Cells.get (s.core m.t.st m.t.co).cs k else Cells.get m.cs0 k
  | some (.page va _ pa _ _ _) =>
    let k := pa + (a.toNat - va)
    if m.takesNew k then s.homeByte k else Cells.get m.mem0 k
  | some (.seg f _ _) =>
    let r := Tab.get m.frames f
    if cyc < r.expiry then Cells.get r.bytes (a.toNat - segBase - f * 2 ^ 22) else 0

/-- The raw bits of an element. -/
def State.vatElem (s : State) (m : VatCmd) (p : Option Pin) (r : Stream) (k l cyc : Nat) : Nat :=
  let pos := r.pos k l
  let a := r.addr pos
  if r.fmt.width = 4 then bits (s.vatByte m p a cyc).toNat (4 * (pos.fmod 2).toNat) 4
  else leNat ((List.range (elemBytes r.fmt)).map fun i : Nat => s.vatByte m p (a + i) cyc)

/-- The bytes of a scale record as a number. -/
def State.vatRec (s : State) (m : VatCmd) (p : Option Pin) (r : Stream) (g l n cyc : Nat) : Nat :=
  leNat ((List.range n).map fun i : Nat => s.vatByte m p (r.recAddr g l + i) cyc)

/-- A weight stream as it is read: BLK gives it no records (R138). -/
def Stream.asWeights (r : Stream) : Stream := { r with blk := 0 }

/-- The highest segment byte that one line reads in one K chunk (R412): elements and records. -/
def Stream.lastByte (r : Stream) (l k0 k1 : Nat) : Int :=
  let ks := (List.range (k1 - k0)).map (k0 + ·)
  let e := ks.foldl (fun acc k => max acc (r.addr (r.pos k l) + elemBytes r.fmt - 1)) 0
  match r.recs with
  | none => e
  | some (n, grp) => ks.foldl (fun acc k => max acc (r.recAddr (k / grp) l + n - 1)) e

/-- A read of the schedule (R412): its cycle after acceptance without stalls and waits, and the cycle from which its bytes can
be read. -/
structure SegRead where
  tau : Nat
  ready : Nat
  deriving DecidableEq, Repr

/-- The reads of one stream of one basic product from a segment that were not readable when the command was accepted. -/
def VatCmd.segReads (m : VatCmd) (p : Option Pin) (r : Stream) (tau0 nr kc lines : Nat) : List SegRead :=
  match p with
  | some (.seg f _ _) =>
    let x := Tab.get m.frames f
    if x.arrive + 8 + 360 ≤ m.acc then []
    else
      (List.range ((r.nk + kc - 1) / kc)).flatMap fun j =>
        (List.range lines).filterMap fun l =>
          let b := (r.lastByte l (j * kc) (min r.nk (j * kc + kc)) - (segBase + f * 2 ^ 22 : Nat)).toNat
          let ready := x.arrive + 8 + b / 6400
          if ready ≤ m.acc + tau0 + nr * j + l then none else some ⟨tau0 + nr * j + l, ready⟩
  | _ => []

/-! Banks (R142). -/

/-- The 64-byte lines of core store that one line of a stream reads in one K chunk, elements and records, each once. -/
def Stream.storeLines (r : Stream) (base l k0 k1 : Nat) : List Nat :=
  let ends (a : Int) (n : Nat) : List Nat := [(base + a.toNat) / 64, (base + a.toNat + n - 1) / 64]
  let all := (List.range (k1 - k0)).flatMap fun i =>
    let k := k0 + i
    ends (r.addr (r.pos k l)) (elemBytes r.fmt) ++ (match r.recs with
      | some (n, grp) => ends (r.recAddr (k / grp) l) n
      | none => [])
  all.foldl (fun acc x => if acc.contains x then acc else acc ++ [x]) []

/-- The streams that a command reads, product by product: the first schedule cycle, the stream's place among the command's
streams, the stream, how many lines it has. -/
structure Stretch where
  tau : Nat
  place : Nat
  r : Stream
  lines : Nat
  deriving DecidableEq, Repr

/-- The 64-byte lines that a stretch reads in a schedule cycle (R412). -/
def Stretch.readsAt (x : Stretch) (base nr kc tau : Nat) : List (Nat × Nat) :=
  if tau < x.tau then []
  else
    (List.range ((x.r.nk + kc - 1) / kc)).flatMap fun j =>
      if nr * j ≤ tau - x.tau ∧ tau - x.tau < nr * j + x.lines then
        (x.r.storeLines base (tau - x.tau - nr * j) (j * kc) (min x.r.nk (j * kc + kc))).map fun line => (x.place, line)
      else []

/-- One cycle of the banks for the lines that a command still has to move: a line is served where no earlier claim holds its bank in
this cycle, or where it has waited as long as it may; the answer is the banks then claimed and the lines that lose (R142). -/
def serveLines (may : Nat) (banks : List Nat) (ls : List (Nat × Nat × Nat)) : List Nat × List (Nat × Nat × Nat) :=
  ls.foldl (fun (st : List Nat × List (Nat × Nat × Nat)) x =>
    let b := csBank (64 * x.2.1)
    if st.1.contains b && decide (x.2.2 < may) then (st.1, st.2 ++ [(x.1, x.2.1, x.2.2 + 1)]) else (b :: st.1, st.2)) (banks, [])

/-- The bank stalls of a command so far, and those met by a schedule cycle (R142). -/
def VatCmd.stall (m : VatCmd) : Nat := m.stalls.foldl (fun n x => n + x.2) 0
def VatCmd.stallBy (m : VatCmd) (tau : Nat) : Nat := (m.stalls.filter fun x => decide (x.1 ≤ tau)).foldl (fun n x => n + x.2) 0

/-- The cycles that waits for segment bytes have added by a schedule cycle (R412). -/
def VatCmd.waitBy (m : VatCmd) (reads : List SegRead) (tau : Nat) : Nat :=
  reads.foldl (fun w r => if r.tau ≤ tau then max w (r.ready - (m.acc + r.tau + m.stallBy r.tau)) else w) 0

/-- The cycle in which a read of the schedule happens. -/
def VatCmd.readAt (m : VatCmd) (reads : List SegRead) (tau : Nat) : Nat := m.acc + tau + m.stallBy tau + m.waitBy reads tau

end Sys2Proof.Machine
end

