-- ==== Sys2Proof/Machine/VatCalc.lean ====
section
/-! DEFINITION. What a Vat command computes (R158 to R166): basic products, nests, chained products, accumulator moves, and the
shadow lane's recompute (R169). -/

namespace Sys2Proof.Machine

open Host

/-! The accumulator store (R144). -/

/-- Elements lo to lo + n - 1 of an accumulator row. -/
def accRow (acc : Cells 32) (row lo n : Nat) : List Word32 :=
  let a := 256 * row + lo
  let sub := acc.filter fun x => decide (a ≤ x.1) && decide (x.1 < a + n)
  (List.range n).map fun i => Cells.get sub (a + i)

/-- Replaces elements from lo on, keeping the canonical form. -/
def Cells.putRange {w : Nat} (m : Cells w) (a : Nat) (vs : List (BitVec w)) : Cells w :=
  m.filter (fun x => decide (x.1 < a))
    ++ ((List.range vs.length).map (a + ·) |>.zip vs).filter (fun x => x.2 != 0)
    ++ m.filter (fun x => decide (a + vs.length ≤ x.1))

def accPut (acc : Cells 32) (row lo : Nat) (vs : List Word32) : Cells 32 := acc.putRange (256 * row + lo) vs

/-- The rows of a thread's window (R145); a handler's are the reserve (R146). -/
def Thread.window (th : Thread) : Nat × Nat := if th.kind = .handler then (1984, 64) else (th.winBase, th.accRows)

/-! Operand pairs (R158, R159). -/

/-- K values of a chunk; none for a pair that is not listed. -/
def vatKc (g h : Fmt) : Option Nat :=
  if h = .i8 ∨ h = .e4m3 then
    match g with
    | .q4g32 => some 256
    | .q4g64 => some 256
    | .q4g128 => some 256
    | .i4 => some 256
    | .q8g32 => some 128
    | .q8g64 => some 128
    | .q8g128 => some 128
    | .i8 => some 128
    | _ => none
  else if g = h ∧ (g = .bf16 ∨ g = .fp16) then some 32
  else none

/-- The unit of R159, or the tile of R160. -/
def vatUnit (g h : Fmt) (blk : Nat) : Nat :=
  if h = .bf16 ∨ h = .fp16 then 128
  else if g.group ≠ 0 then (if blk = 0 then g.group else min g.group blk)
  else if blk = 0 then 128 else blk

/-- Cuts 0 … n - 1 into runs of u. -/
def runsOf (n u : Nat) : List (Nat × Nat) := (List.range ((n + u - 1) / u)).map fun i => (i * u, min n (i * u + u))

/-! One basic product. -/

/-- One unit of a row's activations: integers in units of 2^exp, or 16-bit values; the block scale; whether one is NaN. -/
structure ActUnit where
  ints : List Int := []
  vals : List Val := []
  bs : Val := .one
  nan : Bool := false
  deriving Repr

/-- One unit of a column's weights: codes or 16-bit values, scale and zero point. -/
structure WtUnit where
  codes : List Int := []
  vals : List Val := []
  s : Val := .one
  zp : Nat := 0
  deriving Repr

/-- The common exponent of the integers that activations become (R159). -/
def actExp (h : Fmt) : Int := if h = .e4m3 then -9 else 0

/-- An 8-bit activation as an integer in units of 2^exp. -/
def actInt : Val → Int
  | .num neg m e _ => let v : Int := ((m * 2 ^ (e + 9).toNat : Nat) : Int); if neg then -v else v
  | _ => 0

/-- The unit of a row from its raw elements. -/
def actUnit (h : Fmt) (fin : Bool) (raw : List Nat) (bs : Val) : Flagged ActUnit :=
  if h = .i8 then ({ ints := raw.map fun b => sext b 8, bs := bs }, 0)
  else
    let vs := raw.map (readAs h fin)
    let fl := vs.foldl (fun a v => a ||| v.2) (0 : Word)
    let xs := vs.map Prod.fst
    if h = .e4m3 then ({ ints := xs.map actInt, bs := bs, nan := xs.any Val.isNan }, fl) else ({ vals := xs }, fl)

/-- The exact integer sum of (q - zp) · a over a unit: S1 - zp · S0 of R159. -/
def dotInts (zp : Nat) (qs xs : List Int) : Int := (qs.zip xs).foldl (fun acc p => acc + (p.1 - zp) * p.2) 0

def Val.finite : Val → Bool
  | .num _ _ _ _ => true
  | _ => false

/-- G of R159, exact: through the integer sums, or element by element for a NaN or infinite scale (R62); its zero's sign is log 73's, a
NaN activation sets no flag (log 75). -/
def unitValue (w : WtUnit) (x : ActUnit) (ex : Int) : Flagged Val :=
  if x.nan then (.nan, 0)
  else if w.s.finite && x.bs.finite then
    let d := dotInts w.zp w.codes x.ints
    let (p, _) := Val.mul w.s x.bs
    Val.mul p (.num (decide (d < 0)) d.natAbs ex false)
  else
    let ps := (w.codes.zip x.ints).map fun (q, a) =>
      let (u, f1) := dequant q.toNat w.zp w.s
      let (u, f1) := if q < 0 then Val.mul (.ofInt q) w.s else (u, f1)
      let (u, f2) := Val.mul u x.bs
      let (u, f3) := Val.mul u (.num (decide (a < 0)) a.natAbs ex false)
      (u, f1 ||| f2 ||| f3)
    let (v, f) := Val.sum .rne (ps.map Prod.fst)
    (v, ps.foldl (fun a p => a ||| p.2) f)

/-- One element of a product: the units in order, each with its roundings (R159, R160); NV beside a NaN input as log 74 says. -/
def accumulate (r : Rounding) (wide : Bool) (ex : Int) (start : Word32) (ws : List WtUnit) (xs : List ActUnit) : Flagged Word32 :=
  (ws.zip xs).foldl (fun (acc : Flagged Word32) (w, x) =>
    if wide then
      let ps := (w.vals.zip x.vals).map fun (a, b) => Val.mul a b
      let (v, f) := Val.sum .rne (val32 acc.1 :: ps.map Prod.fst)
      let (b, g) := round32 r (v, ps.foldl (fun a p => a ||| p.2) f)
      (b, acc.2 ||| g)
    else
      let (G, f) := round32 r (unitValue w x ex)
      let (b, g) := round32 r (Val.add .rne (val32 acc.1) (val32 G))
      (b, acc.2 ||| f ||| g)) (start, 0)

/-- The shadow lane's value of one element: one rounding per step, in K order (R169). -/
def shadowElem (start : Word32) (ws xs : List Val) : Word32 :=
  (ws.zip xs).foldl (fun y (w, x) => (round32 {} (Val.add .rne (val32 y) (Val.mul w x).1)).1) start

/-- A unit's dequantised weights, and its activations times the block scale, rounded to FP32 (R169). -/
def WtUnit.shadow (w : WtUnit) : List Val :=
  if w.vals.isEmpty then w.codes.map fun q => (Val.mul (.ofInt (q - w.zp)) w.s).1 else w.vals

def ActUnit.shadow (x : ActUnit) (ex : Int) : List Val :=
  if x.vals.isEmpty then
    x.ints.map fun a => if x.nan then .nan else val32 (round32 {} (Val.mul (.num (decide (a < 0)) a.natAbs ex false) x.bs)).1
  else x.vals

/-- What a command's products leave: the accumulator store, flags, and for a checked command the recomputed store and the
elements touched. -/
structure Calc where
  acc : Cells 32
  fl : Word := 0
  ys : Cells 32 := []
  keys : List Nat := []
  deriving Repr

/-- One basic product: nr rows of activations into window rows from `row` (an absolute row). -/
def product (k : Calc) (r : Rounding) (init check : Bool) (h : Fmt) (row : Nat) (cols : List (List WtUnit)) (rows : List (List ActUnit)) : Calc :=
  let wide := h = .bf16 ∨ h = .fp16
  let ex := actExp h
  let nc := cols.length
  (rows.zip (List.range rows.length)).foldl (fun k (xs, m) =>
    let old := accRow k.acc (row + m) 0 nc
    let out := (cols.zip old).map fun (ws, a) => accumulate r (decide wide) ex (if init then 0 else a) ws xs
    let k := { k with acc := accPut k.acc (row + m) 0 (out.map Prod.fst), fl := out.foldl (fun a o => a ||| o.2) k.fl }
    if check then
      let yold := accRow k.ys (row + m) 0 nc
      let xv := xs.flatMap fun x => x.shadow ex
      let yout := (cols.zip yold).map fun (ws, y) => shadowElem (if init then 0 else y) (ws.flatMap WtUnit.shadow) xv
      { k with ys := accPut k.ys (row + m) 0 yout, keys := k.keys ++ (List.range nc).map fun c => 256 * (row + m) + c }
    else k) k

/-! Operands from streams. -/

/-- The columns of a weight stream (R159, R160) with their flags, read on the schedule. -/
def State.columns (s : State) (m : VatCmd) (p : Option Pin) (g : Stream) (h : Fmt) (u kc nr tau0 : Nat) (reads : List SegRead) :
    List (List WtUnit) × Word :=
  let at_ (k c : Nat) := m.readAt reads (tau0 + nr * (k / kc) + c)
  let cols := (List.range g.nl).map fun c =>
    (runsOf g.nk u).map fun (k0, k1) =>
      let raw := (List.range (k1 - k0)).map fun i => s.vatElem m p g (k0 + i) c (at_ (k0 + i) c)
      if h = .bf16 ∨ h = .fp16 then
        let vs := raw.map (readAs g.fmt m.fin)
        (({ vals := vs.map Prod.fst } : WtUnit), vs.foldl (fun a v => a ||| v.2) (0 : Word))
      else if g.fmt.group = 0 then ({ codes := raw.map fun b => sext b g.fmt.width }, 0)
      else
        let rc := s.vatRec m p g (k0 / g.fmt.group) c 3 (at_ (k0 / g.fmt.group * g.fmt.group) c)
        let (sc, f) := fp16.input m.fin (rc % 65536)
        ({ codes := raw.map Int.ofNat, s := sc, zp := bits rc 16 (if g.fmt.width = 4 then 4 else 8) }, f)
  (cols.map fun c => c.map Prod.fst, cols.foldl (fun a c => c.foldl (fun a x => a ||| x.2) a) 0)

/-- The rows of an activation stream. -/
def State.actRows (s : State) (m : VatCmd) (p : Option Pin) (h : Stream) (u kc tau0 : Nat) (reads : List SegRead) :
    List (List ActUnit) × Word :=
  let nr := h.nl
  let at_ (k l : Nat) := m.readAt reads (tau0 + nr * (k / kc) + l)
  let rows := (List.range nr).map fun l =>
    (runsOf h.nk u).map fun (k0, k1) =>
      let raw := (List.range (k1 - k0)).map fun i => s.vatElem m p h (k0 + i) l (at_ (k0 + i) l)
      let bs := match h.recs with
        | some (n, grp) => if h.blk = 0 then Val.one else fp32.read (s.vatRec m p h (k0 / grp) l n (at_ (k0 / grp * grp) l))
        | none => Val.one
      actUnit h.fmt m.fin raw bs
  (rows.map fun x => x.map Prod.fst, rows.foldl (fun a x => x.foldl (fun a y => a ||| y.2) a) 0)

/-! Nests (R162, R163). -/

/-- A nest level: passes and increments. -/
structure Level where
  cnt : Nat
  ainc : Int
  ginc : Int
  gsinc : Int
  hinc : Int
  hsinc : Int
  deriving DecidableEq, Repr

/-- The 128 bytes of a nest state as a number. -/
def nestNum (n : Cells 64) : Nat := (List.range 16).foldl (fun a i => a + (Cells.get n i).toNat * 2 ^ (64 * i)) 0

def nestLevels (n : Cells 64) : List Level :=
  let v := nestNum n
  (List.range (bits v 0 3)).map fun l =>
    let o := 8 * (8 + 20 * l)
    let c := bits v o 16
    { cnt := if c = 0 then 1 else c, ainc := sext (bits v (o + 16) 16) 16, ginc := sext (bits v (o + 32) 32) 32
      gsinc := sext (bits v (o + 64) 32) 32, hinc := sext (bits v (o + 96) 32) 32, hsinc := sext (bits v (o + 128) 32) 32 }

/-- Passes of the whole nest. -/
def nestPasses (ls : List Level) : Nat := ls.foldl (fun a l => a * l.cnt) 1

/-- The index vector of pass i: level 0 runs fastest. -/
def nestIndex (ls : List Level) (i : Nat) : List (Nat × Level) :=
  (ls.foldl (fun (st : Nat × List (Nat × Level)) l => (st.1 / l.cnt, st.2 ++ [(st.1 % l.cnt, l)])) (i, [])).2

/-- A basic product of a nest: its row relative to the window, and its streams. -/
structure BasicProduct where
  row : Int
  g : Stream
  h : Stream
  deriving DecidableEq, Repr

def Stream.moved (r : Stream) (de ds : Int) : Stream := { r with p0 := r.p0 + de, soff := r.soff + ds }

def nestProducts (ls : List Level) (b : Nat) (g h : Stream) : List BasicProduct :=
  (List.range (nestPasses ls)).map fun i =>
    let ix := nestIndex ls i
    let sum (f : Level → Int) : Int := ix.foldl (fun a (j, l) => a + j * f l) 0
    { row := b + sum Level.ainc, g := g.moved (sum Level.ginc) (sum Level.gsinc), h := h.moved (sum Level.hinc) (sum Level.hsinc) }

/-- The occupancy of one basic product (R147). -/
def basicO (nr nk kc : Nat) : Nat := nr * ((nk + kc - 1) / kc)

/-! The down-converter (R164, R165). -/

/-- One row of a chained product's operand A, in units, from its converted elements. -/
def mmcRow (fmt : Fmt) (r : Rounding) (phase : Nat) (fin : Bool) (u i : Nat) (xs : List Word32) : List ActUnit × Word :=
  let conv := (xs.zip (List.range xs.length)).map fun (x, k) =>
    writeAs fmt { r with d := ditherD (i % 16) (k % 128 % 16) (phase + k / 128) } (val32 x)
  let raw := conv.map fun c => c.1.toNat
  let us := (runsOf raw.length u).map fun (k0, k1) => actUnit fmt fin ((raw.drop k0).take (k1 - k0)) .one
  (us.map Prod.fst, us.foldl (fun a x => a ||| x.2) (conv.foldl (fun a c => a ||| c.2) (0 : Word)))

/-! The deviation log (R169). -/

/-- An FP32 number in units of 2^-149. -/
def units149 : Val → Int
  | .num neg m e _ => let v : Int := ((m * 2 ^ (e + 149).toNat : Nat) : Int); if neg then -v else v
  | _ => 0

/-- A positive ratio as an exact value: enough digits that one rounding to FP32 is right. -/
def ratio (n d : Nat) : Val :=
  if n = 0 ∨ d = 0 then .zero
  else
    let k := Nat.log2 d + 200
    .num false (n * 2 ^ k / d) (-(k : Int)) (n * 2 ^ k % d != 0)

/-- The absolute and relative deviations of pairs of Vat result and recomputed value. -/
def deviation (ps : List (Word32 × Word32)) : Word32 × Word32 :=
  let bad := ps.any fun (v, y) =>
    let a := val32 v
    let b := val32 y
    !(a.finite && b.finite) && !(a == b)
  if bad then (0x7F800000, 0x7F800000)
  else
    let (mx, (rn, rd)) := ps.foldl (fun (st : Nat × (Nat × Nat)) (v, y) =>
      let a := val32 v
      let b := val32 y
      if !a.finite then st
      else
        let d := (units149 a - units149 b).natAbs
        let q := max (units149 b).natAbs (2 ^ 23)
        (max st.1 d, if st.2.1 * q < d * st.2.2 then (d, q) else st.2)) (0, (0, 1))
    ((round32 {} (.num false mx (-149) false, 0)).1, (round32 {} (ratio rn rd, 0)).1)

end Sys2Proof.Machine
end

