-- ==== Sys2Proof/Machine/VatWords.lean ====
section
/-! DEFINITION. The M words: leases, stream and nest words, the commands of the Vat as they stand at the head of the M queue,
MCHK, MWAIT (R146 to R168). A command issues when the Vat accepts it, which is the hardware step VAT_ACCEPT. -/

namespace Sys2Proof.Machine

open Host

def execMlease (c : Ctl) (s : State) : Outcome State Fault Refusal :=
  .next (s.issue c {} 0 fun x s => .done (s.requestLease x.t))

def execMfree (c : Ctl) (s : State) : Outcome State Fault Refusal :=
  .next (s.issue c {} 0 fun x s => .done (if (s.vat x.t.st x.t.co).holder = some x.t then s.endLease x.t.st x.t.co else s))

/-! Stream and nest words (R157, R163). -/

/-- A 64-byte or 128-byte access of core store by an M word. -/
def Thread.mCheck (th : Thread) (a : Word) (n : Nat) : Option FRec :=
  if a.toNat % 64 ≠ 0 then some (fAlign a) else if th.csBytes < a.toNat + n then some (fOver 2) else none

/-- Loads a record into a stream register and pins it; a fault leaves the register unchanged (R140, R157). -/
def Ctx.loadStream (x : Ctx) (s : State) (g : Nat) (ws : List Word) : Act :=
  let (ws, rsv) := cleanRecord ws
  if s.pinWaits x.t ws then .hold s else
  let (r, s) := s.pin x.t ws
  match r with
  | .error f => .fault f s
  | .ok p => .done ((x.flag s (flagIf rsv flRSVWARN)).modThread x.t fun th => th.setStream g ws p)

def execMstrl (c : Ctl) (g : GReg) (a : SReg) (s : State) : Outcome State Fault Refusal :=
  .next (s.issue c {} 1 fun x s =>
    let A := x.s s a
    match (x.th s).mCheck A 64 with
    | some f => .fault f s
    | none => x.loadStream s g.val ((List.range 8).map fun i => BitVec.ofNat 64 (s.csReadQ x.t .m (A.toNat + 8 * i) 8)))

def execMstrs (c : Ctl) (g : GReg) (a : SReg) (s : State) : Outcome State Fault Refusal :=
  .next (s.issue c {} 1 fun x s =>
    let A := x.s s a
    let th := x.th s
    match th.mCheck A 64 with
    | some f => .fault f s
    | none =>
      let bs := (th.stream g.val).flatMap fun w => leBytes 8 w.toNat
      .done ((x.write s 2 (th.csPut A.toNat bs)).modThread x.t fun th =>
        { th with soft := th.soft ++ [⟨x.e.seq, th.csBase + A.toNat, (s.core x.t.st x.t.co).cs.bytes (th.csBase + A.toNat) 64, [.m]⟩] }))

/-- The doubleword, first bit and width of a stream field (R136, R157). -/
def streamField (n : Nat) : Nat × Nat × Nat :=
  match n with
  | 0 => (0, 0, 64) | 1 => (1, 0, 64) | 2 => (2, 0, 64) | 3 => (3, 0, 32) | 4 => (3, 32, 32)
  | 5 => (4, 0, 16) | 6 => (4, 16, 16) | 7 => (4, 32, 16) | 8 => (4, 48, 16)
  | 9 => (5, 0, 32) | 10 => (5, 32, 32) | 11 => (6, 0, 32) | 12 => (6, 32, 32) | _ => (7, 48, 16)

def execMstrf (c : Ctl) (g : GReg) (a : SReg) (f : Fin 32) (s : State) : Outcome State Fault Refusal :=
  .next (s.issue c {} 1 fun x s =>
    if 13 < f.val then .fault fFormat s
    else
      let (d, lo, n) := streamField f.val
      let th := x.th s
      let ws := th.stream g.val
      let ws := ws.set d (wset (ws.getD d 0) lo n (x.s s a).toNat)
      if f.val = 13 then .done (s.modThread x.t fun th => th.setStream g.val ws (Tab.get th.pins g.val))
      else x.loadStream s g.val ws)

def execMnest (c : Ctl) (a : SReg) (s : State) : Outcome State Fault Refusal :=
  .next (s.issue c {} 0 fun x s =>
    let A := x.s s a
    match (x.th s).mCheck A 128 with
    | some f => .fault f s
    | none =>
      let ws := (List.range 16).map fun i => (i, (BitVec.ofNat 64 (s.csReadQ x.t .m (A.toNat + 8 * i) 8) : Word))
      let levels := wbits ((ws.head?.map Prod.snd).getD 0) 0 3
      if levels = 0 ∨ levels = 7 then .fault fNest s
      else .done (s.modThread x.t fun th => { th with nest := Cells.setAll [] ws }))

def execMchk (c : Ctl) (k : Fin 32) (s : State) : Outcome State Fault Refusal :=
  .next (s.issue c {} 0 fun x s =>
    if k.val ≠ 0 ∧ (k.val < 4 ∨ 16 < k.val) then .fault fFormat s
    else .done (s.modThread x.t fun th => { th with mchk := k.val }))

/-- MWAIT, a waiting word (R167): its token covers the M words before it. -/
def execMwait (c : Ctl) (post : Bool) (t : Token) (s : State) : Outcome State Fault Refusal :=
  .next (s.issue c {} 0 fun x s =>
    if post && decide ((x.th s).tokenCount ≤ t.val) then .fault (fOver 4) s
    else if ((s.vat x.t.st x.t.co).cmds.any fun m => m.t == x.t) || ((x.th s).pend.any fun p => p.q == .m) then .hold s
    else if post then x.post s t.val (some (.m, x.e.seq)) else .done s)

/-! The commands (R150). -/

/-- A command at the head of the M queue: a handler first owns the reserve, then the thread holds the lease, then the Vat is
asked to accept (R146, R150). The word stays at the head until the Vat takes it. -/
def Ctx.vatWord (x : Ctx) (s : State) : Act :=
  let k := s.core x.t.st x.t.co
  if (x.th s).kind = .handler ∧ k.resOwner ≠ some x.t then
    .hold (if k.resOwner.isNone then s.nowEv (.handlerReserveClaim x.t) else s)
  else if k.vat.holder = some x.t then .hold ((x.keep s { x.e with stage := 1 }).nowEv (.vatAccept x.t.st x.t.co))
  else .hold (s.requestLease x.t)

def execMmm (c : Ctl) (_ _ : GReg) (_ : SReg) (_ _ : Bool) (s : State) : Outcome State Fault Refusal := .next (s.issue c {} 0 Ctx.vatWord)
def execMmc (c : Ctl) (_ : GReg) (_ : SReg) (_ : Bool) (s : State) : Outcome State Fault Refusal := .next (s.issue c {} 0 Ctx.vatWord)
def execAclr (c : Ctl) (_ : SReg) (s : State) : Outcome State Fault Refusal := .next (s.issue c {} 0 Ctx.vatWord)
def execArd (c : Ctl) (_ : ZReg) (_ : Fin 4) (_ : SReg) (s : State) : Outcome State Fault Refusal := .next (s.issue c {} 0 Ctx.vatWord)
def execAwr (c : Ctl) (_ : ZReg) (_ : Fin 4) (_ : SReg) (s : State) : Outcome State Fault Refusal := .next (s.issue c {} 0 Ctx.vatWord)
def execAcpyToCoreStore (c : Ctl) (_ _ : SReg) (s : State) : Outcome State Fault Refusal := .next (s.issue c {} 0 Ctx.vatWord)
def execAcpyToAccumulator (c : Ctl) (_ _ : SReg) (s : State) : Outcome State Fault Refusal := .next (s.issue c {} 0 Ctx.vatWord)

/-! Acceptance (R147, R151, R158, R162, R164, R166). -/

/-- What a command needs and names once its checks have passed: occupancy, modifiers it takes, scalar values, stream numbers,
accumulator rows it writes, DTH phases it takes, a warning of its own, core-store bytes it writes. -/
structure VatPlan where
  occ : Nat
  use : ModUse := {}
  ops : List Nat := []
  gs : List Nat := []
  rows : List (Nat × Nat) := []
  phases : Nat := 0
  warn : Word := 0
  soft : Option (Nat × Nat) := none
  deriving Repr

abbrev Planned := Except FRec VatPlan × State

/-- Rows of the window, as absolute rows (R145). -/
def Thread.vatRows (th : Thread) (b : Int) (n : Nat) : Except FRec (Nat × Nat) :=
  let (base, size) := th.window
  if b < 0 ∨ (size : Int) < b + n then .error (fOver 1) else .ok (base + b.toNat, n)

def pinsOf (s : State) (t : Tid) : List Nat → Except FRec (List (Option Pin)) × State
  | [] => (.ok [], s)
  | g :: rest =>
    let (r, s) := s.usePin t g
    match r with
    | .error f => (.error f, s)
    | .ok p =>
      let (rs, s) := pinsOf s t rest
      (rs.map (p :: ·), s)

/-- Every basic product of a nest, in order: extents, then rows (R162). -/
def nestChecks (th : Thread) (marker : Nat → Bool) (pg ph : Option Pin) (nr : Nat) : List BasicProduct → Except FRec (List (Nat × Nat))
  | [] => .ok []
  | p :: rest =>
    match p.g.inside th marker pg with
    | some f => .error f
    | none =>
      match p.h.inside th marker ph with
      | some f => .error f
      | none =>
        match th.vatRows p.row nr with
        | .error f => .error f
        | .ok r => (nestChecks th marker pg ph nr rest).map (r :: ·)

def fLease : FRec := { cause := 0x07 }

/-- Whether a pair reads FP16, BF16 or E4M3 values (the FLUSH row of R49). -/
def pairNarrow (g h : Fmt) : Bool := g.group != 0 || h.narrow || g.narrow

/-- MMM (R158 to R163); of several failing checks of a nest the lease violation comes first (log 85). -/
def planMmm (s : State) (t : Tid) (c : Ctl) (g h : GReg) (v : Word) (nest : Bool) : Planned :=
  let th := s.thread t
  let G := Stream.of (th.stream g.val)
  let H := Stream.of (th.stream h.val)
  let ls := if nest then nestLevels th.nest else []
  if nest && ls.isEmpty then (.error fNest, s)
  else
    match vatKc G.fmt H.fmt with
    | none => (.error fFormat, s)
    | some kc =>
      if G.nk ≠ H.nk ∨ 256 < G.nl ∨ (kc = 32 ∧ (G.blk ≠ 0 ∨ H.blk ≠ 0)) then (.error fFormat, s)
      else
        let b := wbits v 0 11
        let (ps, s) := pinsOf s t [g.val, h.val]
        match ps with
        | .error f => (.error f, s)
        | .ok ps =>
          let occ := basicO H.nl G.nk kc * nestPasses ls
          if 8192 < occ then (.error fLease, s)
          else
            let rows := if nest then nestChecks th (fun f => (s.frame t.st f).marker) (ps.headD none) (ps.getD 1 none) H.nl (nestProducts ls b G H)
              else (th.vatRows b H.nl).map fun r => [r]
            let warn := flagIf (c.mods.any (fun m => m.flush != .fz) && !pairNarrow G.fmt H.fmt) flMODWARN
            (rows.map fun rows => { occ := occ, use := { sat := true, flush := true }, ops := [b], gs := [g.val, h.val], rows := rows, warn := warn }, s)

/-- The converted format of MMC (R164). -/
def mmcFmt (f : Fmt) : Option Fmt :=
  match f with
  | .dflt => some .bf16
  | .bf16 => some .bf16
  | .e4m3 => some .e4m3
  | _ => none

def planMmc (s : State) (t : Tid) (c : Ctl) (g : GReg) (v : Word) : Planned :=
  let th := s.thread t
  let G := Stream.of (th.stream g.val)
  let nr := wbits v 32 7
  match (mmcFmt c.type).bind fun f => (vatKc G.fmt f).map fun k => (f, k) with
  | none => (.error fFormat, s)
  | some (_, kc) =>
    if nr = 0 ∨ 64 < nr ∨ 256 < G.nk ∨ 256 < G.nl ∨ (kc = 32 ∧ G.blk ≠ 0) then (.error fFormat, s)
    else
      match th.vatRows (wbits v 0 11) nr, th.vatRows (wbits v 16 11) nr with
      | .error f, _ => (.error f, s)
      | _, .error f => (.error f, s)
      | .ok r, .ok _ =>
        let (ps, s) := pinsOf s t [g.val]
        match ps with
        | .error f => (.error f, s)
        | .ok _ =>
          let phases := if c.mode th = .dth then (G.nk + 127) / 128 else 0
          (.ok { occ := basicO nr G.nk kc, use := { type := true, rnd := true, sat := true, flush := true }
                 ops := [wbits v 0 11, wbits v 16 11, nr], gs := [g.val], rows := [r], phases := phases }, s)

def planAclr (s : State) (t : Tid) (v : Word) : Planned :=
  let n := wbits v 16 11
  if n = 0 then (.error fFormat, s)
  else (((s.thread t).vatRows (wbits v 0 11) n).map fun r => { occ := (n + 7) / 8, ops := [wbits v 0 11, n], rows := [r] }, s)

/-- Formats of ARD (R166). -/
def ardFmt (f : Fmt) : Bool := f.isFp || f == .i32 || f == .i8

/-- A TYPE that copies bits. -/
def plainFmt (f : Fmt) : Bool := f == .dflt || f == .fp32

def planArd (s : State) (t : Tid) (c : Ctl) (base : Nat) (p : ZReg) (q : Fin 4) (v : Word) : Planned :=
  let th := s.thread t
  if th.planes ≤ physZ base p.val then (.error (fOver 0), s)
  else if !ardFmt c.type then (.error fFormat, s)
  else
    let rounds := c.type.narrow
    let phases := if rounds && c.mode th == .dth then 1 else 0
    ((th.vatRows (wbits v 0 11) 64).map fun _ =>
      { occ := 16, use := { type := true, rnd := rounds, sat := rounds, flush := rounds }, ops := [wbits v 0 11, q.val], phases := phases }, s)

/-- AWR (R166): a conversion to FP32, of which I32 alone rounds (R409); SAT is ignored, since its FP32 result never overflows (R49, log 76). -/
def planAwr (s : State) (t : Tid) (c : Ctl) (base : Nat) (p : ZReg) (q : Fin 4) (v : Word) : Planned :=
  let th := s.thread t
  if th.planes ≤ physZ base p.val then (.error (fOver 0), s)
  else if c.type.group ≠ 0 then (.error fFormat, s)
  else
    ((th.vatRows (wbits v 0 11) 64).map fun r =>
      { occ := 16, use := { type := true, rnd := c.takesRnd .fp32 c.type, flush := c.type.narrow }, ops := [wbits v 0 11, q.val], rows := [r] }, s)

def planAcpy (s : State) (t : Tid) (A v : Word) (toStore : Bool) : Planned :=
  let th := s.thread t
  let n := wbits v 16 11
  if A.toNat % 4 ≠ 0 then (.error (fAlign A), s)
  else if n = 0 then (.error fFormat, s)
  else
    match th.vatRows (wbits v 0 11) n with
    | .error f => (.error f, s)
    | .ok r =>
      if th.csBytes < A.toNat + 1024 * n then (.error (fOver 2), s)
      else
        (.ok { occ := 4 * n, ops := [r.1, n, A.toNat], rows := if toStore then [] else [r]
               soft := if toStore then some (th.csBase + A.toNat, 1024 * n) else none }, s)

/-- The control part of a command. -/
def vatCtl : Instr → Option Ctl
  | .mmm c _ _ _ _ _ => some c
  | .mmc c _ _ _ => some c
  | .aclr c _ => some c
  | .ard c _ _ _ => some c
  | .awr c _ _ _ => some c
  | .acpyToCoreStore c _ _ => some c
  | .acpyToAccumulator c _ _ => some c
  | _ => none

/-- The checks of a command before acceptance, over the registers as it issues. -/
def State.vatPlan (s : State) (t : Tid) (base : Nat) (i : Instr) : Planned :=
  let r (a : SReg) := (s.thread t).readS base a
  match i with
  | .mmm c g h a _ nest => planMmm s t c g h (r a) nest
  | .mmc c g a _ => planMmc s t c g (r a)
  | .aclr _ a => planAclr s t (r a)
  | .ard c p q a => planArd s t c base p q (r a)
  | .awr c p q a => planAwr s t c base p q (r a)
  | .acpyToCoreStore _ a b => planAcpy s t (r b) (r a) true
  | .acpyToAccumulator _ a b => planAcpy s t (r b) (r a) false
  | _ => (.error fFormat, s)

/-- The rows and the K values of a chunk of a command that reads streams, and its stretches in the order of its schedule (R162,
R412). -/
def VatCmd.schedule (m : VatCmd) : Nat × Nat × List Stretch :=
  let G := Stream.of (m.gs.headD [])
  let H := Stream.of (m.gs.getD 1 [])
  match m.instr with
  | .mmm _ _ _ _ _ nest =>
    let kc := (vatKc G.fmt H.fmt).getD 1
    let ps := if nest then nestProducts (nestLevels m.nest) 0 G H else [{ row := 0, g := G, h := H }]
    let one := basicO H.nl G.nk kc
    (H.nl, kc, (ps.zip (List.range ps.length)).flatMap fun (p, i) => [⟨16 + i * one, 0, p.g.asWeights, G.nl⟩, ⟨16 + i * one, 1, p.h, H.nl⟩])
  | .mmc c _ _ _ => (m.ops.getD 2 1, (((mmcFmt c.type).bind (vatKc G.fmt))).getD 1, [⟨16, 0, G.asWeights, G.nl⟩])
  | _ => (1, 1, [])

/-- The reads of a command from segments that it may have to wait for (R412). -/
def VatCmd.vatReads (m : VatCmd) : List SegRead :=
  let (nr, kc, xs) := m.schedule
  xs.flatMap fun x => m.segReads (m.pins.getD x.place none) x.r x.tau nr kc x.lines

/-- Whether a command copies rows, with the last claim on a bank (R142). -/
def VatCmd.isAcpy (m : VatCmd) : Bool := match m.instr with
  | .acpyToCoreStore _ _ _ => true
  | .acpyToAccumulator _ _ _ => true
  | _ => false

/-- The lines of core store that a command moves in a schedule cycle: those its streams read, in either order (log 18), or for ACPY the
256 bytes of that cycle. -/
def VatCmd.linesAt (m : VatCmd) (base tau : Nat) : List (Nat × Nat × Nat) :=
  if m.isAcpy then
    let a := base + m.ops.getD 2 0 + 256 * (tau - 16)
    if tau < 16 ∨ 16 + m.occ ≤ tau then []
    else (List.range ((a + 255) / 64 - a / 64 + 1)).map fun i => (2, a / 64 + i, 0)
  else
    let (nr, kc, xs) := m.schedule
    let ls := ((xs.filter fun x => x.r.space == 0).flatMap fun x => x.readsAt base nr kc tau).map fun x => (x.1, x.2, 0)
    if Config.freeBit (2 ^ 66 + m.free * 2 ^ 40 + tau) then ls else ls.reverse

/-- Whether a command still has lines of core store to move. -/
def VatCmd.usesBanks (m : VatCmd) : Bool :=
  (m.isAcpy || (m.gs.any fun g => (Stream.of g).space == 0)) && (!m.lines.isEmpty || decide (m.tau < 16 + m.occ + 256))

/-- The cycle of a command's completion, with the stalls so far and the waits for segment bytes (R142, R147, R412). -/
def VatCmd.doneAt (m : VatCmd) : Nat := m.acc + 16 + m.occ + 255 + m.stall + m.waitBy m.vatReads (16 + m.occ + 256)

/-- One cycle of the banks for a command: the lines whose turn has come, served in order; where one loses, everything later moves by
the cycle (R142, R412). The answer is the command, the banks claimed and the places of the streams that waited. -/
def VatCmd.bankCycle (m : VatCmd) (base cyc : Nat) (banks : List Nat) : VatCmd × List Nat × List Nat :=
  if !m.usesBanks then (m, banks, [])
  else
    let m := if m.lines.isEmpty ∧ m.readAt m.vatReads m.tau ≤ cyc then { m with lines := m.linesAt base m.tau, tau := m.tau + 1 } else m
    let may := if 2 * m.occ ≤ m.stall then 0 else if m.isAcpy then 2 * m.occ else 2
    let (banks, lost) := serveLines may banks m.lines
    let m := { m with lines := lost }
    if lost.isEmpty then (m, banks, [])
    else
      let m := { m with stalls := m.stalls ++ [(m.tau - 1, 1)] }
      ({ m with done := m.doneAt }, banks, [0, 1].filter fun p => lost.any fun x => x.1 == p)

/-- The cycle in which a command has left column 0: O cycles after its acceptance, its stalls and waits later (R147, R152, log 91). -/
def VatCmd.leaves (m : VatCmd) : Nat := m.done - 271

/-- The stream register at a place of a command. -/
def VatCmd.streamAt (m : VatCmd) (place : Nat) : Nat := match m.instr with
  | .mmm _ g h _ _ _ => if place = 0 then g.val else h.val
  | .mmc _ g _ _ => g.val
  | _ => 0

/-- BCC counts the cycles that a stream's reads waited (R143, log 18). -/
def Thread.addBcc (th : Thread) (g n : Nat) : Thread :=
  let w := Cells.get th.g (8 * g + 7)
  { th with g := Cells.set th.g (8 * g + 7) (wset w 48 16 (min 0xFFFF (wbits w 48 16 + n))) }

/-- One cycle of a core's banks (R142): the slot ports' claims stand first, then the streams of the accepted commands in their order, then
ACPY; the next command can come, and the lease can pass, later by every stall of the last command accepted. -/
def State.serveBanks (s : State) (st co cyc : Nat) : State :=
  let k := s.core st co
  if k.vat.cmds.all (!·.usesBanks) then (if k.banks.isEmpty then s else s.modCore st co fun k => { k with banks := [] })
  else
    let turn (acpy : Bool) (x : List VatCmd × List Nat × List (Tid × Nat)) : List VatCmd × List Nat × List (Tid × Nat) :=
      x.1.foldl (fun (y : List VatCmd × List Nat × List (Tid × Nat)) m =>
        if m.isAcpy != acpy then (y.1 ++ [m], y.2)
        else
          let (m, banks, ps) := m.bankCycle (s.thread m.t).csBase cyc y.2.1
          (y.1 ++ [m], banks, y.2.2 ++ ps.map fun p => (m.t, m.streamAt p))) ([], x.2)
    let (cmds, _, waited) := turn true (turn false (k.vat.cmds, k.banks, []))
    let s := waited.foldl (fun s w => s.modThread w.1 fun th => th.addBcc w.2 1) s
    s.modCore st co fun k =>
      { k with
        banks := []
        vat := { k.vat with cmds := cmds, nextAcc := match cmds.getLast? with
          | some m => max k.vat.nextAcc m.leaves
          | none => k.vat.nextAcc } }

/-- Whether a check falls due (R168): the command is counted, and a due check takes the shadow lane or is skipped. -/
def State.checkDue (s : State) (t : Tid) (i : Instr) (id : Nat) : Option Nat × State :=
  let counted := match i with
    | .mmm _ _ _ _ _ _ => true
    | .mmc _ _ _ _ => true
    | _ => false
  if !counted then (none, s)
  else
    let th := s.thread t
    let c := th.cmds
    let s := s.modThread t fun th => { th with cmds := c + 1 }
    if th.mchk = 0 ∨ c % 2 ^ th.mchk ≠ 2 ^ th.mchk - 1 then (none, s)
    else if (s.core t.st t.co).shadow.isSome then (none, s.count t.st 0x18)
    else (some c, s.modCore t.st t.co fun k => { k with shadow := some { id := id } })

/-- The Vat takes a command (R72, R147, R148, R151, R172); the next can come once it has left column 0 (log 91). -/
def State.acceptCmd (s : State) (t : Tid) (e : Entry) (i : Instr) (c : Ctl) (p : VatPlan) : State :=
  let th := s.thread t
  let (id, s) := s.fresh
  let free := s.freeCtr
  let s := { s with freeCtr := s.freeCtr + 1 }
  let (chk, s) := s.checkDue t i id
  let phase := (th.creg crDPH).toNat + th.pend.countP fun w => w.q == .v && w.issued == s.tcyc && w.ws.any RegW.isDph
  let m : VatCmd :=
    { id := id, t := t, seq := e.seq, base := e.base, instr := i, ops := p.ops, acc := s.cyc, occ := p.occ
      rm := match (match i with | .awr c _ _ _ => c.convMode th .fp32 c.type | _ => c.mode th) with
        | .rne => 1 | .rtz => 2 | .rup => 3 | .rdn => 4 | .dth => 5
      fin := c.fin th, fout := c.fout th, dph := phase % 256
      gs := p.gs.map th.stream, pins := p.gs.map fun g => Tab.get th.pins g, nest := th.nest, z0 := th.z
      cs0 := (s.core t.st t.co).cs, mem0 := s.mem, trapped := th.trapped, free := free, rows := p.rows, chk := chk
      frames := p.gs.filterMap fun g => match Tab.get th.pins g with
        | some (.seg f _ _) => some (f, s.frame t.st f)
        | _ => none }
  let m := { m with done := m.doneAt }
  let s := s.modThread t fun th =>
    let th : Thread := { th with soft := match p.soft with
      | some (a, n) => th.soft ++ [⟨e.seq, a, (s.core t.st t.co).cs.bytes a n, [.m]⟩]
      | none => th.soft }
    let th := if p.phases = 0 then th else th.write s.tcyc 1 e.seq .m [.dph p.phases]
    (th.orFlags (c.issueFlags p.use ||| p.warn)).leave e .m c s.tcyc 0
  let s := s.modVat t.st t.co fun v =>
    { v with count := v.count + 1, nextAcc := m.leaves, cmds := v.cmds ++ [m] }
  if 16 ≤ (s.vat t.st t.co).count then s.endLease t.st t.co else s

/-- VAT_ACCEPT: the head of the holder's M queue, which has asked in this cycle. -/
def execVatAccept (st co : Nat) (s : State) : Outcome State Fault Refusal :=
  let v := s.vat st co
  match v.holder with
  | none => .next s
  | some t =>
    match (s.thread t).head .m with
    | none => .next s
    | some e =>
      if e.stage ≠ 1 then .next s
      else
        let s := s.modThread t fun th => th.setHead .m { e with stage := 0 }
        if s.cyc < v.nextAcc ∨ s.cyc < (s.thread t).vatAt then .next s
        else
          match decodeInstr e.word e.exts with
          | .error _ => .next s
          | .ok i =>
            match vatCtl i with
            | none => .next s
            | some c =>
              let (r, s) := s.vatPlan t e.base i
              match r with
              | .error f => .next (if f.waits then s else s.raise t { f with pc := e.pc, q := .m })
              | .ok p =>
                if 8192 < p.occ then .next (s.raise t { fLease with pc := e.pc, q := .m })
                else if v.granted + 8192 < s.cyc + p.occ then .next ((s.endLease st co).requestLease t)
                else .next (s.acceptCmd t { e with stage := 0 } i c p)

end Sys2Proof.Machine
end

