-- ==== Sys2Proof/Machine/Frozen.lean ====
section
/-! DEFINITION. The frozen-state words, SQTRAP and HALTX (R356 to R363, R366). -/

namespace Sys2Proof.Machine

open Host

/-- Rights of a handle, by bit above bit 58 (R326). -/
def rInspect : Nat := 0
def rPatch : Nat := 1
def rResume : Nat := 2
def rKill : Nat := 3

/-- The check of R327, as the word issues: the entry's index and the entry. -/
def State.capCheck (s : State) (t : Tid) (h : Word) (kinds : List Nat) (right : Nat) : Option (Nat × CapE) :=
  let i := wbits h 0 12
  let e := Tab.get (s.station t.st).caps i
  let th := s.thread t
  if wbits h 52 6 = t.st ∧ wbits h 12 20 = 0 ∧ e.valid ∧ wbits h 32 20 = e.gen ∧ wbits h 62 2 = e.kind ∧ kinds.contains e.kind
      ∧ th.ctx = e.hctx ∧ th.priv ≠ .user ∧ h.getLsbD (58 + right) ∧ tbit e.rights right then some (i, e)
  else none

/-- A frozen-state word (R48, R356): privilege, then the capability, then its body. -/
def State.frozenWord (s : State) (c : Ctl) (u : ModUse) (a : SReg) (kinds : List Nat) (right : Nat) (body : Ctx → State → Nat → CapE → Act) : State :=
  s.issue c u 0 fun x s =>
    if (x.th s).priv == .user then .fault fPriv s
    else
      match s.capCheck x.t (x.s s a) kinds right with
      | none => .fault fCap s
      | some (i, e) => body x s i e

/-- The word holds the S queue until its operation completes (R296, R356). -/
def Ctx.frzHold (x : Ctx) (s : State) (o : MemOp) : Act :=
  let (id, s) := x.start s .walk o
  .done (x.block s id)

/-- A word that has only its completion left (R356): the register write behaves as a load's. -/
def Ctx.frzDone (x : Ctx) (s : State) (res : Word := 0) (dst : Nat := 64) : Act :=
  x.frzHold s { id := 0, kind := .frz, e := x.e, stage := .done, res := res, dst := dst }

/-- ASTAT of an entry (R357). -/
def State.setAstat (s : State) (st i v : Nat) : State :=
  s.modStation st fun y => { y with caps := Tab.set y.caps i { Tab.get y.caps i with astat := v } }

/-- FRZINFO's result (R357). -/
def State.frzInfo (s : State) (e : CapE) : Word :=
  let th := s.thread e.target
  let f := if e.kind = 1 then th.fault.getD { cause := 0 } else e.info
  let depth := QName.all.foldl (fun a q => a + (th.queue q).es.length % 64 * 2 ^ (6 * QName.num q)) 0
  let low := if e.kind = 1 then th.more.toNat * 2 ^ 44 + th.detached.toNat * 2 ^ 43 + depth else e.row % 64
  BitVec.ofNat 64 (f.cause * 2 ^ 56 + f.sub % 256 * 2 ^ 48 + f.level % 8 * 2 ^ 45 + e.astat % 16 * 2 ^ 39 + low)

def execFrzinfo (c : Ctl) (d a : SReg) (s : State) : Outcome State Fault Refusal :=
  .next (s.frozenWord c {} a [1, 2] rInspect fun x s _ e => x.frzDone s (s.frzInfo e) (dstOf x.e.base d))

/-- The address of the first word of the queue images in stream order (R358): what the splitter would fetch where none is left. -/
def Thread.firstWord (th : Thread) : Word :=
  match th.entries.foldl (fun (b : Option Entry) e => match b with
    | none => some e
    | some x => if e.seq < x.seq then some e else some x) none with
  | some e => e.pc
  | none => th.spl.pc

/-- The element of a frozen thread that a class and an index name (R358). -/
def State.frzElem (s : State) (t : Tid) (cls : Nat) (i : Word) : Except FRec Word :=
  let th := s.thread t
  let base := th.rrb
  match cls with
  | 0 => .ok (th.readS base (Fin.ofNat 32 (wbits i 0 5)))
  | 1 => .ok (BitVec.ofNat 64 (th.pred base))
  | 2 =>
    match CReg.ofNumber (wbits i 0 10) with
    | some r => .ok (s.getc th base r)
    | none => .error fFormat
  | 3 => .ok ((Cells.get th.k (wbits i 0 2)).zeroExtend 64)
  | 4 => .ok (Cells.get th.l (wbits i 0 2))
  | 5 => if th.planes ≤ wbits i 12 3 then .error fFormat else .ok ((Cells.get th.z (wbits i 0 15)).zeroExtend 64)
  | 6 => .ok (Cells.get th.g (wbits i 0 7))
  | 7 => .ok (BitVec.ofNat 64 (((List.range 8).map fun w => (th.tokens w).length % 16 * 16 ^ w).sum))
  | 8 =>
    let (b, n) := th.window
    if n ≤ wbits i 0 11 then .error fFormat
    else .ok ((Cells.get (s.core t.st t.co).acc (256 * (b + wbits i 0 11) + wbits i 11 8)).zeroExtend 64)
  | 9 => .ok th.firstWord
  | 10 =>
    if i.toNat % 8 ≠ 0 ∨ th.csBytes < i.toNat + 8 then .error fFormat else .ok (BitVec.ofNat 64 (s.csRead t i.toNat 8))
  | _ => .error fFormat

def execFrzrd (c : Ctl) (d a : SReg) (cls : Fin 16) (s : State) : Outcome State Fault Refusal :=
  .next (s.frozenWord c {} a [1] rInspect fun x s _ e =>
    match s.frzElem e.target cls.val (x.s s d) with
    | .error f => .fault f s
    | .ok v => x.frzDone s v (dstOf x.e.base d))

/-- The counts that FRZWR gives the token counters: tokens that stay keep what they cover. -/
def Thread.setTokenCounts (th : Thread) (v : Word) : Thread :=
  (List.range 8).foldl (fun th w =>
    let n := wbits v (4 * w) 4
    let old := th.tokens w
    th.setTokens w (old.take n ++ List.replicate (n - old.length) none)) th

/-- Writes an element of a frozen thread (R358). -/
def State.frzPut (s : State) (t : Tid) (cls : Nat) (i v : Word) : Except FRec State :=
  let th := s.thread t
  let base := th.rrb
  let land (ws : List RegW) : Except FRec State := .ok ((s.landWrites t ws).landTbskew ws)
  match cls with
  | 0 => land (wrS base (Fin.ofNat 32 (wbits i 0 5)) v)
  | 1 => land (setcWrites base .pred v)
  | 2 =>
    match CReg.ofNumber (wbits i 0 10) with
    | some .bud => .ok (s.setThread t (th.setCreg crBUD (BitVec.ofNat 64 (wbits v 0 32))))
    | some r =>
      if r = .rm ∧ (wbits v 0 3 = 0 ∨ 5 < wbits v 0 3) then land (setcWrites base r v ++ [.flags flMODWARN]) else land (setcWrites base r v)
    | none => .error fFormat
  | 3 => land [.k (wbits i 0 2) (v.truncate 6)]
  | 4 => land [.l (wbits i 0 2) v]
  | 5 => if th.planes ≤ wbits i 12 3 then .error fFormat else land [.z (wbits i 0 15) (v.truncate 32)]
  | 6 =>
    let g := wbits i 3 4
    let (ws, _) := cleanRecord ((th.stream g).set (wbits i 0 3) v)
    .ok (s.setThread t (th.setStream g ws none))
  | 7 => .ok (s.setThread t (th.setTokenCounts v))
  | 8 =>
    let (b, n) := th.window
    let row := wbits i 0 11
    if n ≤ row then .error fFormat
    else .ok (s.modCore t.st t.co fun k =>
      { k with acc := Cells.set k.acc (256 * (b + row) + wbits i 11 8) (v.truncate 32), accOwner := Tab.set k.accOwner (b + row) (some th.ctx) })
  | 10 =>
    if i.toNat % 8 ≠ 0 ∨ th.csBytes < i.toNat + 8 then .error fFormat else land (th.csPut i.toNat (leBytes 8 v.toNat))
  | _ => .error fFormat

def execFrzwr (c : Ctl) (a b : SReg) (cls : Fin 16) (s : State) : Outcome State Fault Refusal :=
  .next (s.frozenWord c {} a [1] rPatch fun x s _ e =>
    if b.val % 2 = 1 ∨ b.val = 0 then .fault fFormat s
    else
      match s.frzPut e.target cls.val (x.s s b) (x.s s (Fin.ofNat 32 (b.val + 1))) with
      | .error f => .fault f s
      | .ok s => x.frzDone s)

/-! Memory of a frozen thread (R359). -/

/-- Whether a KIND 2 access lies in the sequence block or its snapshot buffer. -/
def State.inSequence (s : State) (e : CapE) (va : Word) : Bool :=
  let sn := s.homeN (e.blk + 0x220) 8
  let n := 4 * s.homeN (e.blk + 0x228) 4
  let inR (b len : Nat) := decide (b ≤ va.toNat) && decide (va.toNat + 8 ≤ b + len)
  inR e.blkVa.toNat 4096 || (sn != 0 && inR sn n)

/-- Where an access through a capability goes: the frozen thread's context and privilege, or the sequence's context (R359). -/
def State.capTarget (s : State) (t : Tid) (e : CapE) (va : Word) (acc : Access) : Target × State :=
  if e.kind = 1 then
    let th := s.thread e.target
    if s.walkWaits e.target th.ctx va.toNat then (.walk, s) else
    s.targetFill e.target th.ctx th.priv va acc 8
  else if !s.inSequence e va then (.fault (fXlate 0x2 0 va), s)
  else if s.walkWaits t e.blkCtx va.toNat then (.walk, s)
  else
    s.targetFill t e.blkCtx .supervisor va acc 8

def execFrzld (c : Ctl) (d a b : SReg) (s : State) : Outcome State Fault Refusal :=
  .next (s.frozenWord c {} a [1, 2] rInspect fun x s i e =>
    let va := x.s s b
    if va.toNat % 8 ≠ 0 then .fault (fAlign va) s
    else
      let (tg, s) := s.capTarget x.t e va .read
      match tg with
      | .at_ pa nc =>
        let s := s.setAstat x.t.st i 0
        x.frzHold s { id := 0, kind := .frzld, e := x.e, va := va, pa := some pa, nc := nc || e.kind == 2, dst := dstOf x.e.base d, v2 := BitVec.ofNat 64 i
                      stage := .send, for_ := if e.kind = 1 then some e.target else none }
      | .fault f => x.frzDone (s.setAstat x.t.st i f.sub) 0 (dstOf x.e.base d)
      | .walk => .hold s)

/-- A store on behalf of a frozen thread takes the place of its next store: behind every buffered one (R359). -/
def execFrzst (c : Ctl) (d a b : SReg) (s : State) : Outcome State Fault Refusal :=
  .next (s.frozenWord c {} a [1, 2] rPatch fun x s i e =>
    let va := x.s s b
    if va.toNat % 8 ≠ 0 then .fault (fAlign va) s
    else
      let (tg, s) := s.capTarget x.t e va .write
      match tg with
      | .at_ pa nc =>
        let s := s.setAstat x.t.st i 0
        if e.kind = 2 then
          x.frzHold s { id := 0, kind := .frzst, e := x.e, va := va, pa := some pa, v1 := x.s s d, v2 := BitVec.ofNat 64 i, stage := .send }
        else
          let (id, s) := s.fresh
          let s := s.modThread e.target fun th =>
            { th with sb := th.sb ++ [{ id := id, e := {}, va := va, size := 8, v := x.s s d, pa := some pa, nc := nc, past := nc }] }
          x.frzHold s { id := 0, kind := .frzst, e := x.e, va := va, stage := .away, wait := [id], for_ := some e.target }
      | .fault f => x.frzDone (s.setAstat x.t.st i f.sub)
      | .walk => .hold s)

/-- FRZARV (R360): the release and the arrival go on as a BARV of the frozen thread. -/
def execFrzarv (c : Ctl) (a b : SReg) (s : State) : Outcome State Fault Refusal :=
  .next (s.frozenWord c { order := true } a [1] rPatch fun x s i e =>
    let v := x.s s b
    let th := s.thread e.target
    if th.barriers ≤ slotOf v then .fault fFormat s
    else
      let va := BitVec.ofNat 64 (slotAddr v)
      if s.walkWaits e.target th.ctx va.toNat then .hold s else
      let (g, s) := s.targetFill e.target th.ctx th.priv va .atomic 16
      match g with
      | .at_ pa _ =>
        let (scope, warn) := c.fixedScope (s.barScope pa) .system
        let s := (x.flag s (flagIf warn flMODWARN)).setAstat x.t.st i 0
        x.frzHold s { id := 0, kind := .frzarv, e := x.e, va := va, size := 16, pa := some pa, slot := slotOf v, v2 := BitVec.ofNat 64 i
                      rel := some { scope := scope }, stage := .send, for_ := some e.target }
      | .fault f => x.frzDone (s.setAstat x.t.st i f.sub)
      | .walk => .hold s)

/-- FRZRES (R361): KIND 1 releases at SYSTEM scope first; what it then does is kept in the operation. KIND 2 is R345. -/
def execFrzres (c : Ctl) (a b : SReg) (s : State) : Outcome State Fault Refusal :=
  .next (s.frozenWord c {} a [1, 2] rResume fun x s i e =>
    let s := s.capInvalid x.t.st i
    if e.kind = 2 then x.frzDone (s.seqResume e)
    else
      x.frzHold s { id := 0, kind := .frzres, e := x.e, v1 := x.s s b, rel := some { scope := .system }, stage := .send, for_ := some e.target })

/-- FRZKIL (R362): complete once the thread's drain is. -/
def execFrzkil (c : Ctl) (a : SReg) (s : State) : Outcome State Fault Refusal :=
  .next (s.frozenWord c {} a [1, 2] rKill fun x s i e =>
    let s := s.capInvalid x.t.st i
    if e.kind = 2 then x.frzDone (s.seqKill e)
    else x.frzHold (s.killThread e.target) { id := 0, kind := .frzkil, e := x.e, stage := .away, for_ := some e.target })

/-- SQTRAP (R363): it issues once every earlier word has, and once the tap words before it have completed (R341). -/
def execSqtrap (c : Ctl) (a : SReg) (code : Fin 512) (s : State) : Outcome State Fault Refusal :=
  .next (s.issue c {} 0 fun x s =>
    let th := x.th s
    let r := wbits (x.s s a) 0 6
    if (th.entries.any fun e => decide (e.seq < x.e.seq)) || ((s.core x.t.st x.t.co).xs.any fun k => k.t == x.t) then .hold s
    else if th.rows ≤ r then .fault fFormat s
    else if !th.rowLive r || (s.rowBlock x.t r).isNone then .done s
    else .gone ((x.issues s).trapRow x.t r { slot := 0xFF, cross := 0, nres := 0, scores := [] } 0x11 0 code.val).2)

/-- HALTX (R366). -/
def execHaltx (c : Ctl) (a : SReg) (s : State) : Outcome State Fault Refusal :=
  .next (s.issue c {} 0 fun x s =>
    if (x.th s).priv == .user then .fault fPriv s else .gone ((x.issues s).haltCtx x.t.st (wbits (x.s s a) 0 4) 5))

end Sys2Proof.Machine
end

