-- ==== Sys2Proof/Machine/EvMemory.lean ====
section
/-! DEFINITION. The hardware steps of the memory system: LOAD_COMPLETE, STORE_BUFFER_DRAIN, DIRTY_LINE_WRITEBACK,
RELEASE_MARKER_LEAVE, PAGE_WALK, HOME_SLICE_READ, HOME_SLICE_WRITE, HOME_ATOMIC, HOME_QUEUE_OP, HOME_BARRIER_UPDATE,
MIRROR_WRITE, FORWARDED_ACCESS, ACK_FLIT (R191, R197 to R212, R226 to R241, R247 to R254, R290, R371,
R372, R376). -/

namespace Sys2Proof.Machine

open Host

/-! Memory errors in the hoop (R371). -/

/-- The address in the hoop region of a byte of the segment that a frame shows (R14, log 82). -/
def State.hoopAt (s : State) (st f b : Nat) : Option Nat :=
  let x := s.station st
  let n := (x.hoopHi - x.hoopLo) / Config.segmentBytes
  if n = 0 then none else some (s.pa st (x.hoopLo + (s.frame st f).arriveSlot % n * Config.segmentBytes + b))

/-- What a read through the segment window finds in its words (R371). -/
def State.readSegMarks (s : State) (st f b n : Nat) : State :=
  match s.hoopAt st f b with
  | some pa => s.readMarks pa n
  | none => s

/-- An uncorrectable error in the hoop: the 8 bytes read as zero through the segment window too (R371). -/
def State.zeroHoop (s : State) (st off : Nat) : State :=
  s.modStation st fun x =>
    { x with frames := x.frames.map fun (f, r) =>
        match s.hoopAt st f 0 with
        | some pa => if paOff pa ≤ off ∧ off < paOff pa + Config.segmentBytes then (f, { r with bytes := Memory.writeBytes r.bytes (off - paOff pa) (List.replicate 8 0) }) else (f, r)
        | none => (f, r) }

/-! Writes at the home slice that are no barrier update. -/

/-- An ordinary store leaves the barrier objects that it touches undefined until their next BINIT (R209, log 17). -/
def State.touchBars (s : State) (bs : List (Nat × Byte)) : State :=
  if s.bars.isEmpty then s
  else { s with bars := s.bars.map fun (a, f) => (a, f || bs.any fun b => decide (a ≤ b.1) && decide (b.1 < a + 16)) }

def State.plainPut (s : State) (bs : List (Nat × Byte)) : State := (s.touchBars bs).homeSetAll bs

/-- The bytes of a number at consecutive addresses. -/
def bytesAt (pa n v : Nat) : List (Nat × Byte) := (List.range n).map (pa + ·) |>.zip (leBytes n v)

/-! Pages under migration (R251 to R254). -/

def State.modMigr (s : State) (pa : Nat) (f : Migr → Migr) : State :=
  s.modStation (paStation pa) fun x => { x with migr := x.migr.map fun m => if m.page = pa / 4096 then f m else m }

/-- Messages to other modules: kinds of the model's own. -/
def msgReply : Nat := 0x20
def msgHandoff : Nat := 0x21
def msgReturn : Nat := 0x22
def msgForward : Nat := 0x23
def msgReady : Nat := 0x24
def msgRefuse : Nat := 0x25
def msgClosing : Nat := 0x26
def msgClosed : Nat := 0x27
def msgRecall : Nat := 0x28
def msgAck : Nat := 0x29

/-- The port of a module's first hop (R244, R245, R386). -/
def State.portTo (s : State) (m : Nat) : Nat :=
  let other (a b : Nat) : Nat := if b < a then b else b - 1
  if m / 48 ≠ s.modnum / 48 then other (s.modnum / 48) (m / 48) else 31 + other (s.modnum % 48) (m % 48)

/-- Whether an access can leave for a module: the port of its first hop is up, or one of a detour in that dimension (R246, R385). -/
def State.routed (s : State) (m : Nat) : Bool :=
  (if m / 48 ≠ s.modnum / 48 then List.range 31 else (List.range 47).map (31 + ·)).any fun p => (Tab.get s.ports p : Port).up

/-- Acknowledgements leave a port: those that a test selects. -/
def State.sendAcks (s : State) (p : Nat) (sel : Ack → Bool) : State :=
  let x : Port := Tab.get s.ports p
  (x.acks.filter sel).foldl (fun s a => s.send msgAck a.toMod (leBytes 8 a.id)) { s with ports := Tab.set s.ports p { x with acks := x.acks.filter fun a => !sel a } }

/-- A flit to another module carries the acknowledgements that wait for one (R247). -/
def State.sendTo (s : State) (kind m : Nat) (data : List Byte) : State :=
  (s.sendAcks (s.portTo m) fun a => a.toMod == m).send kind m data

/-- A resident descriptor returns to station memory. -/
def State.evictQueue (s : State) (st : Nat) (q : QRes) : State :=
  (s.modStation st fun x => { x with qres := x.qres.filter fun r => r.pa != q.pa }).homePut q.pa q.bytes

/-- The accesses queued before the mark are done: the page leaves, for its delegate or for its home (R252, R253). -/
def State.migSend (s : State) (pa : Nat) : State :=
  match s.migrOf pa with
  | none => s
  | some m =>
    let queued := (s.station (paStation pa)).rems.any fun r => r.pa / 4096 == m.page && !r.held
    if m.sent ∨ queued then s
    else
      let s := ((s.station (paStation pa)).qres.filter fun q => q.pa / 4096 == m.page).foldl (fun s q => s.evictQueue (paStation pa) q) s
      let out (k dst : Nat) : State := (s.sendTo k dst (leBytes 8 m.page ++ s.homeBytes (4096 * m.page) 4096)).modMigr pa fun m => { m with sent := true }
      match m.home, m.st with
      | true, .leaving => out msgHandoff m.module_
      | false, .returning => out msgReturn (paModule pa)
      | _, _ => s

/-- Whether pages of this module migrate: MIGEN stands in every station's control block (R255, log 80). -/
def State.migen (s : State) : Bool := (List.range Config.stations).all fun st => (s.cb st 0x100).getLsbD 48

/-- The contention table of a home slice (R250): at most 64 entries, the one updated least recently goes first. -/
def State.contended (s : State) (pa m : Nat) : State :=
  let st := paStation pa
  let page := pa / 4096
  let x := s.station st
  let e : Contend := match x.contend.find? fun c => c.page == page with
    | none => ⟨page, m, 1, s.cyc⟩
    | some c => if c.window + 4096 ≤ s.cyc ∨ c.module_ ≠ m then ⟨page, m, 1, s.cyc⟩ else { c with count := c.count + 1 }
  let mine (c : Contend) : Bool := c.page % 16 == page % 16
  let s := s.modStation st fun x =>
    { x with contend := (e :: x.contend.filter fun c => mine c && c.page != page).take 64 ++ x.contend.filter fun c => !mine c }
  if e.count = 16 ∧ s.migen ∧ (s.migrOf pa).isNone then
    (s.modStation st fun x => { x with migr := x.migr ++ [{ page := page, st := .leaving, module_ := m }] }).migSend pa
  else s

/-- An atomic of the home module drops the page's entry (R250). -/
def State.dropContend (s : State) (pa : Nat) : State :=
  if (s.station (paStation pa)).contend.isEmpty then s
  else s.modStation (paStation pa) fun x => { x with contend := x.contend.filter fun c => c.page != pa / 4096 }

/-- The delegate counts an access that another module issued; the fourth sends the page home (R253). -/
def State.foreign (s : State) (pa from_ : Nat) : State :=
  match s.migrOf pa with
  | none => s
  | some m =>
    if m.home ∨ m.st ≠ .away ∨ from_ = s.modnum then s
    else (s.modMigr pa fun m => { m with foreign := m.foreign + 1, st := if m.foreign + 1 = 4 then .returning else m.st }).migSend pa

/-! Order among the accesses of a thread and of a core (R229, R241). -/

def OpKind.loads (k : OpKind) : Bool := k == .load || k == .frzld

def OpKind.access : OpKind → Bool
  | .load | .amo _ | .cas | .enq | .deq | .binit | .barv | .bexp => true
  | _ => false

/-- Whether two accesses may touch one line: by physical address where both are known, else by the place within a page. -/
def sameLine (p q : Option Nat) (a b : Word) : Bool :=
  match p, q with
  | some p, some q => p / 128 == q / 128
  | _, _ => a.toNat % 4096 / 128 == b.toNat % 4096 / 128

/-- No earlier access of the thread to the same line is still under way. -/
def Thread.opFirst (th : Thread) (o : MemOp) : Bool :=
  !th.ops.any fun p => decide (p.id < o.id) && p.kind.access && p.stage != .done && sameLine p.pa o.pa p.va o.va

/-- No write-back or write of the core to a line is in flight. -/
def Core.lineFree (c : Core) (pa : Nat) : Bool := !c.wbs.any fun w => w.pa / 128 == pa / 128

/-- Whether a buffered store stands before an access with a stream number; of a frozen thread every one does. -/
def SbEntry.before (b : SbEntry) : Option Nat → Bool
  | some q => decide (b.e.seq < q)
  | none => true

/-- A load's bytes with the thread's earlier buffered stores merged over them (R197). -/
def Thread.mergeStores (th : Thread) (before : Option Nat) (pa n v : Nat) : Nat :=
  leNat ((List.range n).map fun i =>
    th.sb.foldl (fun (b : Byte) e =>
      match e.pa with
      | some p => if e.before before && decide (p ≤ pa + i) && decide (pa + i < p + e.size) then BitVec.ofNat 8 (e.v.toNat / 2 ^ (8 * (pa + i - p))) else b
      | none => b) (BitVec.ofNat 8 (v / 2 ^ (8 * i))))

/-- Whether an earlier buffered store that is not translated yet may overlap a load (R197). -/
def Thread.aliasWaits (th : Thread) (before : Option Nat) (pa : Nat) (va : Word) (n : Nat) : Bool :=
  th.sb.any fun b => b.pa.isNone && b.before before && b.meets (some pa) va n

def Line.num (l : Line) (o n : Nat) : Nat := l.data.toNat / 2 ^ (8 * o) % 2 ^ (8 * n)

/-- The thread as whose view an operation reads: itself, or the frozen thread of an FRZLD (R359). -/
def MemOp.viewer (o : MemOp) (t : Tid) : Tid := match o.kind with
  | .frzld => o.for_.getD t
  | _ => t

/-- Whether an operation reads past the L1. -/
def MemOp.past (o : MemOp) : Bool := o.nc

/-- The stream number that an operation's view of the buffered stores ends at: none for a frozen thread's. -/
def MemOp.upTo (o : MemOp) (t : Tid) : Option Nat := if o.viewer t = t then some o.e.seq else none

/-- Whether the L1 that an operation reads through serves it. -/
def State.l1Serves (s : State) (t : Tid) (o : MemOp) (pa : Nat) : Bool :=
  let v := o.viewer t
  match (s.core v.st v.co).line? (pa / 128 * 128) with
  | some l => l.serves (pa % 128) o.size
  | none => false

/-! Which step an operation takes next. -/

/-- The cycle from which a read of a segment's bytes can be served, or whether no segment stands there (R264, R265). -/
def State.segStands (s : State) (st pa n : Nat) : Bool :=
  let f := (pa - 2 ^ 52) / 2 ^ 22
  let b := (pa - 2 ^ 52) % 2 ^ 22
  s.frameHas st f b n

/-- An operation at its home slice waits for a page under migration, for a module that is gone and for a way to a module (R385). -/
def State.canReach (s : State) (pa : Nat) : Bool :=
  !s.pageHeld pa && s.paKind pa != .gone && s.paKind pa != .bad && ((s.paKind pa != .remote && s.paKind pa != .rctl) || s.routed (paModule pa))

/-- The home-slice step of an operation kind. -/
def OpKind.homeStep (k : OpKind) (r : ReqRef) : Instr :=
  match k with
  | .amo _ | .cas => .homeAtomic r
  | .enq | .deq => .homeQueueOp r
  | .binit | .barv | .bexp | .credit | .frzarv => .homeBarrierUpdate r
  | .store | .row _ | .frzst => .homeSliceWrite r
  | _ => .homeSliceRead r

/-- The next step of an operation of a thread, once it can happen (R226). A load that goes past the L1 has the dirty bytes of its line
written back first (R199, R226, R229, log 13). -/
def State.opStep (s : State) (t : Tid) (o : MemOp) : Option Instr :=
  let th := s.thread t
  match o.stage with
  | .walk => if s.walkWaits t th.ctx o.va.toNat then none else some (.pageWalk t o.id)
  | .done => some (.loadComplete t o.id)
  | .away =>
    let ended : Bool := match o.kind with
      | .cmo => decide (o.since ≤ s.cyc) && !s.wbIds.any fun i => o.wait.contains i
      | .frzst => match o.for_ with
        | some v => !(s.thread v).sb.any fun b => o.wait.contains b.id
        | none => true
      | .frzkil => match o.for_ with
        | some v => (s.thread v).drain != some .killed
        | none => true
      | _ => false
    if ended then some (.loadComplete t o.id) else none
  | .send =>
    if o.rel.isSome || !th.opFirst o || (match o.pa with
        | some pa => o.kind.loads && (s.thread (o.viewer t)).aliasWaits (o.upTo t) pa o.va o.size
        | none => false) then none
    else
      match o.kind, o.pa with
      | .frzres, _ => some (.loadComplete t o.id)
      | _, none => none
      | k, some pa =>
        let v := o.viewer t
        if isSegPa pa then
          if o.seg.all fun r => decide (r.arrive + 8 + ((pa - 2 ^ 52) % 2 ^ 22 + o.size - 1) / 6400 ≤ s.cyc) then some (.loadComplete t o.id) else none
        else if k.loads ∧ !o.past ∧ s.l1Serves t o pa then some (.loadComplete t o.id)
        else if k.loads ∧ o.past ∧ ((s.core v.st v.co).line? (pa / 128 * 128)).any fun l => l.mask != 0 then
          some (.dirtyLineWriteback v.st v.co (pa / 128 * 128))
        else if s.canReach pa && (s.core v.st v.co).lineFree pa then some (k.homeStep (.thr t o.id)) else none

/-! Completion of an operation (R30, R201, R212, R296). -/

def State.modOp (s : State) (t : Tid) (id : Nat) (f : MemOp → MemOp) : State :=
  s.modThread t fun th => { th with ops := th.ops.map fun o => if o.id = id then f o else o }
def State.op? (s : State) (t : Tid) (id : Nat) : Option MemOp := (s.thread t).ops.find? fun o => o.id == id
def State.dropOp (s : State) (t : Tid) (id : Nat) : State := s.modThread t fun th => { th with ops := th.ops.filter fun o => o.id != id }

/-- The queue that an operation holds issues again. -/
def Thread.unblock (th : Thread) (q : QName) (id : Nat) : Thread :=
  if (th.queue q).blk = some id then th.setQueue q { th.queue q with blk := none } else th

/-- An operation is complete: its registers wait to be observed; an acquire follows, or the queue goes on. -/
def State.finishOp (s : State) (t : Tid) (o : MemOp) : State :=
  let ws := (if o.dst < 64 then [RegW.s o.dst o.res] else []) ++
    (match o.kind with
     | .deq => if o.dst2 < 64 then [RegW.s o.dst2 o.res2] else []
     | _ => [])
  let s := (s.dropOp t o.id).modThread t fun th =>
    if ws.isEmpty then th else { th with unobs := th.unobs ++ [⟨o.q, o.e.seq, ws⟩] }
  match o.acq with
  | some scope => if scope.code ≤ 2 then s.modThread t fun th => th.unblock o.q o.id else s.startAcquire t scope o.q
  | none => s.modThread t fun th => th.unblock o.q o.id

/-- An operation ends in a fault: nothing else of it happens. -/
def State.failOp (s : State) (t : Tid) (o : MemOp) (f : FRec) : State :=
  ((s.dropOp t o.id).modThread t fun th => th.unblock o.q o.id).opFault t o.q o.e f

/-- An access of a thread that comes to nothing: a prefetch is dropped (R204), a word on a frozen thread's behalf writes 0 and records the
cause in ASTAT (R359, R360), any other faults (R249). -/
def State.failAccess (s : State) (t : Tid) (o : MemOp) (f : FRec) : State :=
  match o.kind with
  | .pref => s.dropOp t o.id
  | .frzld | .frzst | .frzarv => (s.setAstat t.st (wbits o.v2 0 12) f.sub).finishOp t { o with res := 0 }
  | _ => s.failOp t o f

/-- FRZRES makes its target runnable once its release is complete (R361): the target acquires at SYSTEM scope before its first
word. -/
def State.finishResume (s : State) (t : Tid) (o : MemOp) : State :=
  match o.for_ with
  | none => s.finishOp t o
  | some v =>
    let from_ : Option Word := if o.v1.getLsbD 0 then some (o.v1 &&& ~~~ (3 : Word)) else none
    let s := if (s.thread v).status = .frozen then ((s.resume v from_).startAcquire v .system .s).modThread v fun th =>
        { th with resumeFrom := th.acq.foldl (fun n a => max n a.due) s.cyc }
      else s
    s.finishOp t o

/-- The value that a load finds in the L1. -/
def State.localValue (s : State) (t : Tid) (o : MemOp) (pa : Nat) : Nat :=
  let v := o.viewer t
  let below := match (s.core v.st v.co).line? (pa / 128 * 128) with
    | some l => l.num (pa % 128) o.size
    | none => 0
  (s.thread v).mergeStores (o.upTo t) pa o.size below

/-- The segment whose bytes a load of a frame has, if any: the one that stood there as it left the core, for sure where it left 32
cycles before the expiry or earlier; one that arrives within 31 cycles of a load that found none may be met too (R265, log 15). The
answer's flag says that the frame still shows it. -/
def State.segMet (s : State) (st pa : Nat) (o : MemOp) : Option (Resident × Bool) × State :=
  let f := (pa - 2 ^ 52) / 2 ^ 22
  let may (x : Resident × Bool) : Option (Resident × Bool) × State :=
    let (b, s) := s.freeBit
    (if b then some x else none, s)
  match o.seg with
  | some r =>
    let now := s.hasFrame st f && (s.frame st f).arriveSlot == r.arriveSlot
    let x := (if now then s.frame st f else r, now)
    if o.since + 32 ≤ r.expiry then (some x, s) else may x
  | none =>
    if s.segStands st pa o.size ∧ (s.frame st f).arrive ≤ o.since + 31 ∧ s.frameReady st f ((pa - 2 ^ 52) % 2 ^ 22 + o.size - 1) ≤ s.cyc then
      may (s.frame st f, true)
    else (none, s)

/-- LOAD_COMPLETE. -/
def execLoadComplete (t : Tid) (id : Nat) (s : State) : Outcome State Fault Refusal :=
  match s.op? t id with
  | none => .next s
  | some o =>
    if s.opStep t o ≠ some (.loadComplete t id) then .next s
    else
      match o.stage, o.kind, o.pa with
      | .send, .frzres, _ => .next (s.finishResume t o)
      | .send, _, some pa =>
        if isSegPa pa then
          match s.segMet t.st pa o with
          | (none, s) => .next (s.failAccess t o (fXlate 0x1 0 o.va))
          | (some (r, now), s) =>
            let s := if now then s.readSegMarks t.st ((pa - 2 ^ 52) / 2 ^ 22) ((pa - 2 ^ 52) % 2 ^ 22) o.size else s
            .next (s.finishOp t { o with res := BitVec.ofNat 64 (leNat (r.bytes.bytes ((pa - 2 ^ 52) % 2 ^ 22) o.size)) })
        else
          let s := s.modCore (o.viewer t).st (o.viewer t).co fun c => c.touch (pa / 128 * 128)
          .next (s.finishOp t { o with res := BitVec.ofNat 64 (s.localValue t o pa) })
      | _, _, _ => .next (s.finishOp t o)

/-! Walks (R182 to R185). -/

/-- PAGE_WALK: for an operation or a buffered store that no cached translation served. A prefetch that fails is dropped. -/
def execPageWalk (t : Tid) (id : Nat) (s : State) : Outcome State Fault Refusal :=
  let th := s.thread t
  match th.ops.find? fun o => o.id == id && o.stage == .walk with
  | some o =>
    if s.walkWaits t th.ctx o.va.toNat then .next s else
    let acc : Access := if o.kind.atHome then .atomic else .read
    let (g, s) := s.targetFill t th.ctx th.priv o.va acc o.size
    match g with
    | .at_ pa nc =>
      if o.kind = .pref ∧ (nc ∨ isSegPa pa) then .next (s.dropOp t id)
      else
        let s := if o.kind.atHome then s.dropTarget t pa else s
        .next (s.modOp t id fun o => { o with
          pa := some pa
          nc := o.nc || nc
          stage := .send
          since := s.cyc
          rel := o.rel.map fun r => if r.scope = .unset then { r with scope := s.barScope pa } else r })
    | .walk => .next s
    | .fault f => if o.kind = .pref then .next (s.dropOp t id) else .next (s.failOp t o f)
  | none =>
    match th.sb.find? fun b => b.id == id && b.pa.isNone with
    | none => .next s
    | some b =>
      if s.walkWaits t th.ctx b.va.toNat then .next s else
      let (g, s) := s.targetFill t th.ctx th.priv b.va .write b.size
      match g with
      | .at_ pa nc =>
        .next (s.modThread t fun th =>
          { th with sb := th.sb.map fun e => if e.id = id then { e with pa := some pa, nc := nc, past := e.past || nc } else e })
      | .walk => .next s
      | .fault f => .next ((s.modThread t fun th => { th with sb := th.sb.filter fun e => e.id != id }).opFault t .s b.e f)

/-! The store buffer, the L1 and its FIFO. -/

/-- Whether the oldest buffered store can leave: translated, behind every earlier access to its line, and, for a clean line, with
room in the FIFO (R191, R197, R229). One whose line a module that is gone would have to fill leaves the module (R249, R411). -/
def State.canDrain (s : State) (t : Tid) : Bool :=
  let th := s.thread t
  let c := s.core t.st t.co
  match th.sb with
  | [] => false
  | b :: _ =>
    match b.pa with
    | none => false
    | some pa =>
      !(th.ops.any fun o => decide (o.e.seq < b.e.seq) && o.kind.access && o.stage != .done && sameLine o.pa b.pa o.va b.va) &&
      (b.past ||
        match c.line? (pa / 128 * 128) with
        | some l => l.mask != 0 || decide (c.fifoLines < 2048)
        | none => s.paKind pa == .gone || (c.lineFree pa && decide (c.fifoLines < 2048) && s.canReach pa))

/-- STORE_BUFFER_DRAIN (R197): into the L1, or past it to its target with the line written back and dropped. -/
def execStoreBufferDrain (t : Tid) (s : State) : Outcome State Fault Refusal :=
  if !s.canDrain t then .next s
  else
    match (s.thread t).sb with
    | ⟨id, e, va, size, v, some pa, _, past⟩ :: rest =>
      let s := s.modThread t fun th => { th with sb := rest }
      if past ∨ (s.paKind pa = .gone ∧ ((s.core t.st t.co).line? (pa / 128 * 128)).isNone) then
        let s := s.dropTarget t pa
        .next (s.modCore t.st t.co fun c => { c with
          wbs := c.wbs ++ [{ id := id, pa := pa, bytes := bytesAt pa size v.toNat, ord := e.seq, by_ := some t, va := some (va.toNat, size), since := s.cyc, size := size }] })
      else
        let s := if ((s.core t.st t.co).line? (pa / 128 * 128)).isSome then s else s.readMarks (pa / 128 * 128) 128
        .next (s.storeLine t.st t.co pa size v.toNat)
    | _ => .next s

def FifoE.isMark : FifoE → Bool
  | .mark _ _ => true
  | _ => false

/-- The oldest line entry of the FIFO. -/
def Core.oldestLine (c : Core) : Option Nat :=
  c.fifo.findSome? fun
    | .line la => some la
    | _ => none

/-- Whether a marker stands behind the oldest line entry. -/
def Core.markBehind (c : Core) : Bool := (c.fifo.dropWhile FifoE.isMark).any FifoE.isMark

/-- Whether a thread's oldest buffered store is to make a clean line dirty (R191). -/
def State.wantsClean (s : State) (t : Tid) : Bool :=
  match (s.thread t).sb with
  | [] => false
  | b :: _ => !b.past && match b.pa with
    | some pa => match (s.core t.st t.co).line? (pa / 128 * 128) with
      | some l => l.mask == 0
      | none => s.paKind pa != .gone
    | none => false

/-- The line that the FIFO writes back next: the oldest entry, where a marker stands behind it, or where the FIFO is full and a store waits
to make a clean line dirty (R191). -/
def State.nextBack (s : State) (st co : Nat) : Option Nat :=
  let c := s.core st co
  if c.markBehind || (decide (2048 ≤ c.fifoLines) && (s.tidsOf st).any fun t => t.co == co && s.wantsClean t) then c.oldestLine else none

/-- Whether a load that goes past the L1 waits for a line's dirty bytes (R199, R226). -/
def State.loadsBehind (s : State) (st co line : Nat) : Bool :=
  s.tids.any fun t => (s.thread t).ops.any fun o => s.opStep t o == some (.dirtyLineWriteback st co line)

/-- DIRTY_LINE_WRITEBACK (R191). -/
def execDirtyLineWriteback (st co line : Nat) (s : State) : Outcome State Fault Refusal :=
  if s.nextBack st co = some line ∨ s.loadsBehind st co line then .next (s.writeBack st co line true) else .next s

/-- The marker that can leave: no line entry stands ahead of it and every write-back made before it is acknowledged. -/
def Core.markReady (c : Core) : Option Nat :=
  match c.fifo.head? with
  | some (.mark id ord) => if c.wbs.any (fun w => w.by_.isNone && decide (w.ord < ord)) then none else some id
  | _ => none

/-- RELEASE_MARKER_LEAVE (R191). -/
def execReleaseMarkerLeave (st co : Nat) (s : State) : Outcome State Fault Refusal :=
  if ((s.core st co).markReady).isSome then .next (s.modCore st co fun c => { c with fifo := c.fifo.tail }) else .next s

/-! The home slice. -/

/-- Whether a write of a core can be performed: its target is reached and no earlier write to the line is in flight (R241). -/
def State.canWb (s : State) (c : Core) (w : Wb) : Bool :=
  !w.away && s.canReach w.pa && !(c.wbs.takeWhile fun v => v.id != w.id).any fun v => v.pa / 128 == w.pa / 128

/-- A request of another module can be performed: it is the first to its page and the page is served here (R252 to R254); a credit of bytes comes
behind every earlier request of its module, the bytes' own among them (R216, R220, R243). -/
def State.canRem (s : State) (r : RemOp) : Bool :=
  let x := s.station (paStation r.pa)
  let first := !((x.rems.takeWhile fun q => q.id != r.id).any fun q => q.pa / 4096 == r.pa / 4096 && (r.held || !q.held)) &&
    (r.kind != .credit || !s.stations.any fun x => (x.2.rems.takeWhile fun q => q.id != r.id).any fun q => q.from_ == r.from_ && decide (q.id < r.id))
  first && !r.held &&
    match s.migrOf r.pa with
    | some m => if m.home then m.st == .leaving || m.st == .closing else m.st == .away || (m.st == .returning && !m.sent)
    | none => paModule r.pa == s.modnum

/-- Whether a request is passed on, the first to its page: this module does not hold the page, or holds it no longer. -/
def State.mustForward (s : State) (r : RemOp) : Bool :=
  !(((s.station (paStation r.pa)).rems.takeWhile fun q => q.id != r.id).any fun q => q.pa / 4096 == r.pa / 4096) &&
  match s.migrOf r.pa with
  | some m => if m.home then m.st == .away || m.st == .returning else m.st == .returning && m.sent || m.st == .closing
  | none => paModule r.pa != s.modnum

def State.rem? (s : State) (id : Nat) : Option RemOp := s.stations.findSome? fun x => x.2.rems.find? fun r => r.id == id

/-- A request of another module is done. A store's acknowledgement waits at most 64 cycles for a flit that returns to its module; a reply
is one (R247). -/
def State.endRem (s : State) (r : RemOp) (data : List Byte) : State :=
  let s := s.modStation (paStation r.pa) fun x => { x with rems := x.rems.filter fun q => q.id != r.id }
  let p := s.portTo r.from_
  let x : Port := Tab.get s.ports p
  let s := if r.kind = .store then { s with ports := Tab.set s.ports p { x with acks := x.acks ++ [⟨r.from_, r.id, s.cyc + 64⟩] } }
    else s.sendTo msgReply r.from_ (leBytes 8 r.id ++ data)
  (s.foreign r.pa r.from_).migSend r.pa

/-- A privilege as a request names it. -/
def privOf (n : Nat) : Priv :=
  match n with
  | 0 => .user
  | 1 => .supervisor
  | _ => .firmware

/-- HOME_SLICE_READ (R226): a line fill, a read past the L1, a prefetch, or a request of another module, which names the privilege of
the issuing thread in its second operand and reads a control block as a local one does (R248, R410). -/
def execHomeSliceRead (r : ReqRef) (s : State) : Outcome State Fault Refusal :=
  match r with
  | .thr t id =>
    match s.op? t id with
    | none => .next s
    | some o =>
      match o.pa with
      | none => .next s
      | some pa =>
        if s.opStep t o ≠ some (.homeSliceRead r) then .next s
        else
          let v := o.viewer t
          let deliver (n : Nat) (s : State) : State :=
            let x := (s.thread v).mergeStores (o.upTo t) pa o.size n
            s.modOp t id fun o => { o with res := BitVec.ofNat 64 x, stage := .done }
          match o.kind with
          | .pref =>
            let s := (s.readMarks (pa / 128 * 128) 128).fillLine t.st t.co (pa / 128 * 128)
            .next ((if o.v1 = 0 then s else s.modCore t.st t.co fun c => c.markWrite (pa / 128 * 128)).dropOp t id)
          | _ =>
            if s.paKind pa = .control then
              .next (deliver (s.cbRead (paStation pa) (paOff pa - 2 ^ 34) o.size (s.thread v).priv) s)
            else if s.paKind pa = .rctl then
              let (w, s) := s.freeWord
              .next (deliver (w.toNat % 2 ^ (8 * o.size)) s)
            else if o.past then
              let s := (s.readMarks pa o.size).hostRead v.st pa o.size
              .next (deliver (s.homeN pa o.size) (s.modCore v.st v.co fun c => c.staleLine pa))
            else .next ((s.readMarks (pa / 128 * 128) 128).fillLine v.st v.co (pa / 128 * 128))
  | .rem id =>
    match s.rem? id with
    | none => .next s
    | some q =>
      if !s.canRem q ∨ q.kind ≠ .load then .next s
      else
        if s.paKind q.pa = .control then
          .next (s.endRem q (leBytes q.size (s.cbRead (paStation q.pa) (paOff q.pa - 2 ^ 34) q.size (privOf (wbits q.v2 4 2)))))
        else
          let s := s.readMarks q.pa q.size
          .next (s.endRem q (s.homeBytes q.pa q.size))
  | .wb _ _ _ => .next s

/-- The clean copy of a line in the issuing L1 is older than what an operation at its home slice leaves there (R229). -/
def State.staleAt (s : State) (t : Tid) (pa : Nat) : State := s.modCore t.st t.co fun c => c.staleLine pa

/-- ACCEPT and COMMIT on the doubleword 0x008 of a row's block (R276, R303). -/
def State.rowStep (s : State) (pa : Nat) (commit : Bool) (fidx : Nat) : State :=
  (s.homePutN (pa + 6) 2 fidx).homePutN (pa + 5) 1 (setBits (s.homeN (pa + 5) 1) 1 1 (if commit then 0 else 1))

/-- HOME_SLICE_WRITE (R228): a write-back or a write past the L1 arrives; one to the host waits for the host's acknowledgement
(R242), one to a control block is performed there (R410). -/
def execHomeSliceWrite (r : ReqRef) (s : State) : Outcome State Fault Refusal :=
  match r with
  | .wb st co id =>
    let c := s.core st co
    match c.wbs.find? fun w => w.id == id with
    | none => .next s
    | some w =>
      if !s.canWb c w then .next s
      else
        let out (s : State) : State := s.modCore st co fun c => { c with wbs := c.wbs.filter fun v => v.id != id }
        match s.paKind w.pa with
        | .control =>
          let priv := match w.by_ with
            | some t => (s.thread t).priv
            | none => .user
          .next ((out s).cbPerform ⟨paStation w.pa, paOff w.pa - 2 ^ 34, w.size, BitVec.ofNat 64 (leNat (w.bytes.map Prod.snd)), priv⟩)
        | .rctl => .next ((out s).sendTo msgForward (paModule w.pa) (leBytes 8 w.pa ++ w.bytes.map Prod.snd))
        | .host => .next (((s.plainPut w.bytes).hostStore st w.pa (w.bytes.map Prod.snd)).modCore st co fun c =>
            { c with wbs := c.wbs.map fun v => if v.id = id then { v with away := true, since := s.cyc } else v })
        | _ => .next (out (s.plainPut w.bytes))
  | .thr t id =>
    match s.op? t id with
    | none => .next s
    | some o =>
      match o.pa with
      | none => .next s
      | some pa =>
        if s.opStep t o ≠ some (.homeSliceWrite r) then .next s
        else
          match o.kind with
          | .row commit => .next (((s.rowStep pa commit o.v1.toNat).staleAt t pa).finishOp t o)
          | _ => .next ((((s.plainPut (bytesAt pa 8 o.v1.toNat)).hostStore t.st pa (leBytes 8 o.v1.toNat)).staleAt t pa).finishOp t o)
  | .rem id =>
    match s.rem? id with
    | none => .next s
    | some q =>
      if !s.canRem q ∨ q.kind ≠ .store then .next s
      else if s.paKind q.pa = .control then
        .next ((s.endRem q []).cbPerform ⟨paStation q.pa, paOff q.pa - 2 ^ 34, q.bytes.length, BitVec.ofNat 64 (leNat (q.bytes.map Prod.snd)), privOf (wbits q.v2 4 2)⟩)
      else .next ((s.plainPut q.bytes).endRem q [])

/-! Atomics (R205, R206). -/

/-- What an AMO writes. -/
def amoNew (op : AmoOp) (bits old v : Nat) : Nat :=
  let m := 2 ^ bits
  let a := old % m
  let b := v % m
  match op with
  | .add => (a + b) % m
  | .and => a &&& b
  | .or => a ||| b
  | .xor => a ^^^ b
  | .min => if sext a bits ≤ sext b bits then a else b
  | .max => if sext a bits ≤ sext b bits then b else a
  | .minn => min a b
  | .maxn => max a b
  | .xchg => b

/-- The read and the write of an AMO or CAS in one step: the old value. -/
def State.atomicStep (s : State) (kind : OpKind) (pa n v1 v2 : Nat) : Nat × State :=
  let s := s.readMarks pa n
  let old := s.homeN pa n
  let put (v : Nat) : State := s.plainPut (bytesAt pa n v)
  match kind with
  | .amo op => (old, put (amoNew op (8 * n) old v1))
  | _ => (old, if old = v2 % 2 ^ (8 * n) then put (v1 % 2 ^ (8 * n)) else s)

/-- HOME_ATOMIC (R206, R250). -/
def execHomeAtomic (r : ReqRef) (s : State) : Outcome State Fault Refusal :=
  match r with
  | .thr t id =>
    match s.op? t id with
    | none => .next s
    | some o =>
      match o.pa with
      | none => .next s
      | some pa =>
        if s.opStep t o ≠ some (.homeAtomic r) then .next s
        else
          let (old, s) := s.atomicStep o.kind pa o.size o.v1.toNat o.v2.toNat
          let s := if paModule pa = s.modnum then s.dropContend pa else s
          .next ((s.staleAt t pa).modOp t id fun o => { o with res := BitVec.ofNat 64 old, stage := .done })
  | .rem id =>
    match s.rem? id with
    | none => .next s
    | some q =>
      let atomic := match q.kind with
        | .amo _ | .cas => true
        | _ => false
      if !s.canRem q || !atomic then .next s
      else
        let (old, s) := s.atomicStep q.kind q.pa q.size q.v1.toNat q.v2.toNat
        let s := if paModule q.pa = s.modnum ∧ q.contended then s.contended q.pa q.from_ else s
        .next (s.endRem q (leBytes q.size old))
  | .wb _ _ _ => .next s

/-! Queue operations (R207, R208, R290). -/

/-- PIN of the queue-table entry of a descriptor's handle. -/
def State.queuePin (s : State) (st ctx pa : Nat) : Bool :=
  let h := s.homeN (pa + 32) 2 % 4096
  match s.xlateFull (dispTid st) ctx .supervisor ((s.cb st (0x400 + 0x40 * ctx + 0x20)).toNat + 8 * h) .read with
  | .pa a _ => tbit (s.homeN a 8) 63
  | _ => false

/-- A queue miss (R290): the descriptor is installed, for the least recently used one that is not pinned; QMISS counts. -/
def State.queueMiss (s : State) (st ctx pa : Nat) : State :=
  let x := s.station st
  match x.qres.find? fun q => q.pa == pa with
  | some q => s.modStation st fun x => { x with qres := q :: x.qres.filter fun r => r.pa != pa }
  | none =>
    let s := s.count st 0x3C0
    let q : QRes := { pa := pa, bytes := s.homeBytes pa 64, pin := s.queuePin st ctx pa }
    let room (s : State) : State := s.modStation st fun x => { x with qres := q :: x.qres }
    if x.qres.length < 256 then room s
    else
      match (x.qres.filter fun r => !r.pin).getLast? with
      | some v => room (s.evictQueue st v)
      | none => s

/-- One ENQ or DEQ at the descriptor's home slice: the results of the two destination registers. -/
def State.queueStep (s : State) (t : Tid) (ctx : Nat) (priv : Priv) (pa : Nat) (enq : Option Word) : (Word × Word) × State :=
  let st := paStation pa
  let s := s.readMarks pa 64
  let s := if s.servesHere pa then s.queueMiss st ctx pa else s
  let base := s.homeN pa 8
  let cap := s.homeN (pa + 8) 8 % 32
  let head := s.homeN (pa + 16) 8
  let tail := s.homeN (pa + 24) 8
  let n := (tail + 2 ^ 64 - head) % 2 ^ 64
  let slot (i : Nat) : Option Nat × State :=
    let va := (base + 8 * (i % 2 ^ cap)) % 2 ^ 64
    match s.xlateTo t ctx priv va 8 .atomic with
    | (.pa a _, s) =>
      if (s.paKind a == .own || s.paKind a == .remote) && paStation a == st && paModule a == paModule pa then (some a, s) else (none, s.dropLeaf t ctx va)
    | (_, s) => (none, s)
  match enq with
  | some v =>
    if 20 < cap ∨ 2 ^ cap < n then ((2, 0), s)
    else if n = 2 ^ cap then ((1, 0), s)
    else
      match slot tail with
      | (some a, s) => ((0, 0), (s.plainPut (bytesAt a 8 v.toNat)).homePutN (pa + 24) 8 (tail + 1))
      | (none, s) => ((2, 0), s)
  | none =>
    if 20 < cap ∨ 2 ^ cap < n then ((0, 2), s)
    else if n = 0 then ((0, 1), s)
    else
      match slot head with
      | (some a, s) => ((BitVec.ofNat 64 (s.homeN a 8), 0), (s.readMarks a 8).homePutN (pa + 16) 8 (head + 1))
      | (none, s) => ((0, 2), s)

/-- HOME_QUEUE_OP (R208). A request of another module names the issuing thread's context and privilege in its second operand. -/
def execHomeQueueOp (r : ReqRef) (s : State) : Outcome State Fault Refusal :=
  match r with
  | .thr t id =>
    match s.op? t id with
    | none => .next s
    | some o =>
      match o.pa with
      | none => .next s
      | some pa =>
        if s.opStep t o ≠ some (.homeQueueOp r) then .next s
        else
          let th := s.thread t
          let (rs, s) := s.queueStep t th.ctx th.priv pa (if o.kind = .enq then some o.v1 else none)
          .next ((s.staleAt t pa).modOp t id fun o => { o with res := rs.1, res2 := rs.2, stage := .done })
  | .rem id =>
    match s.rem? id with
    | none => .next s
    | some q =>
      if !s.canRem q ∨ (q.kind ≠ .enq ∧ q.kind ≠ .deq) then .next s
      else
        let (rs, s) := s.queueStep (dispTid (paStation q.pa)) (wbits q.v2 0 4) (privOf (wbits q.v2 4 2)) q.pa (if q.kind = .enq then some q.v1 else none)
        .next (s.endRem q (leBytes 8 rs.1.toNat ++ leBytes 8 rs.2.toNat))
  | .wb _ _ _ => .next s

/-! Barrier objects (R209 to R212, R360). -/

/-- One barrier word at the object's home slice. -/
def State.barrierStep (s : State) (kind : OpKind) (pa : Nat) (v : Word) : State :=
  let s := s.readMarks pa 16
  match kind with
  | .binit => ({ s with bars := (pa, false) :: s.bars.filter fun b => b.1 != pa }).putBobj pa (BObj.init v)
  | .bexp => s.updateBar pa fun o => o.expectMore v
  | .credit => s.credit (some pa) (wbits v 0 32)
  | _ => s.updateBar pa fun o => o.arrive 1 (wbits v 0 32)

/-- What a barrier word leaves in its slot: the phase before the update. -/
def BSlot.after (b : BSlot) (kind : OpKind) (a phase : Nat) : BSlot :=
  let b := b.bind a
  match kind with
  | .binit => { b with phase := 0, member := true, arrived := false }
  | .bexp => b
  | _ => { b with phase := phase, member := true, arrived := true, arrPhase := phase }

/-- HOME_BARRIER_UPDATE: the word is acknowledged as it is performed. -/
def execHomeBarrierUpdate (r : ReqRef) (s : State) : Outcome State Fault Refusal :=
  match r with
  | .thr t id =>
    match s.op? t id with
    | none => .next s
    | some o =>
      match o.pa with
      | none => .next s
      | some pa =>
        if s.opStep t o ≠ some (.homeBarrierUpdate r) then .next s
        else
          let phase := (s.bobj pa).phase
          let s := s.barrierStep o.kind pa o.v1
          let u := match o.kind with
            | .frzarv => o.for_.getD t
            | _ => t
          let s := s.modThread u fun th => th.setBslot o.slot ((th.bslot o.slot).after o.kind o.va.toNat phase)
          .next ((s.staleAt u pa).finishOp t o)
  | .rem id =>
    match s.rem? id with
    | none => .next s
    | some q =>
      if !s.canRem q ∨ (q.kind ≠ .binit ∧ q.kind ≠ .barv ∧ q.kind ≠ .bexp ∧ q.kind ≠ .credit) then .next s
      else .next ((s.barrierStep q.kind q.pa q.v1).endRem q [])
  | .wb _ _ _ => .next s

/-! The fabric's part. -/

/-- The kinds of request as a forwarded one names them. -/
def AmoOp.code : AmoOp → Nat
  | .add => 0 | .and => 1 | .or => 2 | .xor => 3 | .min => 4 | .max => 5 | .minn => 6 | .maxn => 7 | .xchg => 8

def OpKind.code : OpKind → Nat
  | .load => 0 | .store => 1 | .cas => 2 | .enq => 3 | .deq => 4 | .binit => 5 | .barv => 6 | .bexp => 7 | .credit => 8 | .amo op => 16 + AmoOp.code op
  | _ => 255

/-- A request is passed on: to the delegate that the home named, or to the home module of the address. -/
def State.passOn (s : State) (r : RemOp) : State :=
  let dst := match s.migrOf r.pa with
    | some m => if m.home then m.module_ else paModule r.pa
    | none => paModule r.pa
  let s := s.modStation (paStation r.pa) fun x => { x with rems := x.rems.filter fun q => q.id != r.id }
  s.sendTo msgForward dst (leBytes 8 r.id ++ leBytes 8 r.pa ++ leBytes 2 r.from_ ++ [BitVec.ofNat 8 (OpKind.code r.kind), BitVec.ofNat 8 r.size] ++
    leBytes 8 r.v1.toNat ++ leBytes 8 r.v2.toNat ++ r.bytes.flatMap fun b => leBytes 8 b.1 ++ [b.2])

/-- FORWARDED_ACCESS (R252 to R254). -/
def execForwardedAccess (id : Nat) (s : State) : Outcome State Fault Refusal :=
  match s.rem? id with
  | none => .next s
  | some r => if s.mustForward r then .next (s.passOn r) else .next s

/-- ACK_FLIT (R247): the acknowledgements that no flit has carried within 64 cycles leave in a flit of their own. -/
def execAckFlit (port : Nat) (s : State) : Outcome State Fault Refusal :=
  .next (s.sendAcks port fun a => decide (a.due ≤ s.cyc))

/-- The station that takes a station's mirror: the successor, or the one after it while that one is bypassed (R376). -/
def State.mirrorTo (s : State) (st : Nat) : Nat :=
  let n := (st + 1) % Config.stations
  if (s.station n).share = 0 then (st + 2) % Config.stations else n

/-- MIRROR_WRITE (R376): in the order of the writes, at the same offset from TLMDST. -/
def execMirrorWrite (st : Nat) (s : State) : Outcome State Fault Refusal :=
  match (s.station st).mirrors with
  | [] => .next s
  | m :: rest =>
    let s := s.modStation st fun x => { x with mirrors := rest }
    let dst := s.pa (s.mirrorTo st) (s.cbBits st 0x3058 0 35)
    .next (s.plainPut (m.bytes.map fun b => (dst + (b.1 - m.off), b.2)))

end Sys2Proof.Machine
end

