-- ==== Sys2Proof/Machine/EvCopy.lean ====
section
/-! DEFINITION. COPY_PIECE (R213, R215, R216, R220 to R224, R265): one piece of an accepted copy, or one naturally aligned unit of it;
ACCESS_UNDELIVERABLE (R249). -/

namespace Sys2Proof.Machine

open Host

def State.copy? (s : State) (st id : Nat) : Option CopyJob := (s.station st).copies.find? fun k => k.id == id
def State.modCopy (s : State) (st id : Nat) (f : CopyJob → CopyJob) : State :=
  s.modStation st fun x => { x with copies := x.copies.map fun k => if k.id = id then f k else k }
def State.dropCopy (s : State) (st id : Nat) : State := s.modStation st fun x => { x with copies := x.copies.filter fun k => k.id != id }

/-- Whether two ranges share a byte. -/
def Loc.meets (a : Loc) (n : Nat) (b : Loc) (m : Nat) : Bool :=
  match a, b with
  | .cs c x, .cs d y => c == d && decide (x < y + m) && decide (y < x + n)
  | .mem x, .mem y => decide (x < y + m) && decide (y < x + n)
  | _, _ => false

/-- The bytes at one side of a piece: of core-store bytes that a Vat word writes and that the thread's C queue has not waited for, the old
or the new value (R149, log 14). -/
def State.locRead (s : State) (t : Tid) (l : Loc) (n : Nat) : List Byte × State :=
  let st := t.st
  match l with
  | .cs _ a => ((List.range n).map fun i => s.csAt t .c (a + i), s)
  | .mem pa => let s := (s.readMarks pa n).hostRead st pa n
               (s.homeBytes pa n, s)
  | .seg f b => (s.segBytes st f b n, s.readSegMarks st f b n)

def State.locWrite (s : State) (st ctx : Nat) (l : Loc) (bs : List Byte) : State :=
  match l with
  | .cs co a => s.writeStore st co ctx (csWrites (((List.range bs.length).zip bs).map fun (i, b) => RegW.cs (a + i) b))
  | .mem pa => (s.plainPut (((List.range bs.length).map (pa + ·)).zip bs)).hostStore st pa bs
  | .seg _ _ => s

/-- Whether a piece's segment stands in its frame: a SEGHOLD is bound to the tag it met (R221). -/
def State.pieceStands (s : State) (st : Nat) (k : CopyJob) (p : Piece) : Bool :=
  match p.src with
  | .seg f b => s.frameHas st f b p.len && (match k.tag with
      | some g => (s.frame st f).tag == g
      | none => true)
  | _ => true

/-- Whether a location lies on another module. -/
def State.locAway (s : State) : Loc → Bool
  | .mem pa => s.paKind pa == .remote || s.paKind pa == .gone || s.paKind pa == .rctl
  | _ => false

/-- The sides of a piece that lie on another module. -/
def State.farSides (s : State) (p : Piece) : List Loc := [p.src, p.dst].filter s.locAway

/-- Whether two pieces touch the same bytes of another module (R220). -/
def State.farMeets (s : State) (q p : Piece) : Bool := (s.farSides p).any fun a => (s.farSides q).any fun b => b.meets q.len a p.len

/-- The bytes that an engine has moved by a cycle, counted as 256 a cycle, once it has moved some more for a copy (R216). -/
def Station.engBytes (x : Station) (k : CopyJob) (n : Nat) : Nat := max (Tab.get x.engTime k.engine) (256 * k.acc) + n

/-- A piece takes its engine's cycles: 256 bytes in each. -/
def State.engineTakes (s : State) (st : Nat) (k : CopyJob) (n : Nat) : State :=
  s.modStation st fun x => { x with engTime := Tab.set x.engTime k.engine (max (x.engBytes k n) (256 * (s.cyc - 1) + min n 256)) }

/-- Whether a piece's turn has come: its engine has had the cycles, its bytes have arrived, an earlier piece does not still read what it
writes (R215), and the earlier ones of the thread to the same bytes of another module are done (R220). -/
def State.pieceReady (s : State) (st : Nat) (k : CopyJob) (before : List Piece) (p : Piece) : Bool :=
  decide ((s.station st).engBytes k p.len ≤ 256 * s.cyc) &&
  !(before.any fun q => q.src.meets q.len p.dst p.len || s.farMeets q p) &&
  !((s.station st).copies.any fun j => j.t == k.t && decide (j.id < k.id) && j.pieces.any fun q => s.farMeets q p) &&
  match p.src with
  | .seg f b => !s.pieceStands st k p || decide (s.frameReady st f (b + p.len - 1) ≤ s.cyc)
  | _ => true

/-- Whether a side can be reached: no page under migration holds it, and its module is there. -/
def State.locReach (s : State) : Loc → Bool
  | .mem pa => s.canReach pa
  | _ => true

/-- Whether COPY_PIECE can do something with an index of a copy: perform a piece; from the number of pieces upward, take a piece apart into
its units; with no piece left, end the copy or go on with the next entry of a KVCMP. -/
def State.canPiece (s : State) (st : Nat) (k : CopyJob) (i : Nat) : Bool :=
  let at_ (j : Nat) (p : Piece) : Bool := s.pieceReady st k (k.pieces.take j) p && s.locReach p.src && s.locReach p.dst
  match k.pieces[i]? with
  | some p => at_ i p
  | none =>
    if k.pieces.isEmpty then i == 0
    else
      match k.pieces[i - k.pieces.length]? with
      | some p => p.grp == 0 && decide (8 < p.len) && at_ (i - k.pieces.length) p
      | none => false

/-! Units (R215, R227). -/

/-- The address of a side within its space, and the side some bytes further on. -/
def Loc.addr : Loc → Nat
  | .cs _ a => a
  | .mem pa => pa
  | .seg _ b => b

def Loc.shift (n : Nat) : Loc → Loc
  | .cs co a => .cs co (a + n)
  | .mem pa => .mem (pa + n)
  | .seg f b => .seg f (b + n)

/-- The largest unit of up to 8 bytes that is aligned alike on both sides. -/
def Piece.unit (p : Piece) : Nat :=
  if p.src.addr % 8 = p.dst.addr % 8 then 8 else if p.src.addr % 4 = p.dst.addr % 4 then 4 else if p.src.addr % 2 = p.dst.addr % 2 then 2 else 1

/-- Part of a piece. -/
def Piece.part (p : Piece) (g o n : Nat) : Piece :=
  { src := p.src.shift o, dst := p.dst.shift o, len := n, sva := p.sva.map (· + o), dva := p.dva.map (· + o), grp := g, whole := p.len }

/-- A piece taken apart into its units, under a number of its own. -/
def Piece.units (p : Piece) (g : Nat) : List Piece :=
  let u := p.unit
  let h := min p.len ((u - p.dst.addr % u) % u)
  (if h = 0 then [] else [p.part g 0 h]) ++
    (List.range ((p.len - h + u - 1) / u)).map fun i => p.part g (h + u * i) (min u (p.len - h - u * i))

/-- The list with one piece taken apart. -/
def cutAt (ps : List Piece) (i g : Nat) : List Piece := ps.take i ++ ((ps[i]?).map fun p => p.units g).getD [] ++ ps.drop (i + 1)

/-- The bytes to credit once a piece is done, of which the rest stands in the list: those of a piece performed unit by unit with its last
unit (R216). -/
def Piece.creditOf (p : Piece) (rest : List Piece) : Nat :=
  if p.grp = 0 then p.len else if rest.any fun q => q.grp == p.grp then 0 else p.whole

/-- Bytes are credited, if any. -/
def State.creditSome (s : State) (bar : Option Nat) (n : Nat) : State := if n = 0 then s else s.credit bar n

/-! What follows a piece. -/

/-- A copy is over: a CWAIT can cover it. -/
def State.endCopy (s : State) (st : Nat) (k : CopyJob) : State := s.dropCopy st k.id

/-- A copy ends short (R221, R225, R249). -/
def State.copyShort (s : State) (st id : Nat) : State :=
  match s.copy? st id with
  | some k => (s.dropCopy st id).modThread k.t fun th => th.endsShort k.e.seq
  | none => s

/-- A copy ends in a fault at its word. -/
def State.failCopy (s : State) (st : Nat) (k : CopyJob) (f : FRec) : State := (s.dropCopy st k.id).opFault k.t .c k.e f

/-- The last step of a KVCMP at the home slice, before the credit of the last entry's bytes, if one was copied (R223). PROG is observed with
the copy (R30). -/
def State.kvSwap (s : State) (st : Nat) (k : CopyJob) (r : KvRun) (n : Nat) : State :=
  let pl := s.homeN (r.pa + 0x50) 8
  let alt := s.homeN (r.pa + 0x58) 8
  let len := s.homeN (r.pa + 0x48) 4 + r.list.length
  let s := (s.homePutN (r.pa + 0x50) 8 alt).homePutN (r.pa + 0x58) 8 pl
  let s := (s.homePutN (r.pa + 0x48) 4 len).homePutN (r.pa + 0x4C) 4 len
  let s := (s.creditSome k.bar n).modThread k.t fun th => { th with unobs := th.unobs ++ [⟨.c, k.e.seq, [.prog 0 k.bar]⟩] }
  s.endCopy st k

/-- The pieces of the next entry of a KVCMP, translated and checked. -/
def State.kvExpand (s : State) (k : CopyJob) (r : KvRun) : Except FRec (List Piece) × State :=
  let (l, a, b) := r.entry r.next
  match s.kvEntry k.t r r.pl l a with
  | (.error f, s) => (.error f, s)
  | (.ok x, s) =>
    match s.kvEntry k.t r r.alt l b with
    | (.error f, s) => (.error f, s)
    | (.ok y, s) => s.pieces k.t { ssp := 1, dsp := 1 } (cutRuns [⟨x, y, r.ent⟩])

/-- After a piece, with n bytes to credit: the credit, and what follows the last one. -/
def State.afterPiece (s : State) (st : Nat) (k : CopyJob) (n : Nat) : State :=
  let go (s : State) (k : CopyJob) : State := s.modCopy st k.id fun _ => k
  let all (s : State) : State := (s.creditSome k.bar n).creditSome k.rbar n
  if k.cancel then if k.pieces.isEmpty then (all s).copyShort st k.id else go (all s) k
  else
    match k.kv with
    | none => if k.pieces.isEmpty then (all s).endCopy st k else go (all s) k
    | some r =>
      let last := r.next + 1 = r.total
      let s := if last then s else s.creditSome k.bar n
      if !k.pieces.isEmpty then go s k
      else if last then s.kvSwap st k r r.ent
      else go s { k with kv := some { r with next := r.next + 1 } }

/-- One piece is read and written. -/
def State.doPiece (s : State) (st : Nat) (k : CopyJob) (i : Nat) (p : Piece) : State :=
  let (bs, s) := s.locRead k.t p.src p.len
  let s := (s.locWrite st (s.thread k.t).ctx p.dst bs).engineTakes st k p.len
  let rest := k.pieces.eraseIdx i
  s.afterPiece st { k with pieces := rest } (p.creditOf rest)

/-- PROG as a KVCMP that faults leaves it; what an earlier one left unobserved is older (R224). -/
def Thread.setProg (th : Thread) (n : Nat) : Thread :=
  let old (w : RegW) : Bool := match w with
    | .prog _ _ => true
    | _ => false
  { th.setCreg crCPROG (wset (th.creg crCPROG) 0 32 n) with unobs := th.unobs.map fun u => { u with ws := u.ws.filter (!old ·) } }

/-- What COPY_PIECE does with no piece left: the copy ends, or a KVCMP goes on with its next entry. -/
def State.nextEntry (s : State) (st : Nat) (k : CopyJob) : State :=
  match k.kv with
  | none => s.endCopy st k
  | some r =>
    if r.total ≤ r.next then s.kvSwap st k r 0
    else
      match s.kvExpand k r with
      | (.error f, u) =>
        if f.waits then s else (u.modThread k.t fun th => th.setProg r.next).failCopy st k f
      | (.ok [], s) => s.afterPiece st k 0
      | (.ok ps, s) => s.modCopy st k.id fun k => { k with pieces := ps }

/-! A piece of a tile (R258): its engine stands for a station numbered from 48 upward. -/

/-- Whether a piece's turn has come: as R215 and R220 order the pieces of a copy. -/
def State.tileReady (s : State) (before : List TPiece) (x : TPiece) : Bool :=
  !(before.any fun y => y.p.src.meets y.p.len x.p.dst x.p.len || s.farMeets y.p x.p || y.p.dst.meets y.p.len x.p.dst x.p.len)

/-- Whether COPY_PIECE can perform a piece of a tile, or, from the number of pieces upward, take it apart. -/
def State.canTile (s : State) (e i : Nat) : Bool :=
  let l := (s.engineOf e).pieces
  let at_ (j : Nat) (x : TPiece) : Bool := s.tileReady (l.take j) x && s.locReach x.p.src && s.locReach x.p.dst
  match l[i]? with
  | some x => at_ i x
  | none =>
    match l[i - l.length]? with
    | some x => decide (l.length ≤ i) && x.p.grp == 0 && decide (8 < x.p.len) && at_ (i - l.length) x
    | none => false

def State.tilePiece (s : State) (e i : Nat) : State :=
  if !s.canTile e i then s
  else
    let l := (s.engineOf e).pieces
    match l[i]? with
    | some x =>
      let (bs, s) := s.locRead (dispTid (s.engineOf e).stn) x.p.src x.p.len
      let rest := l.eraseIdx i
      let s := (s.locWrite (s.engineOf e).stn 0 x.p.dst bs).creditSome x.bar (x.p.creditOf (rest.map TPiece.p))
      s.modEngine e fun w => { w with pieces := rest }
    | none =>
      let j := i - l.length
      let (g, s) := s.fresh
      let parts := ((l[j]?).map fun x => (x.p.units (g + 1)).map fun p => { x with p := p }).getD []
      s.modEngine e fun w => { w with pieces := l.take j ++ parts ++ l.drop (j + 1) }

/-- COPY_PIECE. -/
def execCopyPiece (st id piece : Nat) (s : State) : Outcome State Fault Refusal :=
  if Config.stations ≤ st then .next (s.tilePiece (st - Config.stations) piece) else
  match s.copy? st id with
  | none => .next s
  | some k =>
    if !s.canPiece st k piece then .next s
    else
      match k.pieces[piece]? with
      | some p =>
        if !s.pieceStands st k p then
          match p.src, k.tag with
          | .seg f b, none => .next (s.failCopy st k (fXlate 0x1 0 (BitVec.ofNat 64 (segBase + f * 2 ^ 22 + b))))
          | _, _ => .next (s.copyShort st id)
        else .next (s.doPiece st k piece p)
      | none =>
        if k.pieces.isEmpty then .next (s.nextEntry st k)
        else
          let (g, s) := s.fresh
          .next (s.modCopy st id fun k => { k with pieces := cutAt k.pieces (piece - k.pieces.length) (g + 1) })

/-! Accesses that no module acknowledges (R249). -/

/-- The cycles after which an access is undeliverable. -/
def undeliverable : Nat := 65536

/-- Whether a side on this module is within reach. -/
def State.nearReach (s : State) (l : Loc) : Bool := s.locAway l || s.locReach l

/-- A piece is out to another module from the cycle in which its turn came (R249). -/
def State.mark (s : State) (p : Piece) (ready : Bool) : Piece :=
  if !(s.farSides p).isEmpty && ready && s.nearReach p.src && s.nearReach p.dst then { p with out := some (p.out.getD s.cyc) } else { p with out := none }

/-- The pieces of copies and tiles that are out to other modules, as of this cycle. -/
def State.markOut (s : State) : State :=
  let far (ps : List Piece) : Bool := ps.any fun p => !(s.farSides p).isEmpty
  let marked (st : Nat) (k : CopyJob) : CopyJob :=
    if far k.pieces then { k with pieces := k.pieces.mapIdx fun i p => s.mark p (s.pieceReady st k (k.pieces.take i) p) } else k
  let u := s.stations.foldl (fun u x =>
    if x.2.copies.any fun k => far k.pieces then u.modStation x.1 fun y => { y with copies := y.copies.map (marked x.1) } else u) s
  s.engines.foldl (fun u x =>
    if far (x.2.pieces.map TPiece.p) then
      u.modEngine x.1 fun w => { w with pieces := w.pieces.mapIdx fun i y => { y with p := s.mark y.p (s.tileReady (w.pieces.take i) y) } }
    else u) u

/-- Whether a piece has been out for so long. -/
def Piece.late (p : Piece) (cyc : Nat) : Bool := p.out.any fun n => decide (n + undeliverable ≤ cyc)

/-- The pieces that are left once those out for too long end short: with a unit its whole piece (R215, R216). -/
def onTime (cyc : Nat) (ps : List Piece) (p : Piece) : Bool :=
  !p.late cyc && (p.grp == 0 || !ps.any fun q => q.grp == p.grp && q.late cyc)

/-- Whether an access has stood unacknowledged for so long since it can have left its port die. A station number from 48 upward names a
tile-walk engine. -/
def State.tooLong (s : State) (r : ReqRef) : Bool :=
  let due (since : Nat) : Bool := decide (since + undeliverable ≤ s.cyc)
  let far (pa : Nat) : Bool := s.locAway (.mem pa)
  match r with
  | .thr t id =>
    if Config.stations ≤ t.st then
      (s.engineOf (t.st - Config.stations)).pieces.any (·.p.late s.cyc)
    else
    match s.op? t id with
    | some o => o.stage == .send && o.rel.isNone && (s.thread t).opFirst o && due o.since && o.pa.any far
    | none => (s.station t.st).copies.any fun k => k.id == id && k.pieces.any (·.late s.cyc)
  | .wb st co id => (s.core st co).wbs.any fun w => w.id == id && due w.since && far w.pa
  | .rem _ => false

/-- The pieces of a tile that have been out for too long end short, without their credit. -/
def State.tileShort (s : State) (e : Nat) : State :=
  s.modEngine e fun x => { x with status := 2, pieces := x.pieces.filter fun y => onTime s.cyc (x.pieces.map TPiece.p) y.p }

/-- The pieces of a copy that have been out for too long end short, without their credit; the others go on. -/
def State.outShort (s : State) (st id : Nat) : State :=
  match s.copy? st id with
  | none => s
  | some k =>
    let rest := k.pieces.filter (onTime s.cyc k.pieces)
    let s := s.modThread k.t fun th => th.endsShort k.e.seq
    if rest.isEmpty then s.dropCopy st id else s.modCopy st id fun k => { k with pieces := rest }

/-- ACCESS_UNDELIVERABLE: an access completes with a fault at the level of its leaf; a write's bytes are lost and counted (log 81), and the
core's next release meets the loss; a copy ends short. -/
def execAccessUndeliverable (r : ReqRef) (s : State) : Outcome State Fault Refusal :=
  if !s.tooLong r then .next s
  else
    match r with
    | .thr t id =>
      if Config.stations ≤ t.st then .next (s.tileShort (t.st - Config.stations)) else
      match s.op? t id with
      | some o => .next (s.failAccess t o (fXlate 0x5 (s.leafLevel t (s.thread t).ctx o.va.toNat) o.va))
      | none => .next (s.outShort t.st id)
    | .wb st co id =>
      let n := (((s.core st co).wbs.filter fun w => w.id == id).map fun w => w.bytes.length).sum
      .next ({ s with lostBytes := s.lostBytes + n }.modCore st co fun c => { c with wbs := c.wbs.filter fun w => w.id != id, lost := true })
    | .rem _ => .next s

end Sys2Proof.Machine
end

