-- ==== Sys2Proof/Machine/Tap.lean ====
section
/-! DEFINITION. Taps, probes and steering (R330 to R347): the X words as they issue, and X_WORD_COMPLETE, which performs one. -/

namespace Sys2Proof.Machine

open Host

/-! Tables (R330, R331, R333). -/

/-- Whether a table range lies inside the tap-table region. -/
def State.inTables (s : State) (st off n : Nat) : Bool :=
  decide (s.cbBits st 0x2A00 0 35 ≤ off) && decide (off + n ≤ s.cbBits st 0x2A08 0 35)

def State.tabN (s : State) (st off n : Nat) : Nat := s.homeN (s.pa st off) n

/-- A tap slot (R330). -/
structure TapSlot where
  off : Nat
  v : Bool
  snap : Bool
  nprb : Nat
  nres : Nat
  pvoff : Nat
  traps : Nat
  cross : Nat
  deriving DecidableEq, Repr

def State.tapSlot (s : State) (st c t : Nat) : TapSlot :=
  let off := s.cbBits st (0x2800 + 0x20 * c) 0 35 + 2048 * t
  if !s.inTables st off 64 then ⟨off, false, false, 0, 0, 0, 0, 0⟩
  else
    let d0 := s.tabN st off 8
    let d2 := s.tabN st (off + 16) 8
    let nprb := min (bits d0 16 7) 64
    let nres := bits d0 0 16
    let pv := bits (s.tabN st (off + 8) 8) 0 35
    let ok := tbit d0 63 && nres % 64 == 0 && decide (64 ≤ nres) && decide (nres ≤ 16384) && s.inTables st (off + 64) (16 * nprb)
      && (nprb == 0 || s.inTables st pv (4 * nres * nprb))
    ⟨off, ok, tbit d0 62, nprb, nres, pv, bits d2 32 32, bits d2 0 32⟩

/-- A probe header, read as one unit (R330, R340). -/
structure Probe where
  k : Nat
  v : Bool
  sense : Bool
  act : Bool
  norm : Bool
  bias : Word32
  thresh : Word32
  hits : Nat
  deriving DecidableEq, Repr

def State.probe (s : State) (st : Nat) (sl : TapSlot) (k : Nat) : Probe :=
  let o := sl.off + 64 + 16 * k
  let c := s.tabN st (o + 8) 1
  ⟨k, tbit c 0, tbit c 1, tbit c 2, tbit c 3, BitVec.ofNat 32 (s.tabN st o 4), BitVec.ofNat 32 (s.tabN st (o + 4) 4), s.tabN st (o + 12) 4⟩

def State.probes (s : State) (st : Nat) (sl : TapSlot) : List Probe := ((List.range sl.nprb).map (s.probe st sl)).filter Probe.v

/-- An FP32 element of a vector table, read as a 4-byte unit. -/
def State.vecElem (s : State) (st off i : Nat) : Word32 := BitVec.ofNat 32 (s.tabN st (off + 4 * i) 4)

/-! Issue (R335). -/

/-- The rows enabled for a tap word: lane mask, ROWS, not trapped. -/
def Ctx.tapRows (x : Ctx) (s : State) : Word :=
  let th := x.th s
  let live := if 64 ≤ th.rows then BitVec.allOnes 64 else BitVec.ofNat 64 (2 ^ th.rows - 1)
  x.mask s &&& live &&& ~~~ th.trapped

def rowsOf (m : Word) : List Nat := (List.range 64).filter fun i => m.getLsbD i

/-- A tap word goes into the tap unit with what it reads, as it stands at its issue (R335, log 89); the next X word waits for its
completion. -/
def Ctx.tapGo (x : Ctx) (s : State) (i : Instr) (ops : List Word) (data : List Byte := []) (cycles : Nat := 0) : Act :=
  let th := x.th s
  .done (s.modCore x.t.st x.t.co fun k =>
    { k with xs := k.xs ++ [{ t := x.t, seq := x.e.seq, base := x.e.base, instr := i, ops := ops, rows := x.tapRows s, z0 := th.z
                              data := data, mem0 := s.mem, qres0 := (s.station x.t.st).qres, done := s.cyc + 4 * cycles }] })

/-- The accumulator pair that a register names. -/
def Thread.tapPair (th : Thread) (v : Word) : Option FRec :=
  let p := wbits v 0 3
  if p % 2 = 1 then some fFormat else if th.planes ≤ p + 1 then some (fOver 0) else none

/-- The modifier fields that tap words on rows take: MASK alone; the others have no lanes and take none (R335, R49). -/
def tapUse : ModUse := { mask := true }

def Ctx.slotOk (x : Ctx) (s : State) (t : Fin 16) : Bool := (s.tapSlot x.t.st (x.th s).ctx t.val).v

/-- Whether a chunk lies in the slot's residual. -/
def Ctx.chunkOk (x : Ctx) (s : State) (t : Fin 16) (j : Word) : Bool :=
  let sl := s.tapSlot x.t.st (x.th s).ctx t.val
  sl.v && decide (64 * j.toNat + 63 < sl.nres)

def execTapsel (c : Ctl) (t : Fin 16) (a : SReg) (s : State) : Outcome State Fault Refusal :=
  .next (s.issue c {} 0 fun x s => x.tapGo s (.tapsel c t a) [])

def execTapstr (c : Ctl) (t : Fin 16) (a : SReg) (z : ZReg) (s : State) : Outcome State Fault Refusal :=
  .next (s.issue c tapUse 0 fun x s =>
    if (x.th s).planes ≤ physZ x.e.base z.val then .fault (fOver 0) s
    else if !x.chunkOk s t (x.s s a) then .fault fFormat s
    else x.tapGo s (.tapstr c t a z) [x.s s a])

def execTapdot (c : Ctl) (t : Fin 16) (a b : SReg) (z : ZReg) (s : State) : Outcome State Fault Refusal :=
  .next (s.issue c tapUse 0 fun x s =>
    if (x.th s).planes ≤ physZ x.e.base z.val then .fault (fOver 0) s
    else
      match (x.th s).tapPair (x.s s b) with
      | some f => .fault f s
      | none => if !x.chunkOk s t (x.s s a) then .fault fFormat s else x.tapGo s (.tapdot c t a b z) [x.s s a, x.s s b])

/-- TAPEVAL issues once every word placed before it has issued (R340); the step keeps later words back. -/
def execTapeval (c : Ctl) (t : Fin 16) (a b : SReg) (m : LReg) (s : State) : Outcome State Fault Refusal :=
  .next (s.issue c tapUse 0 fun x s =>
    if (x.th s).entries.any fun e => decide (e.seq < x.e.seq) then .hold s
    else
      match (x.th s).tapPair (x.s s a) with
      | some f => .fault f s
      | none => if !x.slotOk s t then .fault fFormat s else x.tapGo s (.tapeval c t a b m) [x.s s a])

/-- TAPCLR completes 2 thread cycles after it issues (R339). -/
def execTapclr (c : Ctl) (a : SReg) (s : State) : Outcome State Fault Refusal :=
  .next (s.issue c tapUse 0 fun x s =>
    match (x.th s).tapPair (x.s s a) with
    | some f => .fault f s
    | none => x.tapGo s (.tapclr c a) [x.s s a] [] 2)

def execTaprd (c : Ctl) (t : Fin 16) (a b : SReg) (s : State) : Outcome State Fault Refusal :=
  .next (s.issue c {} 0 fun x s =>
    if 1 < (x.s s b).toNat then .fault fFormat s else x.tapGo s (.taprd c t a b) [x.s s b])

/-- Where a TAPPRB or TAPSTV image goes (R346): table offset and bytes. -/
def State.prbTarget (s : State) (st t : Nat) (v : Word) : Option (Nat × Nat) :=
  let c := wbits v 8 4
  let k := wbits v 0 7
  let off := s.cbBits st (0x2800 + 0x20 * c) 0 35 + 2048 * t
  if !v.getLsbD 7 then
    if k < 64 then some (off + 64 + 16 * k, 16) else if k = 64 then some (off, 64) else none
  else if 64 ≤ k ∨ !s.inTables st off 16 then none
  else
    let n := 4 * bits (s.tabN st off 8) 0 16
    some (bits (s.tabN st (off + 8) 8) 0 35 + n * k, n)

def State.stvTarget (s : State) (st : Nat) (v : Word) : Option (Nat × Nat) :=
  let off := s.cbBits st (0x2808 + 0x20 * wbits v 12 4) 0 35 + 32 * wbits v 0 8
  if !v.getLsbD 8 then some (off, 32)
  else if !s.inTables st off 16 then none
  else some (bits (s.tabN st (off + 8) 8) 0 35, 4 * bits (s.tabN st off 8) 0 16)

/-- TAPPRB and TAPSTV (R346). -/
def Ctx.tapWrite (x : Ctx) (s : State) (i : Instr) (a : Word) (tg : Option (Nat × Nat)) : Act :=
  let th := x.th s
  if th.priv == .user then .fault fPriv s
  else if a.toNat % 16 ≠ 0 then .fault (fAlign a) s
  else
    match tg with
    | none => .fault fFormat s
    | some (off, n) =>
      if th.csBytes < a.toNat + n then .fault (fOver 2) s
      else if !s.inTables x.t.st off n then .fault fFormat s
      else x.tapGo s i [BitVec.ofNat 64 off] ((List.range n).map fun j => s.csByte x.t .x (a.toNat + j))

def execTapprb (c : Ctl) (t : Fin 16) (a b : SReg) (s : State) : Outcome State Fault Refusal :=
  .next (s.issue c {} 0 fun x s => x.tapWrite s (.tapprb c t a b) (x.s s a) (s.prbTarget x.t.st t.val (x.s s b)))

def execTapstv (c : Ctl) (a b : SReg) (s : State) : Outcome State Fault Refusal :=
  .next (s.issue c {} 0 fun x s => x.tapWrite s (.tapstv c a b) (x.s s a) (s.stvTarget x.t.st (x.s s b)))

/-! Completion. -/

/-- The home slices as the word read them when it issued: no later store reaches its reads (R335). -/
def XCmd.view (m : XCmd) (s : State) : State := { s.modStation m.t.st (fun x => { x with qres := m.qres0 }) with mem := m.mem0 }

/-- The planes as the word read them. -/
def XCmd.z (m : XCmd) (plane row col : Nat) : Word32 := Cells.get m.z0 (zKey plane row col)

/-- A count in a control block, in bits lo upward of width n, wraps. -/
def State.bump (s : State) (st off lo n : Nat) : State := s.setCb st off (wset (s.cb st off) lo n (s.cbBits st off lo n + 1))

def tapRound (v : Flagged Val) : Flagged Word32 := round32 { mode := .rne } v

/-- What the entries of a row's steering set have done to it (R337): its values, its flags, whether an entry was applied, STVBAD. -/
structure Steered where
  row : List Word32
  fl : Word := 0
  hit : Bool := false
  s : State

/-- One steering entry of a row (R337), read in the view `v`. -/
def Steered.entry (a : Steered) (v : State) (m : XCmd) (sl : TapSlot) (t j blk e : Nat) : Steered :=
  let st := m.t.st
  let c := (v.thread m.t).ctx
  let d0 := v.homeN (blk + 0x100 + 16 * e) 8
  let coef := BitVec.ofNat 32 (v.homeN (blk + 0x108 + 16 * e) 4)
  if !tbit d0 63 || !tbit d0 (32 + t) then a
  else
    let off := v.cbBits st (0x2808 + 0x20 * c) 0 35 + 32 * bits d0 0 8
    let inside := v.inTables st off 32
    let h := v.tabN st off 8
    let voff := bits (v.tabN st (off + 8) 8) 0 35
    if !inside || !tbit h 63 || bits h 0 16 != sl.nres || !v.inTables st voff (4 * sl.nres) then
      { a with s := a.s.bump st (0x2810 + 0x20 * c) 32 32 }
    else
      let k := if tbit h 62 then BitVec.ofNat 32 (v.tabN st (off + 16) 4) else coef
      let rs := (a.row.zip (List.range 64)).map fun (x, i) =>
        tapRound (Val.fma .rne (val32 k) (val32 (v.vecElem st voff (64 * j + i))) (val32 x))
      { a with row := rs.map Prod.fst, fl := rs.foldl (fun a r => a ||| r.2) a.fl, hit := true }

/-- TAPSTR (R337): a row that no entry steers is not written. -/
def State.doTapstr (s : State) (m : XCmd) (t : Nat) (z : ZReg) : List RegW × Word × State :=
  let v := m.view s
  let sl := v.tapSlot m.t.st (s.thread m.t).ctx t
  let p := physZ m.base z.val
  (rowsOf m.rows).foldl (fun (ws, fl, s) i =>
    match s.rowBlock m.t i with
    | none => (ws, fl, s)
    | some w =>
      let start := (List.range 64).map fun c => m.z p i c
      let r := [0, 1, 2, 3].foldl (fun (a : Steered) e => a.entry v m sl t (m.ops.headD 0).toNat w.pa e) { row := start, s := s }
      (ws ++ if r.hit then (r.row.zip (List.range 64)).map (fun (v, c) => RegW.z (zKey p i c) v) else [], fl ||| r.fl, r.s))
    (([] : List RegW), (0 : Word), s)

/-- The snapshot residual of a row (R338): dropped and counted where its translation fails or lacks W. -/
def State.snapResidual (s : State) (m : XCmd) (blk j : Nat) (row : List Word32) : State :=
  let th := s.thread m.t
  let sn := (m.view s).homeN (blk + 0x220) 8
  if sn = 0 then s
  else
    let bs := row.flatMap fun v => leBytes 4 v.toNat
    let drop (s : State) := s.count m.t.st (0x2818 + 0x20 * th.ctx)
    let (r, s) := s.xlateRange m.t th.ctx th.priv (sn + 256 * j) 256 .write
    match r with
    | .error _ => drop s
    | .ok runs =>
      let ok := runs.all fun (x, _) => match x with
        | .pa a _ => s.paKind a != .control && s.paKind a != .bad
        | _ => false
      if !ok then drop s
      else
        (runs.foldl (fun ((s, bs) : State × List Byte) (x, n) => match x with
          | .pa a _ => ((s.homePut a (bs.take n)).hostStore m.t.st a (bs.take n), bs.drop n)
          | _ => (s, bs)) (s, bs)).1

/-- TAPDOT (R338). -/
def State.doTapdot (s : State) (m : XCmd) (t : Nat) (z : ZReg) : List RegW × Word × State :=
  let st := m.t.st
  let v := m.view s
  let sl := v.tapSlot st (s.thread m.t).ctx t
  let j := (m.ops.headD 0).toNat
  let p := wbits (m.ops.getD 1 0) 0 3
  let zc := physZ m.base z.val
  let probes := v.probes st sl
  (rowsOf m.rows).foldl (fun (ws, fl, s) i =>
    let row := (List.range 64).map fun c => m.z zc i c
    let vs := row.map val32
    let dot (acc : Word32) (ys : List Val) : Flagged Word32 :=
      let ps := (vs.zip ys).map fun (x, y) => Val.mul x y
      let (v, f) := Val.sum .rne (val32 acc :: ps.map Prod.fst)
      tapRound (v, ps.foldl (fun a r => a ||| r.2) f)
    let rs := probes.map fun b =>
      (zKey p i b.k, dot (m.z p i b.k) ((List.range 64).map fun c => val32 (v.vecElem st (sl.pvoff + 4 * sl.nres * b.k) (64 * j + c))))
    let rs := rs ++ [(zKey (p + 1) i 0, dot (m.z (p + 1) i 0) vs)]
    let s := match (if sl.snap then s.rowBlock m.t i else none) with
      | some w => s.snapResidual m w.pa j row
      | none => s
    (ws ++ rs.map (fun r => RegW.z r.1 r.2.1), rs.foldl (fun a r => a ||| r.2.2) fl, s)) (([] : List RegW), (0 : Word), s)

def State.doTapclr (_ : State) (m : XCmd) : List RegW :=
  let p := wbits (m.ops.headD 0) 0 3
  (rowsOf m.rows).flatMap fun i => [p, p + 1].flatMap fun q => (List.range 64).map fun c => RegW.z (zKey q i c) 0

/-- A quotient of naturals with enough digits to round once; the rest stands in the flag. -/
def quot (neg : Bool) (n d : Nat) (e : Int) : Val := .num neg (n * 2 ^ 1024 / d) (e - 1024) (n * 2 ^ 1024 % d != 0)

/-- √(x/n + 2^-20) (R340), of a number whose sign makes the sum negative there is none. -/
def rmsOf (x : Val) (n : Nat) : Flagged Val :=
  match x with
  | .nan => (.nan, 0)
  | .inf neg => if neg then (.nan, flNV) else (.inf false, 0)
  | .num neg m e _ =>
    -- the sum times n·2^1200, exact: x lies above 2^-150
    let a : Int := ((scaleNat m (e + 1200) : Nat) : Int)
    let v : Int := (if neg then -a else a) + ((n * 2 ^ 1180 : Nat) : Int)
    if v < 0 then (.nan, flNV)
    else
      let q := v.toNat / n
      let r := isqrt 700 0 q
      (.num false r (-600) (v.toNat % n != 0 || r * r != q), 0)

/-- z/q + b, to be rounded once (R340): a division by zero gives an infinity and DZ, 0/0 a NaN and NV (R65, R74). -/
def divAdd (z q b : Val) : Flagged Val :=
  match z, q with
  | .nan, _ => (.nan, 0)
  | _, .nan => (.nan, 0)
  | .inf _, .inf _ => (.nan, if b.isNan then 0 else flNV)
  | .inf a, .num n _ _ _ => Val.add .rne (.inf (a != n)) b
  | .num a _ _ _, .inf n => Val.add .rne (.zero (a != n)) b
  | .num a m e _, .num n k g _ =>
    if k = 0 then
      if m = 0 then (.nan, if b.isNan then 0 else flNV)
      else
        let (v, f) := Val.add .rne (.inf (a != n)) b
        (v, f ||| flDZ)
    else if m = 0 then Val.add .rne (.zero (a != n)) b
    else
      match b with
      | .num bn bm be _ =>
        -- (±m·2^e ± bm·2^be·k·2^g) / (k·2^g) over a common exponent
        let lo := min e (be + g)
        let x : Int := ((m * 2 ^ (e - lo).toNat : Nat) : Int)
        let y : Int := ((bm * k * 2 ^ (be + g - lo).toNat : Nat) : Int)
        let v := (if a != n then -x else x) + (if bn then -y else y)
        if v = 0 then (.zero, 0) else (quot (decide (v < 0)) v.natAbs k (lo - g), 0)
      | x => (x, 0)

/-- What a TAPEVAL finds in one row: score writes, flags, probes that crossed as trap probes, as count-only probes. -/
structure TapRow where
  row : Nat
  ws : List RegW
  fl : Word
  scores : List (Nat × Word32)
  traps : List Nat
  counts : List Nat
  hits : List Nat
  deriving DecidableEq, Repr

def evalRow (m : XCmd) (probes : List Probe) (nres p i : Nat) (hasSeq : Bool) : TapRow :=
  let q := tapRound (rmsOf (val32 (m.z (p + 1) i 0)) nres)
  let rs := probes.map fun b =>
    let z := val32 (m.z p i b.k)
    let (sc, f) := if b.norm then tapRound (divAdd z (val32 q.1) (val32 b.bias)) else tapRound (Val.add .rne z (val32 b.bias))
    let crossed := isNan32 sc || (if b.sense then Cond.fp .lt sc b.thresh else Cond.fp .gt sc b.thresh)
    (b, sc, f, crossed)
  let hit := rs.filter fun r => r.2.2.2
  { row := i, ws := rs.map fun r => .z (zKey p i r.1.k) r.2.1
    fl := rs.foldl (fun a r => a ||| r.2.2.1) q.2
    scores := rs.map fun r => (r.1.k, r.2.1)
    traps := (hit.filter fun r => r.1.act && hasSeq).map fun r => r.1.k
    counts := (hit.filter fun r => !(r.1.act && hasSeq)).map fun r => r.1.k
    hits := hit.map fun r => r.1.k }

/-- HITS saturates, CROSS wraps (R330). -/
def State.tapCounts (s : State) (st : Nat) (sl : TapSlot) (r : TapRow) : State :=
  let s := r.hits.foldl (fun s k =>
    let o := sl.off + 64 + 16 * k + 12
    s.homePutN (s.pa st o) 4 (min (s.tabN st o 4 + 1) 0xFFFFFFFF)) s
  s.homePutN (s.pa st (sl.off + 16)) 4 (s.tabN st (sl.off + 16) 4 + r.counts.length)

/-- Whether the declaring cycle of the thread's job has come before the trap point (R344). -/
def State.jobDeclared (s : State) (t : Tid) : Bool :=
  let th := s.thread t
  th.detached || th.drain == some .ended || (match s.jobOf t with
    | some j => j.dead
    | none => false)

/-- The trap steps of the flagged rows, in row order (R341). -/
def State.tapTraps (s : State) (m : XCmd) (sl : TapSlot) (t : Nat) (rows : List TapRow) : State :=
  rows.foldl (fun s r =>
    if r.traps.isEmpty then s
    else
      let snap : Snap := { slot := t, cross := (r.traps.map (2 ^ ·)).sum, nres := sl.nres, scores := r.scores }
      let (fresh, s) := s.trapRow m.t r.row snap 0x10 t 0
      if fresh then s.homePutN (s.pa m.t.st (sl.off + 20)) 4 (s.tabN m.t.st (sl.off + 20) 4 + 1) else s) s

/-- TAPEVAL (R340, R341, R344): scores land, then the masks, then the rows are trapped. -/
def State.doTapeval (s : State) (m : XCmd) (t : Nat) (b : SReg) (l : LReg) : State :=
  let st := m.t.st
  let v := m.view s
  let sl := v.tapSlot st (s.thread m.t).ctx t
  let p := wbits (m.ops.headD 0) 0 3
  let probes := v.probes st sl
  let rows := (rowsOf m.rows).map fun i => evalRow m probes sl.nres p i (s.rowBlock m.t i).isSome
  let mask (f : TapRow → Bool) : Word := BitVec.ofNat 64 ((rows.filter f).map fun r => 2 ^ r.row).sum
  let fl : Word := rows.foldl (fun a r => a ||| r.fl) 0
  let s := rows.foldl (fun s r => s.tapCounts st sl r) s
  let s := s.landWrites m.t (rows.flatMap TapRow.ws)
  let s := if s.jobDeclared m.t then s else s.tapTraps m sl t rows
  s.landWrites m.t (RegW.l l.val (mask fun r => !r.traps.isEmpty) :: wrS m.base b (mask fun r => !r.counts.isEmpty) ++ [.flags fl])

/-- What a tap word does as it completes. -/
def State.tapEffect (s : State) (m : XCmd) : State :=
  let c := (s.thread m.t).ctx
  let st := m.t.st
  match m.instr with
  | .tapsel _ t a =>
    let sl := (m.view s).tapSlot st c t.val
    s.landWrites m.t (wrS m.base a (if sl.v then BitVec.ofNat 64 (2 ^ 63 + sl.nprb * 2 ^ 16 + sl.nres) else 0))
  | .tapstr _ t _ z => let (ws, fl, s) := s.doTapstr m t.val z; s.landWrites m.t (ws ++ [.flags fl])
  | .tapdot _ t _ _ z => let (ws, fl, s) := s.doTapdot m t.val z; s.landWrites m.t (ws ++ [.flags fl])
  | .tapclr _ _ => s.landAmong m.t (m.done / 4 - 2) m.seq (s.doTapclr m)
  | .tapeval _ t _ b l => s.doTapeval m t.val b l
  | .taprd _ t a _ =>
    let sl := (m.view s).tapSlot st c t.val
    s.landWrites m.t (wrS m.base a (BitVec.ofNat 64 (if m.ops.headD 0 = 0 then sl.traps else sl.cross)))
  | .tapprb _ _ _ _ => s.homePut (s.pa st (m.ops.headD 0).toNat) m.data
  | .tapstv _ _ _ => s.homePut (s.pa st (m.ops.headD 0).toNat) m.data
  | _ => s

/-- X_WORD_COMPLETE (R335). -/
def execXWordComplete (t : Tid) (s : State) : Outcome State Fault Refusal :=
  match (s.core t.st t.co).xs.find? fun m => m.t == t with
  | none => .next s
  | some m =>
    if s.cyc < m.done then .next s
    else .next ((s.modCore t.st t.co fun k => { k with xs := k.xs.filter fun m => m.t != t }).tapEffect m)

end Sys2Proof.Machine
end

