-- ==== Sys2Proof/Machine/Launch.lean ====
section
/-! DEFINITION. Reads that the dispatcher makes for a context, fragment headers and grants (R56, R322, R323), windows and
allotments (R145, R146, R323, R324), the launch state (R77, R325, R354), the save record and its restore (R311, R314, R315,
R415). -/

namespace Sys2Proof.Machine

/-! Reads through a context's translation. -/

/-- Bytes at a virtual address of a context, at their home slices, or the fault of the first page that does not translate or
lacks R (R192). A control block is reached by LD and ST alone (R410, log 79). -/
def State.virtRead (s : State) (st c : Nat) (priv : Priv) (va n : Nat) : Except FRec (List Byte) :=
  (pagesOf va n).foldl (fun acc a =>
    match acc with
    | .error f => .error f
    | .ok l =>
      let k := min (va + n) ((a / 4096 + 1) * 4096) - a
      match s.checkHost (dispTid st) c a k (s.xlateFull (dispTid st) c priv a .read) with
      | .pa pa _ => if s.paKind pa = .control ∨ s.paKind pa = .rctl then .error (fXlate 0x2 (s.leafLevel (dispTid st) c a) (BitVec.ofNat 64 a)) else .ok (l ++ s.homeBytes pa k)
      | .seg f b => if s.frameHas st f b k then .ok (l ++ s.segBytes st f b k) else .error (fXlate 0x1 0 (BitVec.ofNat 64 a))
      | .fault sub level => .error (fXlate sub level (BitVec.ofNat 64 a))
      | _ => .error (fXlate 0x1 0 (BitVec.ofNat 64 a))) (.ok [])

/-- What a read of the dispatcher's own finds in memory (R371). -/
def State.virtMarks (s : State) (st c : Nat) (priv : Priv) (va n : Nat) : State :=
  (pagesOf va n).foldl (fun s a =>
    match s.xlateFull (dispTid st) c priv a .read with
    | .pa pa _ => s.readMarks pa (min (va + n) ((a / 4096 + 1) * 4096) - a)
    | _ => s) s

/-- Where a write of the dispatcher's own at a virtual address of a context goes: to memory, or to a usable host window. -/
def State.dispTarget (s : State) (st c va n : Nat) : Option Nat :=
  match s.checkHost (dispTid st) c va n (s.xlateFull (dispTid st) c .supervisor va .write) with
  | .pa pa _ => if s.paKind pa = .control ∨ s.paKind pa = .rctl then none else some pa
  | _ => none

def State.virtBytes (s : State) (st c : Nat) (priv : Priv) (va n : Nat) : Option (List Byte) := (s.virtRead st c priv va n).toOption

def State.virtN (s : State) (st c : Nat) (priv : Priv) (va n : Nat) : Option Nat := (s.virtBytes st c priv va n).map leNat

/-! Headers and grants. -/

/-- Word 0 of a fragment header: one that cannot be read declares nothing, and the thread meets the fault at its first word. -/
def State.header (s : State) (st c frag : Nat) : Word := BitVec.ofNat 64 ((s.virtN st c .supervisor frag 8).getD 0)

def hdrPlanes (h : Word) : Nat := wbits h 52 4
def hdrRows (h : Word) : Nat := wbits h 40 12
def hdrUnits (h : Word) : Nat := wbits h 30 10

/-- Whether a header stays within a context's grants (R323): values outside a field's range act as its largest (R322). -/
def State.granted (s : State) (st c : Nat) (h : Word) : Bool :=
  let g (lo n cap : Nat) := min (s.desc st c 2 lo n) cap
  decide (hdrPlanes h ≤ g 60 4 8) && decide (hdrRows h ≤ g 48 12 1984) && decide (hdrUnits h ≤ g 38 10 768) &&
    decide (wbits h 24 6 ≤ g 32 6 16) && decide (wbits h 20 4 ≤ g 28 4 8)

/-- The declared budget as a grant cuts it (R322). -/
def State.cutBud (s : State) (st c n : Nat) : Nat := let g := s.desc st c 3 0 32; if g = 0 then n else min n g

/-! Windows and allotments: contiguous, at multiples of their unit, the lowest that is free. -/

def findRoom (used : List (Nat × Nat × Nat)) (step size cap : Nat) : Option Nat :=
  if size = 0 then some 0
  else (List.range (cap / step)).findSome? fun i =>
    let b := i * step
    if b + size ≤ cap ∧ used.all (fun u => decide (b + size ≤ u.2.1) || decide (u.2.1 + u.2.2 ≤ b)) then some b else none

def Core.rowRoom (k : Core) (rows : Nat) : Option Nat := findRoom k.wins 64 rows 1984
def Core.csRoom (k : Core) (units : Nat) : Option Nat := findRoom k.allot 4096 (units * 4096) (768 * 4096)

/-- Whether a job's window and allotment can be made on its core. -/
def State.canPlace (s : State) (st co rows units : Nat) : Bool :=
  ((s.core st co).rowRoom rows).isSome && ((s.core st co).csRoom units).isSome

/-- Units of an allotment and rows of a window that another context wrote last (R146, R324). -/
def Core.staleUnits (k : Core) (ctx base units : Nat) : List Nat :=
  ((List.range units).map (base / 4096 + ·)).filter fun u => Tab.get k.csOwner u != some ctx
def Core.staleRows (k : Core) (ctx base rows : Nat) : List Nat :=
  ((List.range rows).map (base + ·)).filter fun r => Tab.get k.accOwner r != some ctx

/-- The zeroing of an allotment and of a window before a thread's first words. -/
def Core.scrub (k : Core) (ctx csBase units accBase rows : Nat) : Core :=
  { k with
    cs := (k.staleUnits ctx csBase units).foldl (fun m u => Cells.clear m (u * 4096) 4096) k.cs
    acc := (k.staleRows ctx accBase rows).foldl (fun m r => Cells.clear m (r * 256) 256) k.acc }

/-! Launch state. -/

/-- What a launch needs to know. -/
structure Launch where
  t : Tid
  ctx : Nat
  forCtx : Nat := 0
  kind : TKind
  priv : Priv
  tier : Nat := 0
  job : Nat := 0
  hdr : Word
  frag : Nat
  live : Word
  slate : List Word
  dl : Word
  bud : Nat
  segtag : Word := 0
  slateVa : Word := 0
  jobid : Word := 0
  seg : Nat × Nat := (0, 0)
  row0 : Word := 0
  winBase : Nat := 0
  csBase : Nat := 0
  pw0 : Option (List Byte) := none

/-- Context defaults (R66, R168, R322). -/
def rmDefault (v : Nat) : Nat := if v = 0 ∨ 5 < v then 1 else v
def mchkDefault (v : Nat) : Nat := if v = 0 then 0 else if v < 4 then 4 else if 16 < v then 16 else v
def ywinDefault (v : Nat) : Nat := if v = 0 then 4096 else clampYwin v

/-- The windows that the binding table of a context binds: number, address, size (R325). -/
def State.bindings (s : State) (p : Launch) : List (Nat × Nat × Nat) :=
  let st := p.t.st
  let base := s.desc st p.ctx 5 0 64
  let bind (n : Nat) : Option (Nat × Nat × Nat) :=
    if base = 0 then none
    else
      match s.virtN st p.ctx .supervisor (base + 16 * n) 8, s.virtN st p.ctx .supervisor (base + 16 * n + 8) 8 with
      | some a, some d =>
        let size := min (bits d 0 11) 1024
        let addr := if tbit d 63 then (if p.row0 = 0 then none else some ((p.row0.toNat + a) % 2 ^ 64)) else some a
        match addr with
        | none => none
        | some va => if size = 0 then none else some (n, va, size)
      | _, _ => none
  (List.range 8).filterMap bind

/-- The parameter windows: the bindings that can be read (R325). -/
def State.params (s : State) (p : Launch) : Tab (List Byte) :=
  let tab := (s.bindings p).foldl (fun t (n, va, size) => match s.virtBytes p.t.st p.ctx p.priv va size with
    | some bs => Tab.set t n bs
    | none => t) ([] : Tab (List Byte))
  match p.pw0 with
  | some bs => Tab.set (tab.filter fun x => x.1 != 0) 0 bs
  | none => tab

/-- The preload records of a fragment (R56): stream number, and its bytes where they can be read. -/
def State.preloads (s : State) (p : Launch) : List (Nat × Except FRec (List Word)) :=
  let st := p.t.st
  let rd (va n : Nat) := s.virtN st p.ctx .supervisor va n
  let mask := bits ((rd (p.frag + 16) 8).getD 0) 16 16
  let off := bits ((rd (p.frag + 24) 8).getD 0) 32 32
  let gs := (List.range 16).filter (tbit mask)
  (gs.zip (List.range gs.length)).map fun (g, i) =>
    (g, (s.virtRead st p.ctx .supervisor (p.frag + off + 64 * i) 64).map fun bs =>
      (List.range 8).map fun d => (BitVec.ofNat 64 (leNat ((bs.drop (8 * d)).take 8)) : Word))

/-- The state of R77. -/
def State.launchThread (s : State) (p : Launch) : Thread :=
  let st := p.t.st
  let c := p.ctx
  let th : Thread :=
    { hdr := p.hdr, winBase := p.winBase, csBase := p.csBase, kind := p.kind, ctx := c, forCtx := p.forCtx, priv := p.priv
      tier := p.tier, job := p.job, ctl := [], l := Cells.set [] 0 p.live, pw := s.params p
      slate := Cells.setAll [] ((List.range 8).zip p.slate), segExp := p.seg.1, segLen := p.seg.2
      mchk := mchkDefault (s.desc st c 1 48 5), launched := s.cyc, slot := p.t.tx
      spl := { pc := BitVec.ofNat 64 (p.frag + 32), resumeAt := (s.cyc + 4 - p.t.tx % 4) / 4 } }
  let set (th : Thread) (x : Nat × Word) : Thread := th.setCreg x.1 x.2
  [(crRM, BitVec.ofNat 64 (rmDefault (s.desc st c 1 18 3))), (crFZ, BitVec.ofNat 64 (s.desc st c 1 21 2)),
   (crDPH, BitVec.ofNat 64 (s.desc st c 1 23 8)), (crYWIN, BitVec.ofNat 64 (ywinDefault (s.desc st c 1 31 17))),
   (crDL, th.capDl p.dl), (crBUD, BitVec.ofNat 64 p.bud), (crSEGTAG, p.segtag), (crSLATE, p.slateVa), (crJOBID, p.jobid)].foldl set th

/-- Loads and pins the preloaded streams; the first that cannot be read or pinned faults at the fragment's first word (R157). -/
def State.preload (s : State) (p : Launch) : State :=
  (s.preloads p).foldl (fun s (g, r) =>
    let bad (s : State) (f : FRec) : State := s.modThread p.t fun th =>
      match th.spl.stop with
      | .bad _ => th
      | _ => { th with spl := { th.spl with stop := .bad { f with pc := th.spl.pc } } }
    match r with
    | .error f => bad s f
    | .ok ws =>
      let (ws, rsv) := cleanRecord ws
      let (pin, s) := s.pin p.t ws
      match pin with
      | .ok q => s.modThread p.t fun th => (th.orFlags (flagIf rsv flRSVWARN)).setStream g ws q
      | .error f => bad (s.modThread p.t fun th => th.setStream g ws none) f) s

/-- What the reads of a launch find in memory: of the fragment's header, the binding table and the windows (R371). -/
def State.launchMarks (s : State) (p : Launch) : State :=
  let base := s.desc p.t.st p.ctx 5 0 64
  let s := s.virtMarks p.t.st p.ctx .supervisor p.frag 32
  let s := if base = 0 then s else s.virtMarks p.t.st p.ctx .supervisor base 128
  (s.bindings p).foldl (fun s (_, va, n) => s.virtMarks p.t.st p.ctx p.priv va n) s

/-- A launch: zeroing, launch state, streams; the first word waits for the zeroing (R324), the first Vat command for that of its
rows (R146). -/
def State.launch (s : State) (p : Launch) : State :=
  let k := s.core p.t.st p.t.co
  let units := hdrUnits p.hdr
  let rows := if p.kind = .handler then 0 else hdrRows p.hdr
  let nu := (k.staleUnits p.ctx p.csBase units).length
  let nr := (k.staleRows p.ctx p.winBase rows).length
  let th := s.launchThread p
  let s := (s.launchMarks p).setCore p.t.st p.t.co (k.scrub p.ctx p.csBase units p.winBase rows)
  let s := s.setThread p.t { th with notBefore := s.cyc + 4 * nu, vatAt := s.cyc + 8 * ((nr + 63) / 64) }
  s.preload p

/-! Jobs onto threads. -/

/-- The job number of R283. -/
def jobId (t : Tid) (num : Nat) : Word := BitVec.ofNat 64 (t.st * 2 ^ 58 + t.co * 2 ^ 55 + t.tx * 2 ^ 52 + num % 2 ^ 32)

/-- A job context is free for launch: no thread stands in it and no handler borrows its slot (R355). -/
def State.ctxFree (s : State) (t : Tid) : Bool :=
  (s.thread t).status == .free && ([4, 5].all fun tx => let h := s.thread ⟨t.st, t.co, tx⟩; !(h.slotHeld && h.slot == t.tx && h.status != .free))

/-- Whether a debugger holds a thread context halted (R316, R317): a thread that starts in it is halted too. -/
def State.dbgHeld (s : State) (t : Tid) (ctx : Nat) : Bool :=
  let d := s.cb t.st (0x1B00 + 0x10 * t.co)
  tbit (s.cb t.st 0x1A90).toNat ctx && (d.getLsbD (14 + t.tx) || d.getLsbD 20)

/-- Allots a job its window and core store. -/
def State.place_ (s : State) (st co id rows units : Nat) : Option (Nat × Nat × State) :=
  match (s.core st co).rowRoom rows, (s.core st co).csRoom units with
  | some w, some a =>
    some (w, a, s.modCore st co fun k =>
      { k with wins := if rows = 0 then k.wins else k.wins ++ [(id, w, rows)], allot := if units = 0 then k.allot else k.allot ++ [(id, a, units * 4096)] })
  | _, _ => none

/-- A refused launch (R323). -/
def State.refuseLaunch (s : State) (st : Nat) (j : Job) : State := ((s.skipRows st j).discardJob st j.id).count st 0x2418

/-- JOB_LAUNCH (R77, R283, R323). -/
def State.launchJob (s : State) (t : Tid) (j : Job) : State :=
  let st := t.st
  let h := s.header st j.ctx j.frag.toNat
  if !s.granted st j.ctx h then s.refuseLaunch st j
  else
    match s.place_ st t.co j.id (hdrRows h) (hdrUnits h) with
    | none => s
    | some (w, a, s) =>
      let id := jobId t j.num
      let rows := j.rows.length
      let slate : List Word := [BitVec.ofNat 64 rows, j.live, (if j.slRec.isNone then 0 else j.slVa + 64), j.segwin, BitVec.ofNat 64 j.stripe,
        BitVec.ofNat 64 j.ctx, j.frag, BitVec.ofNat 64 j.arrive]
      let s := s.modCore st t.co fun k => { k with posted := k.posted.filter (· != j.id) }
      let s := s.modJob st j.id fun k => { k with st := .launched t.tx, jobid := id, hdr := h, slate := Cells.setAll [] ((List.range 8).zip slate) }
      let s := s.launch
        { t := t, ctx := j.ctx, kind := j.kind, priv := s.ctxPriv st j.ctx, tier := j.tier, job := j.id
          hdr := h, frag := j.frag.toNat, live := j.live, slate := slate, dl := BitVec.ofNat 64 j.dl, bud := s.cutBud st j.ctx j.bud
          segtag := j.tag, slateVa := j.slVa, jobid := id, seg := (j.expiry, j.segLen)
          row0 := ((j.rows.head?).map Row.va).getD 0, winBase := w, csBase := a }
      s.modThread t fun th => { th with status := .running, slotHeld := true, halted := s.dbgHeld t th.ctx, haltCyc := s.cyc }

/-! Save records (R311, R415). -/

def recSize (h : Word) : Nat := 16384 + 16384 * hdrPlanes h + 1024 * hdrRows h + 4096 * hdrUnits h

/-- The lowest free record of a context that holds a record of the given size (R313). -/
def State.freeRec (s : State) (st c size : Nat) : Option Nat :=
  if s.cbBits st (0x1808 + 0x20 * c) 0 16 * 65536 < size then none
  else (List.range (s.cbBits st (0x1808 + 0x20 * c) 16 16)).find? fun n => s.recState st c n == 0

def dws (ws : List Word) : List Byte := ws.flatMap fun w => leBytes 8 w.toNat
def pad (bs : List Byte) (n : Nat) : List Byte := (bs ++ List.replicate n 0).take n

/-- A queue image entry: only the head keeps a delay. -/
def Entry.image (e : Entry) (delay : Nat) : List Byte :=
  leBytes 4 e.word ++ leBytes 4 (e.exts.getD 0 0) ++ leBytes 4 (e.exts.getD 1 0) ++
    [BitVec.ofNat 8 (128 + e.exts.length * 16 + e.base % 8), BitVec.ofNat 8 (min delay 255), BitVec.ofNat 8 (e.pass % 64), 0]

def Thread.queueImage (th : Thread) (q : QName) (now : Nat) : List Byte :=
  let x := th.queue q
  pad ((x.es.zip (List.range x.es.length)).flatMap fun (e, i) => e.image (if i = 0 then x.ready - now else 0)) 0x200

def BSlot.image (b : BSlot) : List Byte :=
  dws [BitVec.ofNat 64 (b.addr / 16 * 16 + b.member.toNat * 2 + b.bound.toNat), BitVec.ofNat 64 (b.arrived.toNat * 2 ^ 32 + b.arrPhase * 2 ^ 16 + b.phase)]

/-- The fixed part of a record, 16 KiB, of a save that began in cycle `at_`; S0 to S31 go by name (log 44). -/
def State.recordHead (s : State) (t : Tid) (cause at_ : Nat) : List Byte :=
  let th := s.thread t
  let cr (n : Nat) : Word := th.creg n
  let fields (n w : Nat) (f : Nat → Nat) : Word := BitVec.ofNat 64 (((List.range n).map fun i => f i % 2 ^ w * 2 ^ (w * i)).sum)
  let size (n : Nat) : Nat := (Tab.get th.pw n).length
  let head := dws ([BitVec.ofNat 64 (2 + cause * 256 + th.tier * 65536 + th.ctx * 2 ^ 24), cr crJOBID, cr crDL, cr crBUD, cr crSEGTAG, cr crSLATE,
      BitVec.ofNat 64 at_, th.spl.pc, BitVec.ofNat 64 (th.planes + th.accRows * 2 ^ 16 + hdrUnits th.hdr * 2 ^ 32),
      cr crRM, cr crFZ, cr crDPH, cr crFLAGS, cr crLC, cr crEC, cr crKINC, cr crRRB, BitVec.ofNat 64 (th.pred th.rrb),
      fields 4 8 fun i => (Cells.get th.k i).toNat] ++ (List.range 4).map (Cells.get th.l ·) ++
      [fields 4 8 fun i => (cr (crDT + i)).toNat, fields 8 4 fun w => (th.tokens w).length, cr crCPROG,
       BitVec.ofNat 64 (th.mchk + th.cmds % 2 ^ 32 * 2 ^ 32), BitVec.ofNat 64 (th.spl.pass % 64 + (cr crYWIN).toNat * 2 ^ 32), th.trapped, th.removed,
       fields 4 16 size, fields 4 16 fun i => size (i + 4)])
  let ss := dws ((List.range 32).map fun i => if i = 0 then 0 else Cells.get th.s (physS th.rrb i))
  let bs := (List.range 16).flatMap fun n => (th.bslot n).image
  let nest := dws ((List.range 16).map (Cells.get th.nest ·))
  let gs := dws ((List.range 128).map fun i => if i % 8 = 7 then Cells.get th.g i &&& 0xFFFF000000000000 else Cells.get th.g i)
  let qs := [QName.s, .v, .m, .c, .x].flatMap fun q => th.queueImage q (at_ / 4)
  let pws := (List.range 8).flatMap fun n => pad (Tab.get th.pw n) 1024
  pad head 0x100 ++ ss ++ bs ++ pad nest 0x100 ++ gs ++ pad qs 0x1800 ++ pws

/-- Writes a record at its home slices. -/
def State.writeRecord (s : State) (t : Tid) (cause at_ pa : Nat) : State :=
  let th := s.thread t
  let k := s.core t.st t.co
  let head := s.recordHead t cause at_
  let z := (List.range (4096 * th.planes)).flatMap fun i => leBytes 4 (Cells.get th.z i).toNat
  let acc := (List.range (256 * th.accRows)).flatMap fun i => leBytes 4 (Cells.get k.acc (256 * th.winBase + i)).toNat
  let cs := k.cs.bytes th.csBase th.csBytes
  ((s.homePut pa head).homePut (pa + 16384) z).homePut (pa + 16384 + z.length) (acc ++ cs)

/-- A queue as an image holds it, with the addresses and stream numbers that the job keeps; the head's remaining delay counts from
the end of the restore. -/
def State.imageQueue (s : State) (pa : Nat) (places : List (Word × Nat)) : Queue :=
  let es := (List.range 32).filterMap fun i =>
    let a := pa + 16 * i
    let c := s.homeN (a + 12) 1
    let x := places.getD i (0, 0)
    if !tbit c 7 then none
    else
      some ({ word := s.homeN a 4, exts := ([s.homeN (a + 4) 4, s.homeN (a + 8) 4]).take (min (bits c 4 2) 2), pc := x.1, seq := x.2
              base := bits c 0 3, pass := bits (s.homeN (a + 14) 1) 0 6 } : Entry)
  { es := es, ready := s.homeN (pa + 13) 1 }

/-- What a saved job keeps of its queues. -/
def Thread.places (th : Thread) : List (List (Word × Nat)) :=
  [QName.s, .v, .m, .c, .x].map fun q => (th.queue q).es.map fun e => (e.pc, e.seq)

def BSlot.ofImage (d0 d1 : Nat) : BSlot :=
  { bound := tbit d0 0, member := tbit d0 1, addr := d0 / 16 * 16, phase := bits d1 0 16, arrPhase := bits d1 16 16, arrived := tbit d1 32 }

/-- The thread that a record holds (R314); reserved bits of the record are ignored (R415, R8). -/
def State.recordThread (s : State) (t : Tid) (j : Job) (pa w a : Nat) : Thread :=
  let d (o : Nat) : Word := BitVec.ofNat 64 (s.homeN (pa + o) 8)
  let fits (lo n : Nat) (o : Nat) : Word := BitVec.ofNat 64 (wbits (d o) lo n)
  let ctl : List (Nat × Word) := [(crDL, d 0x10), (crBUD, fits 0 32 0x18), (crSEGTAG, d 0x20), (crSLATE, d 0x28), (crJOBID, d 0x08 &&& 0xFFF00000FFFFFFFF),
    (crRM, BitVec.ofNat 64 (rmDefault (wbits (d 0x48) 0 3))), (crFZ, fits 0 2 0x50), (crDPH, fits 0 8 0x58), (crFLAGS, d 0x60 &&& 0xE1FF),
    (crLC, fits 0 32 0x68), (crEC, fits 0 10 0x70), (crKINC, fits 0 24 0x78), (crRRB, fits 0 3 0x80), (crCPROG, d 0xC8 &&& 0x80000000FFFFFFFF),
    (crYWIN, BitVec.ofNat 64 (clampYwin (wbits (d 0xD8) 32 17)))] ++ (List.range 4).map fun i => (crDT + i, BitVec.ofNat 64 (wbits (d 0xB8) (8 * i) 8))
  let base := wbits (d 0x80) 0 3
  let preds := d 0x88
  let p : BitVec 8 := (List.range 7).foldl (fun p i => setP p (physP base (i + 1)) (preds.getLsbD (i + 1))) 0
  let nz := wbits (d 0x40) 0 4
  let qat (k : Nat) : Queue := s.imageQueue (pa + 0x800 + 0x200 * k) (j.places.getD k [])
  let removed := d 0xE8 ||| j.gone
  let rows : Word := ~~~ (d 0xE0 ||| removed)
  let gs := (List.range 16).map fun g => (List.range 8).map fun i => d (0x400 + 64 * g + 8 * i)
  { s := Cells.setAll [] ((List.range 32).map fun i => (physS base i, d (0x100 + 8 * i)))
    p := p
    k := Cells.setAll [] ((List.range 4).map fun i => (i, BitVec.ofNat 6 (wbits (d 0x90) (8 * i) 6)))
    l := Cells.setAll [] ((List.range 4).map fun i => (i, if i = 0 then d 0x98 &&& rows else d (0x98 + 8 * i)))
    z := Cells.setAll [] ((List.range (4096 * nz)).map fun i => (i, BitVec.ofNat 32 (s.homeN (pa + 0x4000 + 4 * i) 4)))
    g := Cells.setAll [] ((List.range 128).zip (gs.flatMap fun ws => (cleanRecord ws).1))
    tok := (List.range 8).foldl (fun t w => Tab.set t w (List.replicate (wbits (d 0xC0) (4 * w) 4) none)) []
    ctl := Cells.setAll [] ctl
    slots := (List.range 16).foldl (fun t n => Tab.set t n (BSlot.ofImage (d (0x200 + 16 * n)).toNat (d (0x208 + 16 * n)).toNat)) []
    nest := Cells.setAll [] ((List.range 16).map fun i => (i, d (0x300 + 8 * i)))
    pw := (List.range 8).foldl (fun t n =>
      let size := wbits (d (if n < 4 then 0xF0 else 0xF8)) (16 * (n % 4)) 11
      if size = 0 then t else Tab.set t n (s.homeBytes (pa + 0x2000 + 1024 * n) size)) []
    hdr := j.hdr, winBase := w, csBase := a, slate := j.slate, segExp := j.expiry, segLen := j.segLen
    mchk := wbits (d 0xD0) 0 5, cmds := wbits (d 0xD0) 32 32, trapped := d 0xE0, removed := removed
    status := .running, kind := j.kind, ctx := j.ctx, priv := s.ctxPriv t.st j.ctx, tier := j.tier, job := j.id
    qs := qat 0, qv := qat 1, qm := qat 2, qc := qat 3, qx := qat 4
    spl := { pc := d 0x38, pass := wbits (d 0xD8) 0 6, base := base, stop := j.stop, resumeAt := 0 }
    seq := j.seq, slot := t.tx, slotHeld := true, launched := s.cyc }

/-- The mailbox entries that name a record, oldest first, replayed and cleared (R315). -/
def State.replay (s : State) (t : Tid) (c n : Nat) : State :=
  let o := 0x1810 + 0x20 * c
  let size := s.cbBits t.st (o + 8) 0 16
  let head := s.cbBits t.st (o + 8) 32 16
  (List.range size).foldl (fun s i =>
    let a := s.pa t.st (s.cbBits t.st o 0 35 + 16 * ((head + i) % size))
    if s.homeN a 16 = 0 ∨ s.homeN (a + 10) 2 ≠ n then s
    else
      let v : Word := BitVec.ofNat 64 (s.homeN a 8)
      let ph := s.homeN (a + 8) 2
      let s := s.modThread t fun th =>
        let b := th.bslot (slotOf v)
        if b.bound ∧ b.addr = slotAddr v then th.setBslot (slotOf v) { b with flipped := some ph } else th
      s.homePutN a 16 0) s

/-- The end of a restore (R314): once the parts are written back, the streams are pinned again as far as they can be (a fault comes at
the first command that uses one), the mailbox is replayed and the acquire begins; once it is made (R201), the heads begin their
remaining delays, and the record is free. -/
def State.endRestore (s : State) (t : Tid) : State :=
  let th := s.thread t
  match th.restoring with
  | none => s
  | some (n, due) =>
    if s.cyc < th.notBefore then s
    else if due = 0 then
      let s := (s.invalidate t.st t.co .system).freeRecord t.st th.ctx n
      s.modThread t fun th =>
        let th := QName.all.foldl (fun (th : Thread) q => th.setQueue q { th.queue q with ready := s.tcyc + (th.queue q).ready }) th
        { th with restoring := none }
    else
      let s := (List.range 16).foldl (fun s g =>
        if (Stream.of (th.stream g)).space = 1 then
          match s.pin t (th.stream g) with
          | (.ok p, s) => s.modThread t fun th => { th with pins := Tab.set th.pins g p }
          | (.error _, s) => s
        else s) s
      let s := s.replay t th.ctx n
      s.modThread t fun th => { th with restoring := some (n, 0), notBefore := s.cyc + s.invalTime t.st t.co .system }

/-- JOB_RESTORE (R314, R310): the record's parts are written back; `State.endRestore` does the rest. -/
def State.restoreJob (s : State) (t : Tid) (j : Job) (n : Nat) : State :=
  let st := t.st
  match s.place_ st t.co j.id (hdrRows j.hdr) (hdrUnits j.hdr) with
  | none => s
  | some (w, a, s) =>
    let pa := s.pa st (s.recOff st j.ctx n)
    let th := s.recordThread t j pa w a
    let nz := 16384 * hdrPlanes j.hdr
    let nr := 1024 * hdrRows j.hdr
    let rows := hdrRows j.hdr
    let units := hdrUnits j.hdr
    let s := s.modCore st t.co fun k =>
      { k with
        posted := k.posted.filter (· != j.id), copyq := false
        acc := Cells.setAll (Cells.clear k.acc (256 * w) (256 * rows)) ((List.range (256 * rows)).map fun i => (256 * w + i, BitVec.ofNat 32 (s.homeN (pa + 16384 + nz + 4 * i) 4)))
        accOwner := (List.range rows).foldl (fun o i => Tab.set o (w + i) (some j.ctx)) k.accOwner
        cs := Memory.writeBytes k.cs a (s.homeBytes (pa + 16384 + nz + nr) (4096 * units))
        csOwner := (List.range units).foldl (fun o i => Tab.set o (a / 4096 + i) (some j.ctx)) k.csOwner }
    let s := s.modJob st j.id fun k => { k with st := .launched t.tx }
    let cycles := 64 + (recSize j.hdr + 255) / 256
    let s := s.setThread t { th with notBefore := s.cyc + cycles, restoring := some (n, s.cyc + cycles)
                                     halted := s.dbgHeld t j.ctx, haltCyc := s.cyc, kvRestart := j.kvRestart, short := j.short }
    s.setRecState st j.ctx n 3

/-- A handler thread is launched (R354). -/
def State.launchHandler (s : State) (t : Tid) (r : HReq) (handle : Word) : Option State :=
  let st := t.st
  let hc := s.hctx st r.ctx
  let frag := s.desc st r.ctx 4 0 64
  let h := s.header st hc frag
  let id := (s.station st).nextJob
  let s := s.modStation st fun x => { x with nextJob := id + 1 }
  if !s.granted st hc h then some (s.haltCtx st r.ctx 3)
  else
    match (s.core st t.co).csRoom (hdrUnits h) with
    | none => none
    | some a =>
      let s := s.modCore st t.co fun k => { k with allot := if hdrUnits h = 0 then k.allot else k.allot ++ [(id, a, hdrUnits h * 4096)] }
      let gb := s.desc st hc 3 0 32
      let slate : List Word := [1, 1, 0, 0, 0, BitVec.ofNat 64 hc, BitVec.ofNat 64 frag, s.cycWord]
      let s := s.launch
        { t := t, ctx := hc, forCtx := r.ctx, kind := .handler, priv := .supervisor, job := id, hdr := h, frag := frag, live := 1, slate := slate
          dl := BitVec.allOnes 64, bud := if gb = 0 then 262144 else gb, winBase := 1984, csBase := a
          pw0 := some (leBytes 8 handle.toNat ++ r.rcd.drop 8) }
      some (s.modThread t fun th => { th with status := .waiting, slotHeld := false, slot := 8 })

end Sys2Proof.Machine
end

