-- ==== Sys2Proof/Machine/EvThread.lean ====
section
/-! DEFINITION. What the hardware does with a thread of itself: SPLITTER_FETCH, FIXED_LATENCY_WRITE_LAND, L1_INVALIDATE_COMPLETE,
FAULT_DETECT, FREEZE_COMPLETE, BUDGET_EXHAUSTED, JOB_COMPLETE, FORCED_SAVE, SAVE_RECORD_WRITE (R26, R27, R29, R32, R85, R94, R100,
R201, R270, R284, R297, R310, R311, R349 to R353, R362). -/

namespace Sys2Proof.Machine

open Host

/-! The splitter. -/

end Sys2Proof.Machine

namespace Sys2Proof

/-- Control-transfer words, after which the splitter stops (R27). -/
def Instr.transfers : Instr → Bool
  | .br _ _ => true | .brc _ _ _ _ => true | .call _ _ => true | .ret _ _ => true | .jtab _ _ _ => true | .loopend _ _ => true
  | .brk _ _ => true | .retire _ => true | .yield_ _ => true | .syscall _ _ => true | .trap _ _ => true | _ => false

/-- An unguarded LOOP: the words placed after it are in pass 0 (R95). -/
def Instr.startsLoop : Instr → Bool
  | .loop c _ _ _ _ => !c.mods.any (·.gen) | _ => false

/-- Privileged words (R48, R97), with the control part of the word. -/
def Instr.privileged : Instr → Option Ctl
  | .ttarm c _ _ => some c | .haltx c _ => some c | .frzinfo c _ _ => some c | .frzrd c _ _ _ => some c | .frzwr c _ _ _ => some c
  | .frzld c _ _ _ => some c | .frzst c _ _ _ => some c | .frzarv c _ _ => some c | .frzres c _ _ => some c | .frzkil c _ => some c
  | .tapprb c _ _ _ => some c | .tapstv c _ _ => some c
  | .setc c _ .tbskew => some c | .setc c _ .dl => some c | .setc c _ .ywin => some c
  | _ => none

/-- Whether a word carries a guard. -/
def Ctl.guarded (c : Ctl) : Bool := c.mods.any (·.gen)

end Sys2Proof

namespace Sys2Proof.Machine

open Host

/-- The word at a physical address as the core's instruction cache gives it (R12, R16): a block that it does not hold is filled from the
home slices; of one that memory has left behind either word may be read (log 83). -/
def State.codeWord (s : State) (t : Tid) (pa : Nat) : Nat × State :=
  let k := pa / 64
  let c := s.core t.st t.co
  let v := s.homeN pa 4
  let fill : State := (s.readMarks (64 * k) 64).setCore t.st t.co
    { c with icache := ((k, s.homeBytes (64 * k) 64) :: c.icache.filter fun e => e.1 != k).take (Config.icacheBytes / 64) }
  match c.icache.find? fun e => e.1 == k with
  | none => (v, fill)
  | some e =>
    let w := leNat ((e.2.drop (pa % 64)).take 4)
    if w = v then (v, s)
    else
      let (old, s) := s.freeBit
      if old then (w, s) else (v, { fill with freeCtr := s.freeCtr })

/-- The word at an address of a thread's context as a fetch reads it, or the fault (R182, R249). -/
def State.fetch (s : State) (t : Tid) (pc : Nat) : Except FRec Nat × State :=
  let th := s.thread t
  let va : Word := BitVec.ofNat 64 pc
  match s.xlateTo t th.ctx th.priv pc 4 .fetch with
  | (.fault sub level, s) => (.error { fXlate sub level va with pc := va }, s)
  | (.pa a _, s) =>
    match s.paKind a with
    | .control | .rctl => State.dropOn t th.ctx pc (.error { fXlate 0x2 (s.leafLevel t th.ctx pc) va with pc := va }, s)
    | .gone => State.dropOn t th.ctx pc (.error { fXlate 0x5 (s.leafLevel t th.ctx pc) va with pc := va }, s)
    | _ =>
      let (w, s) := s.codeWord t a
      (.ok w, s)
  | (_, s) => (.error { fXlate 0x1 0 va with pc := va }, s)

/-- Whether a fetch waits for a page under migration, of the code or of a table (R252). -/
def State.fetchWaits (s : State) (t : Tid) (pc : Nat) : Bool :=
  let th := s.thread t
  s.walkWaits t th.ctx pc || match s.xlateFull t th.ctx th.priv pc .fetch with
    | .pa a _ => s.pageHeld a
    | _ => false

/-- The EXT words that follow a word, at most two (R35); a following address that cannot be fetched has none. -/
def State.fetchExts (s : State) (t : Tid) : Nat → Nat → List Nat × State
  | 0, _ => ([], s)
  | n + 1, pc =>
    match s.fetch t pc with
    | (.ok w, s) =>
      if isExt w then
        let (ws, s) := s.fetchExts t n (pc + 4)
        (w :: ws, s)
      else ([], s)
    | (.error _, s) => ([], s)

/-- Stops the splitter at a word whose fate is a fault (R27, R32). -/
def State.splitBad (s : State) (t : Tid) (f : FRec) : State :=
  s.modThread t fun th => { th with spl := { th.spl with stop := .bad { f with pc := th.spl.pc } } }

/-- One word at the splitter, placed or not; the answer says whether the splitter goes on. EXT words in the next block are read with
their word (log 94). -/
def State.splitWord (s : State) (t : Tid) : Bool × State :=
  let th := s.thread t
  let pc := th.spl.pc.toNat
  if s.fetchWaits t pc then (false, s) else
  match s.fetch t pc with
  | (.error f, s) => (false, s.splitBad t f)
  | (.ok w, s) =>
    let (exts, s) := if isExt w then ([], s) else s.fetchExts t 2 (pc + 4)
    match decodeInstr w exts with
    | .error r => (false, s.splitBad t (decFrec r))
    | .ok i =>
      let q := queueOf w
      let barred := th.priv == .user && (match i.privileged with
        | some c => !c.guarded
        | none => false)
      if barred then (false, s.splitBad t fPriv)
      else if Config.queueEntries ≤ (th.queue q).es.length then (false, s)
      else
        let e : Entry := { word := w, exts := exts, pc := th.spl.pc, seq := th.seq, base := th.spl.base, pass := th.spl.pass, placed := s.tcyc + 1 }
        let s := s.modThread t fun th =>
          let th := th.setQueue q { th.queue q with es := (th.queue q).es ++ [e] }
          { th with seq := th.seq + 1, spl := { th.spl with
            pc := e.next, pass := if i.startsLoop then 0 else th.spl.pass, stop := if i.transfers then .transfer e.seq else .run } }
        (!i.transfers, s)

/-- The words of one block, at most 16 of 4 bytes (R26). -/
def State.splitBlock (s : State) (t : Tid) (block : Nat) : Nat → State
  | 0 => s
  | n + 1 =>
    if (s.thread t).spl.pc.toNat / 64 ≠ block then s
    else
      let (go, s) := s.splitWord t
      if go then s.splitBlock t block n else s

/-- SPLITTER_FETCH (R26, R27), in the cycle of a fault's detection too (R350); not while the thread's record is being restored (R314) or
its acquire runs (R361). -/
def execSplitterFetch (t : Tid) (s : State) : Outcome State Fault Refusal :=
  let th := s.thread t
  let free := th.status == .running && th.slotHeld && !th.halted && th.drain.isNone && decide (th.resumeFrom ≤ s.cyc) && th.restoring.isNone
  if free && th.spl.stop == .run && decide (th.spl.resumeAt ≤ s.tcyc) then .next (s.splitBlock t (th.spl.pc.toNat / 64) 16)
  else .next s

/-- FIXED_LATENCY_WRITE_LAND (R29, R299). -/
def execFixedLatencyWriteLand (t : Tid) (s : State) : Outcome State Fault Refusal := .next (s.landNow t)

/-- L1_INVALIDATE_COMPLETE (R201). -/
def execL1InvalidateComplete (t : Tid) (s : State) : Outcome State Fault Refusal :=
  match (s.thread t).acq.find? fun a => decide (a.due ≤ s.cyc) with
  | none => .next s
  | some a =>
    let s := s.invalidate t.st t.co a.scope
    .next (s.modThread t fun th => { th with acq := th.acq.erase a, qs := if a.q = .s then { th.qs with blk := none } else th.qs })

/-! Faults and freezes. -/

/-- Whether an acquire is that of a FENCE that still waits at the head of its queue: it has not issued (R200, R399). -/
def Thread.fencing (th : Thread) (a : Acq) : Bool := match th.head a.q with
  | some e => fldN e.word 29 3 == 0 && fldN e.word 19 6 == 0x3A && e.stage == 2
  | none => false

/-- What the words of a thread that have issued still have to do: operations, Vat commands, copies, tap words, writes in flight,
an acquire's invalidation, the walks of its buffered stores (R100, R310, R350). -/
def State.quiet (s : State) (t : Tid) : Bool :=
  let th := s.thread t
  th.ops.all (·.kind == .pref) && th.pend.isEmpty && th.acq.all th.fencing && th.sb.all (·.pa.isSome) &&
    (s.vat t.st t.co).cmds.all (·.t != t) && (s.core t.st t.co).xs.all (·.t != t) && (s.station t.st).copies.all (·.t != t)

/-- Every earlier word has issued: a fault that the splitter found is detected (R350). -/
def Thread.splitFault (th : Thread) : Option FRec :=
  match th.spl.stop with
  | .bad f => if th.entries.isEmpty then some f else none
  | _ => none

/-- FAULT_DETECT (R350, R351): the thread stops issuing and leaves its slot; a standing request is answered, a save abandoned, a
RETIRE or YIELD that drains put back. A job that is ended or killed takes no fault (R270, R362). -/
def execFaultDetect (t : Tid) (s : State) : Outcome State Fault Refusal :=
  let th := s.thread t
  if th.status ≠ .running ∧ th.status ≠ .waiting ∨ th.drain = some .ended ∨ th.drain = some .killed then .next s
  else
    match (match th.newFault with
      | some f => some f
      | none => th.splitFault.map fun f => { f with cyc := s.cyc }) with
    | none => .next s
    | some f =>
      let s := (s.answer t false).dropSave t
      .next (s.modThread t fun th =>
        { th.undrain with status := .freezing, fault := some f, newFault := none, more := false, drain := none, drainE := none, rel := none, saveAt := none, slotHeld := false })

/-- The record of a thread fault (R352). -/
def State.threadRecord (s : State) (t : Tid) : List Byte :=
  let th := s.thread t
  let f := th.fault.getD { cause := 0 }
  faultRecord f (if th.kind = .handler then 0 else th.creg crJOBID) (th.creg crSEGTAG) f.cyc th.ctx t.st t.co t.tx

/-- A frozen thread asks for its handler; a handler that faults raises the halt line of the context it serves (R353, R366). -/
def State.askHandler (s : State) (t : Tid) : State :=
  let th := s.thread t
  if th.kind = .handler then s.haltCtx t.st th.forCtx 3
  else
    let e : CapE := { kind := 1, rights := 15, target := t, hctx := s.hctx t.st th.ctx }
    s.requestHandler t.st t.co th.ctx e (s.threadRecord t)

/-- FREEZE_COMPLETE (R350, R154): every value of the skid stands in the registers; the heads keep their remaining delays. A
halted thread asks for no handler until it is released (R351). -/
def execFreezeComplete (t : Tid) (s : State) : Outcome State Fault Refusal :=
  if (s.thread t).status ≠ .freezing ∨ !s.quiet t then .next s
  else
    let s := (s.observeAll t).dropLease t
    let s := s.modThread t fun th =>
      let th := th.imagesAfresh
      let th := QName.all.foldl (fun (th : Thread) q => th.setQueue q { th.queue q with ready := (th.queue q).ready - s.tcyc, blk := none }) th
      { th with status := .frozen, acq := [] }
    let s := if (s.thread t).halting then s.haltThread t else s
    if (s.thread t).halted then .next (s.modThread t fun th => { th with needHandler := true })
    else .next (s.askHandler t)

/-- BUDGET_EXHAUSTED (R284, R299): not in the job's declaring cycle, not after RETIRE. The word at the head of the S queue is
named: a YIELD that drains stands there again. -/
def execBudgetExhausted (t : Tid) (s : State) : Outcome State Fault Refusal :=
  let th := s.thread t
  let stands := match th.drain with
    | none | some .yield_ | some .forced => true
    | _ => false
  let runs := th.status = .running ∨ (th.status = .waiting ∧ th.kind ≠ .handler)
  if !runs ∨ s.cyc < th.notBefore ∨ th.creg crBUD ≠ 0 ∨ !stands ∨ s.jobDeclared t then .next s
  else
    let e := match th.drain, th.drainE with
      | some .yield_, some x => x.2
      | _, _ => (th.head .s).getD { pc := th.spl.pc }
    .next (s.raise t { cause := 0x06, pc := e.pc, q := .s })

/-! Drains: RETIRE, YIELD, forced and debugger saves, ends, kills. -/

/-- Whether the wait of a drain is over, its release aside (R100, R297, R310). -/
def State.drained (s : State) (t : Tid) : Bool :=
  let th := s.thread t
  match th.drain with
  | none => false
  | some .retire | some .yield_ => th.entries.isEmpty && s.quiet t && th.newFault.isNone
  | _ => s.quiet t && th.newFault.isNone

/-- One step of the release of a drain at SYSTEM scope. -/
def State.drainRelease (s : State) (t : Tid) : Bool × State :=
  let th := s.thread t
  let (ok, r, s) := s.release t th.seq (th.rel.getD { scope := .system })
  (ok, s.modThread t fun th => { th with rel := some r })

/-- The threads that wait in a job context: they are gone. -/
def State.freeThread (s : State) (t : Tid) : State := s.setThread t {}

/-- The loss of a write that was not delivered, met by the release of a RETIRE or a save (R249): the thread freezes there. -/
def State.drainLost (s : State) (t : Tid) : Option State :=
  match s.takeLost t with
  | none => none
  | some s =>
    let th := s.thread t
    match th.drainE with
    | some (q, e) => some ((s.setThread t { th with rel := none, saveAt := none }).raise t { fLost with pc := e.pc, q := q })
    | none => some (s.raise t { fLost with pc := th.firstWord })

/-- What the dispatcher does with a thread that is done (R100, R270, R283, R362). -/
def State.threadOver (s : State) (t : Tid) : State :=
  let th := s.thread t
  let st := t.st
  let s := (s.dropLease t).modCore st t.co fun k => { k with resOwner := (if k.resOwner = some t then none else k.resOwner) }
  let s := (s.capsOfThread t).dropRestore t
  match th.kind, s.jobOf t with
  | .handler, _ => (s.freeAreas st t.co th.job).freeThread t
  | _, none => (s.freeAreas st t.co th.job).freeThread t
  | _, some j =>
    let s := match th.drain with
      | some .retire =>
        let s := s.modJob st j.id fun j =>
          let fin (i : Nat) (w : Row) : Row := if th.rowLive i then { w with complete := true } else w
          { j with rows := j.rows.mapIdx fin }
        s.count st 0x318
      | some .killed => (s.skipRows st j).count st 0x2C10
      | _ => s
    ((s.freeAreas st t.co j.id).jobOver st j.id).freeThread t

/-- JOB_COMPLETE (R100, R270, R362). -/
def execJobComplete (t : Tid) (s : State) : Outcome State Fault Refusal :=
  let th := s.thread t
  let mine := th.drain == some .retire || th.drain == some .ended || th.drain == some .killed
  if !mine || !s.drained t then .next s
  else
    let (ok, s) := s.drainRelease t
    if !ok then .next s
    else
      match (if th.drain = some .retire then s.drainLost t else none) with
      | some s => .next s
      | none => .next (s.threadOver t)

/-- FORCED_SAVE (R309, R310): at the forcing cycle; a halted thread is not forced (R316). -/
def execForcedSave (t : Tid) (s : State) : Outcome State Fault Refusal :=
  let th := s.thread t
  match th.preq with
  | none => .next s
  | some r =>
    if s.cyc < r.f ∨ !(th.status == .running || th.status == .waiting) ∨ th.restoring.isSome ∨ th.halted ∨ th.drain.isSome ∨ th.newFault.isSome then .next s
    else .next ((s.modThread t fun th => { th with status := .running, drain := some .forced, saveRec := r.recd, preq := none }).count t.st 0x1A80)

/-- The cause byte of a save (R415). -/
def saveCause : Option Drain → Nat
  | some .forced => 1 | some .debug => 2 | _ => 0

/-- The object of a BWAIT that heads the S image stays bound to the record (R315). -/
def State.bindSaved (s : State) (t : Tid) : State :=
  let th := s.thread t
  match th.head .s with
  | none => s
  | some e =>
    match decodeInstr e.word e.exts with
    | .ok (.bwait _ a) =>
      let v := th.readS e.base a
      let b := th.bslot (slotOf v)
      if !b.bound || b.addr != slotAddr v then s
      else
        match s.xlateFull t th.ctx th.priv b.addr .atomic with
        | .pa pa _ => s.modStation t.st fun x => { x with waits := x.waits ++ [⟨pa, th.ctx, th.saveRec, BitVec.ofNat 64 (b.addr + slotOf v)⟩] }
        | _ => s
    | _ => s

/-- Cycles that a record takes: 256 bytes a cycle after 64 (R311). -/
def recCycles (h : Word) : Nat := 64 + (recSize h + 255) / 256

/-- When the record of a drained thread will have been written. -/
def State.beginSave (s : State) (t : Tid) : State := s.modThread t fun th => { th with saveAt := some (s.cyc + recCycles th.hdr), rel := none }

/-- The record of a save that began in cycle `at_`: the thread as it stands, its images afresh, a BWAIT at its head bound (R311, R315). -/
def State.putRecord (s : State) (t : Tid) (at_ : Nat) : State :=
  let s := (((s.observeAll t).modThread t Thread.imagesAfresh).modThread t fun th => { th with acq := [] }).bindSaved t
  let th := s.thread t
  s.writeRecord t (saveCause th.drain) at_ (s.pa t.st (s.recOff t.st th.ctx th.saveRec))

/-- SAVE_RECORD_WRITE (R310, R311, R314): as the drain ends the record begins to move; when it is written the thread releases at SYSTEM
scope; then everything the thread held is freed, and the job is posted again. -/
def execSaveRecordWrite (t : Tid) (s : State) : Outcome State Fault Refusal :=
  let th := s.thread t
  let st := t.st
  let saving := th.drain == some .yield_ || th.drain == some .forced || th.drain == some .debug
  if !saving || !s.drained t then .next s
  else
    let s := s.dropLease t
    match th.saveAt with
    | none => .next (s.beginSave t)
    | some due =>
      if s.cyc < due then .next s
      else
        let s := if th.rel.isSome then s else s.putRecord t (due - recCycles th.hdr)
        let (ok, s) := s.drainRelease t
        if !ok then .next s
        else
          match s.drainLost t with
          | some s => .next s
          | none =>
            let th := s.thread t
            let s := s.modJob st th.job fun j =>
              { j with st := .saved th.saveRec, dl := (th.creg crDL).toNat, places := th.places, seq := th.seq, gone := 0, kvRestart := th.kvRestart, short := th.short
                       stop := if th.drain = some .yield_ then .run else th.spl.stop }
            let s := (s.freeAreas st t.co th.job).freeThread t
            .next (s.modCore st t.co fun k => { k with posted := k.posted ++ [th.job] })

end Sys2Proof.Machine
end

