-- ==== Sys2Proof/Machine/EvDispatch.lean ====
section
/-! DEFINITION. What the dispatcher, the core and the debugger do with jobs and thread contexts: LAUNCH_ARBITER (R286), requests
(R308, R309), the timetable (R291), debug halts and saves (R316, R317), record moves (R317), handlers (R353 to R355), the
activity forecast (R293). -/

namespace Sys2Proof.Machine

open Host

/-! The launch arbiter (R286). -/

def defOff (co t : Nat) : Nat := 0x1C00 + 0x80 * co + 8 * t
def rpOff (co : Nat) : Nat := 0x1C40 + 0x80 * co

/-- The deficit of a tier of a core. -/
def State.deficit (s : State) (st co t : Nat) : Int := (s.cb st (defOff co t)).toInt

/-- The weight of a tier. -/
def State.weight (s : State) (st t : Nat) : Nat := s.cbBits st 0x300 (8 * t) 8

/-- The posted jobs of a core in the order of their posts; jobs of a halted context, or of one that is torn down, are not launched
(R367, R368). -/
def State.postedJobs (s : State) (st co : Nat) : List Job :=
  ((s.core st co).posted.filterMap (s.job? st)).filter fun j => s.resident st j.ctx && !s.halted st j.ctx

/-- The earliest deadline; of equals the earlier post. -/
def earliest : List Job → Option Job
  | [] => none
  | j :: rest =>
    match earliest rest with
    | none => some j
    | some k => if k.dl < j.dl then some k else some j

/-- Whether a launch of a job need not wait for its window and allotment: one that its grants refuse takes none. -/
def State.jobFits (s : State) (st : Nat) (j : Job) : Bool :=
  match j.st with
  | .saved _ => s.canPlace st j.core (hdrRows j.hdr) (hdrUnits j.hdr)
  | _ =>
    let h := s.header st j.ctx j.frag.toNat
    !s.granted st j.ctx h || s.canPlace st j.core (hdrRows h) (hdrUnits h)

/-- Launches a posted job in a context, or restores a saved one. -/
def State.startJob (s : State) (t : Tid) (j : Job) : State :=
  match j.st with
  | .saved n => s.restoreJob t j n
  | _ => s.launchJob t j

/-- The round pointer and the deficits of a core, by tier. -/
structure Round where
  rp : Nat
  d : List Int
  deriving DecidableEq, Repr

/-- What an arbiter run looks at: the weights, the quantum, and per tier its best job with whether it fits. -/
structure Arb where
  w : List Nat
  q : Nat
  best : List (Option (Job × Bool))

/-- A tier that takes part: backlogged, with a weight. -/
def Arb.takesPart (a : Arb) (t : Nat) : Bool := (a.best.getD t none).isSome && decide (0 < a.w.getD t 0)

/-- The next taking-part tier above a tier, wrapping. -/
def Arb.next (a : Arb) (t : Nat) : Nat := (((List.range 8).map fun k => (t + 1 + k) % 8).find? a.takesPart).getD t

/-- The loop of R286: the job to launch with the round that its visits leave, or nothing. -/
def Arb.run (a : Arb) : Nat → Round → List Nat → Option (Round × Job)
  | 0, _, _ => none
  | n + 1, r, tried =>
    let t := r.rp
    let live := a.takesPart t && decide (0 < r.d.getD t 0) && !tried.contains t
    match (if live then a.best.getD t none else none) with
    | some (j, true) => some (r, j)
    | _ =>
      let tried := if live then t :: tried else tried
      if (List.range 8).all fun t => !a.takesPart t || tried.contains t then none
      else
        let t := a.next t
        a.run n { rp := t, d := r.d.set t (r.d.getD t 0 + (a.w.getD t 0 * a.q : Nat)) } tried

/-- Visits after which every tier that takes part has been tried: each round of eight adds at least 1 to its deficit. -/
def Round.visits (r : Round) : Nat := 8 * ((r.d.map fun d => (-d).toNat).foldl max 0 + 3)

/-- The job that a run of the arbiter launches, with the round it leaves. -/
def State.arbitrate (s : State) (st co : Nat) : Option (Option Round × Job) :=
  let js := s.postedJobs st co
  let r : Round := { rp := s.cbBits st (rpOff co) 0 3, d := (List.range 8).map (s.deficit st co) }
  let best (t : Nat) : Option (Job × Bool) := (earliest (js.filter (·.tier == t))).map fun j => (j, s.jobFits st j)
  let a : Arb := { w := (List.range 8).map (s.weight st), q := s.cbBits st 0x308 0 20, best := (List.range 8).map best }
  if (List.range 8).any a.takesPart then (a.run r.visits r []).map fun (r, j) => (some r, j)
  else (earliest (js.filter (s.jobFits st))).map fun j => (none, j)

def State.setRound (s : State) (st co : Nat) (r : Round) : State :=
  (List.range 8).foldl (fun s t => s.setCb st (defOff co t) (ofInt64 (r.d.getD t 0))) (s.setCb st (rpOff co) (BitVec.ofNat 64 r.rp))

/-! Timetable entries (R291). -/

def State.ttBit (s : State) (st co e i : Nat) : Bool := (s.cb st (ttOff co e + 0x18)).getLsbD i
def State.ttSlot (s : State) (st co e : Nat) : Nat := s.cbBits st (ttOff co e + 0x18) 0 2
def State.ttCtx (s : State) (st co e : Nat) : Nat := s.cbBits st (ttOff co e + 0x18) 4 4
def State.ttStart (s : State) (st co e : Nat) : Nat := (s.cb st (ttOff co e)).toNat

/-- An armed entry whose start has come; no job is created for a context that is halted or not resident (R322, R367). -/
def State.ttDue (s : State) (st co e : Nat) : Bool :=
  s.ttBit st co e 8 && decide (s.ttStart st co e ≤ s.cyc) && s.resident st (s.ttCtx st co e) && !s.halted st (s.ttCtx st co e)

/-- A job context that the arbiter may take: free, and named by no start that is due. -/
def State.arbSlot (s : State) (st co : Nat) : Option Nat :=
  (List.range 4).find? fun j => s.ctxFree ⟨st, co, j⟩ && !((List.range 8).any fun e => s.ttDue st co e && s.ttSlot st co e == j)

/-- LAUNCH_ARBITER: it runs again after a launch while a context is free and a job is posted. -/
def execLaunchArbiter (st co : Nat) (s : State) : Outcome State Fault Refusal :=
  match s.arbSlot st co with
  | none => .next s
  | some tx =>
    match s.arbitrate st co with
    | none => .next s
    | some (r, j) =>
      let s := match r with
        | some r => s.setRound st co r
        | none => s
      .next ((s.startJob ⟨st, co, tx⟩ j).nowEv (.launchArbiter st co))

/-! Requests (R308, R309). -/

/-- Whether a job context can be the target of a request: a launched job, not frozen, not after RETIRE, none standing. -/
def Thread.canRequest (th : Thread) : Bool :=
  th.kind != .handler && (th.status == .running || th.status == .waiting) && th.drain.isNone && th.preq.isNone && th.newFault.isNone

/-- A request is raised, its record reserved; without a record it is refused. -/
def State.raisePreq (s : State) (t : Tid) (src : Nat) : State :=
  let th := s.thread t
  if !th.canRequest then s
  else
    match s.freeRec t.st th.ctx (recSize th.hdr) with
    | none => s.count t.st 0x1A88
    | some n =>
      (s.modThread t fun th => { th with preq := some ⟨src, s.cyc + (th.creg crYWIN).toNat, n, s.cyc + 1⟩ }).setRecState t.st th.ctx n 1

def jobsOf (st co : Nat) (jobs : Fin 16) : List Tid := ((List.range 4).filter (tbit jobs.val)).map fun j => ⟨st, co, j⟩

/-- PREEMPT_RAISE. -/
def execPreemptRaise (st co : Nat) (jobs : Fin 16) (s : State) : Outcome State Fault Refusal :=
  .next { (jobsOf st co jobs).foldl (fun s t => s.raisePreq t 1) s with cbw := none }

/-- PREEMPT_WITHDRAW: before F, which stays as far off as it was when a debugger halted the thread (R309, R316). -/
def execPreemptWithdraw (st co : Nat) (jobs : Fin 16) (s : State) : Outcome State Fault Refusal :=
  let f (s : State) (t : Tid) : State := match (s.thread t).preq with
    | some r => if (if (s.thread t).halted then (s.thread t).haltCyc else s.cyc) < r.f then s.answer t false else s
    | none => s
  .next { (jobsOf st co jobs).foldl f s with cbw := none }

/-! The timetable (R291). The mark of an arming that has raised its request stands at 0x10000 above the entry. -/

/-- Whether an entry raises its request now. -/
def State.ttAsks (s : State) (st co e : Nat) : Bool :=
  let th := s.thread ⟨st, co, s.ttSlot st co e⟩
  s.ttBit st co e 8 && s.cb st (0x10000 + ttOff co e) == 0 && th.canRequest &&
    decide (s.ttStart st co e ≤ s.cyc + (th.creg crYWIN).toNat)

/-- TIMETABLE_PREQ. -/
def execTimetablePreq (st co e : Nat) (s : State) : Outcome State Fault Refusal :=
  if !s.ttAsks st co e then .next s
  else .next ((s.setCb st (0x10000 + ttOff co e) 1).raisePreq ⟨st, co, s.ttSlot st co e⟩ 3)

/-- ARM becomes 0; FIRED or SLIP is set. -/
def State.ttClose (s : State) (st co e : Nat) (fired slip : Bool) : State :=
  let o := ttOff co e + 0x18
  let v := (s.cb st o &&& ~~~ 0x100) ||| (if fired then 0x200 else 0) ||| (if slip then 0x400 else 0)
  s.setCb st o v

/-- The job of an entry: tier 0, one row without a sequence, no segment. -/
def State.ttJob (s : State) (st co e : Nat) : Job :=
  let x := s.station st
  let start := s.ttStart st co e
  let bud := s.cbBits st (ttOff co e + 8) 32 32
  { id := x.nextJob, core := co, ctx := s.ttCtx st co e, frag := s.cb st (ttOff co e + 0x10), dl := start + 17280
    bud := if bud = 0 then 17280 else bud, rows := [{}], live := 1, arrive := start, kind := .timetable, num := x.jobNum }

/-- Whether an entry launches now. -/
def State.ttReady (s : State) (st co e : Nat) : Bool := s.ttDue st co e && s.ctxFree ⟨st, co, s.ttSlot st co e⟩

/-- TIMETABLE_LAUNCH: refused (R323), else launched, with the slip test on the launch cycle. -/
def execTimetableLaunch (st co e : Nat) (s : State) : Outcome State Fault Refusal :=
  if !s.ttReady st co e then .next s
  else
    let j := s.ttJob st co e
    let t : Tid := ⟨st, co, s.ttSlot st co e⟩
    let ok := s.granted st j.ctx (s.header st j.ctx j.frag.toNat)
    let add (s : State) : State := s.modStation st fun x => { x with jobs := x.jobs ++ [j], nextJob := x.nextJob + 1 }
    if !ok then .next (((add s).refuseLaunch st j).ttClose st co e false true)
    else if !s.jobFits st j then .next s
    else
      let slip := decide (s.ttStart st co e + s.cbBits st (ttOff co e + 8) 0 32 < s.cyc)
      let s := ((add s).modStation st fun x => { x with jobNum := x.jobNum + 1 }).launchJob t j
      let s := if slip then s.modThread t fun th =>
          { th with spl := { th.spl with stop := .bad { cause := 0x08, sub := 0, va := s.cycWord, pc := th.spl.pc } } }
        else s
      .next (s.ttClose st co e true slip)

/-! Debug halts (R316, R317). -/

/-- A thread context halts. -/
def State.dbgHalt (s : State) (t : Tid) : State :=
  let th := s.thread t
  if th.status = .free ∨ th.status = .stopped ∨ th.halted ∨ !tbit (s.cb t.st 0x1A90).toNat th.ctx then s else s.haltThread t

/-- A halted thread goes on: a standing request's F moves by the length of the halt; a thread that froze meanwhile asks for its
handler. -/
def State.dbgFree (s : State) (t : Tid) : State :=
  let th := s.thread t
  if !th.halted then (if th.halting then s.modThread t fun th => { th with halting := false } else s)
  else
    let later (r : Preq) : Preq := { r with f := r.f + (s.cyc - th.haltCyc) }
    let s := s.modThread t fun th => { th with halted := false, preq := th.preq.map later, needHandler := false }
    if th.needHandler ∧ th.status = .frozen then s.askHandler t else s

/-- DBG_HALT_THREAD. -/
def execDbgHaltThread (t : Tid) (s : State) : Outcome State Fault Refusal := .next (s.dbgHalt t)

/-- DBG_RELEASE_THREAD: the core's halt holds it still. -/
def execDbgReleaseThread (t : Tid) (s : State) : Outcome State Fault Refusal :=
  .next (if (s.cb t.st (0x1B00 + 0x10 * t.co)).getLsbD 20 then s else s.dbgFree t)

def coreTids (st co : Nat) : List Tid := (List.range 6).map fun j => ⟨st, co, j⟩

/-- DBG_HALT_CORE. -/
def execDbgHaltCore (st co : Nat) (s : State) : Outcome State Fault Refusal :=
  .next ((coreTids st co).foldl State.dbgHalt (s.modCore st co fun k => { k with coreHalt := true, copyq := false }))

/-- DBG_RELEASE_CORE: a context's own HALT bit holds it still. -/
def execDbgReleaseCore (st co : Nat) (s : State) : Outcome State Fault Refusal :=
  let own (t : Tid) : Bool := (s.cb st (0x1B00 + 0x10 * co)).getLsbD (14 + t.tx)
  .next (((coreTids st co).filter fun t => !own t).foldl State.dbgFree (s.modCore st co fun k => { k with coreHalt := false, copyq := false }))

/-- DBG_SAVE: into the record of a standing request, else into the lowest free one. -/
def execDbgSave (t : Tid) (s : State) : Outcome State Fault Refusal :=
  let th := s.thread t
  if !th.halted ∨ th.restoring.isSome ∨ th.kind = .handler ∨ !(th.status == .running || th.status == .waiting) ∨ th.drain.isSome ∨ th.newFault.isSome then .next s
  else
    let go (s : State) (n : Nat) : State :=
      (s.modThread t fun th => { th with status := .running, drain := some .debug, saveRec := n, preq := none }).setRecState t.st th.ctx n 1
    match th.preq with
    | some r => .next (go s r.recd)
    | none =>
      match s.freeRec t.st th.ctx (recSize th.hdr) with
      | some n => .next (go s n)
      | none => .next (s.count t.st 0x1A88)

/-- The writes that a core's threads issued into its core store have landed (R317). -/
def State.coreQuiet (s : State) (st co : Nat) : Bool := (coreTids st co).all fun t =>
  (s.thread t).pend.isEmpty && (s.thread t).restoring.isNone && (s.vat st co).cmds.all (·.t != t) && (s.station st).copies.all (·.t != t) && (s.core st co).xs.all (·.t != t)

/-- COPYQ_SETTLE. -/
def execCopyqSettle (st co : Nat) (s : State) : Outcome State Fault Refusal :=
  .next (if (s.core st co).coreHalt ∧ s.coreQuiet st co then s.modCore st co fun k => { k with copyq := true } else s)

/-! Record moves (R317). -/

/-- The saved job that a record holds. -/
def State.savedJob (s : State) (st c n : Nat) : Option Job := (s.station st).jobs.find? fun j => j.ctx == c && j.st == .saved n

def State.moveRefused (s : State) (st : Nat) : State := s.setCb st 0x1A98 (s.cb st 0x1A98 ||| BitVec.ofNat 64 (2 ^ 61))

/-- RECORD_MOVE: within a station the job is posted to another core; to another station the record is copied first, and the job
is posted there when the copy ends. -/
def execRecordMove (s : State) : Outcome State Fault Refusal :=
  .next (s.withCbw fun w s =>
    let st := w.st
    if (s.station st).moving.isSome then s
    else
      let s := s.regWrite w
      let r := s.cb st 0x1A98
      let stn := wbits r 24 6
      let co := wbits r 20 3
      let c := wbits r 16 4
      let n := wbits r 0 16
      match s.savedJob st c n with
      | none => s.moveRefused st
      | some j =>
        if s.recState st c n ≠ 2 ∨ 47 < stn ∨ (stn ≠ st ∧ j.segwin ≠ 0) then s.moveRefused st
        else
          match s.freeRec stn c (recSize j.hdr) with
          | none => s.moveRefused st
          | some m =>
            let s := s.modCore st j.core fun k => { k with posted := k.posted.filter (· != j.id) }
            if stn = st then
              (s.modJob st j.id fun j => { j with core := co }).modCore st co fun k => { k with posted := k.posted ++ [j.id] }
            else
              (s.setRecState stn c m 1).modStation st fun x =>
                { x with moving := some { job := j.id, ctx := c, recd := n, stn := stn, core := co, dest := m, due := s.cyc + (recSize j.hdr + 255) / 256 } })

/-- RECORD_MOVE_DONE: a job discarded meanwhile is not posted. -/
def execRecordMoveDone (st : Nat) (s : State) : Outcome State Fault Refusal :=
  match (s.station st).moving with
  | none => .next s
  | some m =>
    if s.cyc < m.due then .next s
    else
      let s := s.modStation st fun x => { x with moving := none }
      match s.job? st m.job with
      | none => .next (s.setRecState m.stn m.ctx m.dest 0)
      | some j =>
        let size := recSize j.hdr
        let s := s.homePut (s.pa m.stn (s.recOff m.stn m.ctx m.dest)) (s.homeBytes (s.pa st (s.recOff st m.ctx m.recd)) size)
        let s := s.setRecState st m.ctx m.recd 0
        let mine (b : SavedWait) : Bool := b.ctx == m.ctx && b.recd == m.recd
        let bs := ((s.station st).waits.filter mine).map fun b => { b with recd := m.dest }
        let s := s.modStation st fun x => { x with jobs := x.jobs.filter (·.id != j.id), waits := x.waits.filter fun b => !mine b }
        let id := (s.station m.stn).nextJob
        let s := s.modStation m.stn fun x =>
          { x with jobs := x.jobs ++ [{ j with id := id, core := m.core, st := .saved m.dest }], nextJob := id + 1, waits := x.waits ++ bs }
        .next (s.modCore m.stn m.core fun k => { k with posted := k.posted ++ [id] })

/-! Handlers (R353 to R355). -/

/-- The request that a freed handler context of a core takes: one that waits for it, else the oldest of the fault queue; one
without a capability entry waits for it. -/
def State.nextRequest (s : State) (st co : Nat) : Option HReq :=
  let can (r : HReq) : Bool := r.cap.isSome || (s.station st).freeCap.isSome
  match (s.station st).reqs.find? fun r => r.core == co with
  | some r => some r
  | none => (s.station st).fq.head?.filter can

def State.freeHandler (s : State) (st co : Nat) : Option Nat := [4, 5].find? fun tx => (s.thread ⟨st, co, tx⟩).status == .free

/-- HANDLER_SPAWN. -/
def execHandlerSpawn (st co : Nat) (s : State) : Outcome State Fault Refusal :=
  match s.freeHandler st co, s.nextRequest st co with
  | some tx, some r =>
    let made := match r.cap with
      | some i => some (i, s)
      | none => s.makeCap st r.capE
    match made with
    | none => .next s
    | some (i, s1) =>
      let h := (Tab.get (s1.station st).caps i).handle st i
      match s1.launchHandler ⟨st, co, tx⟩ r h with
      | none => .next s
      | some s2 =>
        let drop (l : List HReq) : List HReq := l.erase r
        let s2 := s2.modStation st fun x => { x with reqs := drop x.reqs, fq := drop x.fq }
        .next (if (s2.thread ⟨st, co, tx⟩).status = .free then s2 else s2.count st 0x2C08)
  | _, _ => .next s

/-- Whether a handler borrows a slot. -/
def State.borrowed (s : State) (st co j : Nat) : Bool :=
  [4, 5].any fun tx => let h := s.thread ⟨st, co, tx⟩; h.status != .free && h.slotHeld && h.slot == j

/-- An idle slot (R285, R355): its job context is free, frozen or saved, and no handler borrows it. -/
def State.slotIdle (s : State) (st co j : Nat) : Bool :=
  let th := s.thread ⟨st, co, j⟩
  !s.borrowed st co j && (th.status == .free || (!th.slotHeld && th.status != .waiting))

/-- The job whose slot a handler asks for: launched, not frozen, not halted, latest deadline, of equals the higher context. -/
def State.latestJob (s : State) (st co : Nat) : Option Tid :=
  let ok (j : Nat) : Bool := let th := s.thread ⟨st, co, j⟩; th.canRequest && !th.halted
  (((List.range 4).filter ok).foldl (fun (b : Option Nat) j =>
    let dl (j : Nat) : Nat := ((s.thread ⟨st, co, j⟩).creg crDL).toNat
    match b with
    | none => some j
    | some k => if dl k ≤ dl j then some j else some k) none).map fun j => ⟨st, co, j⟩

/-- Whether a request stands on a core. -/
def State.coreRequested (s : State) (st co : Nat) : Bool := (List.range 4).any fun j => (s.thread ⟨st, co, j⟩).preq.isSome

/-- HANDLER_SLOT_TAKE (R355): the lowest idle slot, else a request of its own; one that found no save record is made again once there
is one (log 57). -/
def execHandlerSlotTake (t : Tid) (s : State) : Outcome State Fault Refusal :=
  let th := s.thread t
  if th.kind ≠ .handler ∨ th.status ≠ .waiting then .next s
  else
    match (List.range 4).find? (s.slotIdle t.st t.co) with
    | some j =>
      .next (s.modThread t fun th =>
        { th with status := .running, slotHeld := true, slot := j, needHandler := false, halted := s.dbgHeld t th.ctx, haltCyc := s.cyc
                  spl := { th.spl with resumeAt := s.tcyc + 1 } })
    | none =>
      if s.coreRequested t.st t.co then .next s
      else
        match s.latestJob t.st t.co with
        | none => .next s
        | some v =>
          let h := s.thread v
          if th.needHandler ∧ (s.freeRec v.st h.ctx (recSize h.hdr)).isNone then .next s
          else
            let s := s.raisePreq v 2
            .next (s.modThread t fun th => { th with needHandler := (s.thread v).preq.isNone })

/-! The activity forecast (R293). -/

/-- The jobs launched on a station, and how many are posted. -/
def State.forecast (s : State) (st : Nat) : Word :=
  let buds := (s.station st).jobs.filterMap fun j => (j.tid st).map fun t => ((s.thread t).creg crBUD).toNat
  let posted := ((List.range 8).map fun co => (s.core st co).posted.length).sum
  BitVec.ofNat 64 (((List.range 8).map fun k => min 32 (buds.countP (fun b => decide (1250 * k < b)) + posted) * 2 ^ (8 * k)).sum)

/-- AFR_UPDATE. -/
def execAfrUpdate (st : Nat) (s : State) : Outcome State Fault Refusal := .next (s.setCb st 0x3C8 (s.forecast st))

end Sys2Proof.Machine
end

