-- ==== Sys2Proof/Machine/EvFabric.lean ====
section
/-! DEFINITION. The fabric's own steps: the pages that migrate (R251 to R255), tile-walk engines (R256 to R258), training, lanes
and replays (R22, R385, R386, R411). -/

namespace Sys2Proof.Machine

open Host

/-- The input that has come, taken, where it is of the kind a step wants. -/
def State.withInput (s : State) (f : Input → State → Option State) : Outcome State Fault Refusal :=
  match s.inputs with
  | [] => .next s
  | i :: rest => .next ((f i { s with inputs := rest }).getD s)

/-! Migration: the home (R252, R253, R255). -/

/-- Frames of a slice for pages of other modules. -/
def Station.framesUsed (x : Station) (page : Nat) : Nat := x.migr.countP fun m => !m.home && m.page % 16 == page % 16

/-- A page's requests need wait no more. -/
def State.unhold (s : State) (page : Nat) : State :=
  s.modStation (paStation (4096 * page)) fun x => { x with rems := x.rems.map fun r => if r.pa / 4096 = page then { r with held := false } else r }

/-- As the page closes, what the delegate forwarded back goes first, then what was held, and only then what comes later or from this
module (R253). -/
def State.unholdLast (s : State) (page : Nat) : State :=
  s.modStation (paStation (4096 * page)) fun x =>
    let mine (r : RemOp) : Bool := r.pa / 4096 == page && r.held
    let rs : List RemOp := x.rems.filter (fun r => !mine r) ++ (x.rems.filter mine).map fun r => { r with held := false }
    { x with rems := rs.map fun r => if r.pa / 4096 = page then { r with drain := true } else r }

def State.dropMigr (s : State) (page : Nat) : State :=
  s.modStation (paStation (4096 * page)) fun x => { x with migr := x.migr.filter fun m => m.page != page }

/-- DELEGATE_INSTALL (R251, R252): eight frames a slice. -/
def execDelegateInstall (s : State) : Outcome State Fault Refusal := s.withInput fun i s =>
  match i with
  | .page page from_ data =>
    let st := paStation (4096 * page)
    if 8 ≤ (s.station st).framesUsed page then some (s.sendTo msgRefuse from_ (leBytes 8 page))
    else
      let s := s.plainPut (((List.range 4096).map (4096 * page + ·)).zip (pad data 4096))
      let s := s.modStation st fun x => { x with migr := x.migr ++ [{ page := page, st := .away, module_ := from_, home := false }] }
      some (s.sendTo msgReady from_ (leBytes 8 page))
  | _ => none

/-- The home asks for a page that is away (R253, R255). -/
def State.recall (s : State) (m : Migr) : State := if m.home ∧ m.st = .away then s.sendTo msgRecall m.module_ (leBytes 8 m.page) else s

/-- MIGCTL's counts (R255). -/
def State.migCount (s : State) (st : Nat) : State := s.setCb st 0x100 (wset (s.cb st 0x100) 0 32 (s.cbBits st 0x100 0 32 + 1))
def State.migRefused (s : State) (st : Nat) : State := s.setCb st 0x100 (wset (s.cb st 0x100) 32 16 (min 65535 (s.cbBits st 0x100 32 16 + 1)))

/-- MIGRATION_READY (R251, R252): the held accesses go on to the delegate; a refused page stays here. -/
def execMigrationReady (s : State) : Outcome State Fault Refusal := s.withInput fun i s =>
  match i with
  | .ready page ok =>
    let a := 4096 * page
    let st := paStation a
    match s.migrOf a with
    | none => some s
    | some m =>
      if !m.home ∨ m.st ≠ .leaving then some s
      else if ok then
        let s := ((s.modMigr a fun m => { m with st := .away }).migCount st).unhold page
        some (if s.migen then s else s.recall { m with st := .away })
      else
        let s := s.modStation st fun x => { x with contend := x.contend.filter fun c => c.page != page }
        some (((s.dropMigr page).unhold page).migRefused st)
  | _ => none

/-- RETURN_PAGE_RECEIVE (R253): the page comes with the bytes that other modules wrote last at the delegate; where this module's accesses
wrote last it is as they left it (log 25). -/
def execReturnPageReceive (s : State) : Outcome State Fault Refusal := s.withInput fun i s =>
  match i with
  | .pageBack page data =>
    let a := 4096 * page
    match s.migrOf a with
    | none => some s
    | some m =>
      if !m.home ∨ m.st ≠ .away then some s
      else
        let s := s.plainPut ((data.filter fun d => decide (d.1 < 4096)).map fun d => (a + d.1, d.2))
        some ((s.modMigr a fun m => { m with st := .closing }).sendTo msgClosing m.module_ (leBytes 8 page))
  | _ => none

/-- MIGRATION_CLOSING (R253): what still stands here goes on to the home; then the frame is free. -/
def execMigrationClosing (s : State) : Outcome State Fault Refusal := s.withInput fun i s =>
  match i with
  | .closing page =>
    let a := 4096 * page
    let st := paStation a
    match s.migrOf a with
    | none => some s
    | some m =>
      if m.home then some s
      else
        let s := ((s.station st).rems.filter fun r => r.pa / 4096 == page).foldl (fun s r => s.passOn r) s
        some ((s.dropMigr page).sendTo msgClosed (paModule a) (leBytes 8 page))
  | _ => none

/-- MIGRATION_CLOSED (R253). -/
def execMigrationClosed (s : State) : Outcome State Fault Refusal := s.withInput fun i s =>
  match i with
  | .closed page =>
    match s.migrOf (4096 * page) with
    | none => some s
    | some m =>
      if !m.home ∨ m.st ≠ .closing then some s
      else
        let s := s.modStation (paStation (4096 * page)) fun x => { x with contend := x.contend.filter fun c => c.page != page }
        some ((s.dropMigr page).unholdLast page)
  | _ => none

/-- MIGEN_CLEAR (R255): every migrated page of the module returns. -/
def execMigenClear (s : State) : Outcome State Fault Refusal :=
  .next (s.withCbw fun w s => ((s.stations.flatMap fun x => x.2.migr).foldl State.recall (s.regWrite w)))

/-! Tile walks (R256 to R258). -/

def engOff (e : Nat) : Nat := 0x1000 + 0x20 * e
def State.engCell (s : State) (e o : Nat) : Word := Cells.get s.pcb (engOff e + o)

/-- The engine runs: EN is 1, STOP is 0, no permit is under way. -/
def State.engRuns (s : State) (e : Nat) : Bool := (s.engCell e 0x18).getLsbD 0 && !(s.engCell e 0x18).getLsbD 1 && !(s.engineOf e).busy

def State.engStop (s : State) (e : Nat) : State := { s with pcb := Cells.set s.pcb (engOff e + 0x18) (s.engCell e 0x18 ||| 2) }

/-- An engine's translation: under its context, at supervisor privilege. -/
def State.engXlate (s : State) (e va n : Nat) (acc : Access) : Xl × State :=
  s.xlateTo (dispTid (s.engineOf e).stn) (s.engCtx e) .supervisor va n acc

/-- A queue descriptor of an engine: station memory, for the right of an atomic. -/
def State.engQueue (s : State) (e : Nat) (va : Word) : Option Nat × State :=
  match s.engXlate e va.toNat 64 .atomic with
  | (.pa pa _, s) => (if va.toNat % 64 = 0 ∧ (s.paKind pa = .own ∨ s.paKind pa = .remote) then some pa else none, s)
  | (_, s) => (none, s)

/-- A tile-walk descriptor (R257). -/
structure TDesc where
  w : List Word
  deriving DecidableEq, Repr

def TDesc.dw (d : TDesc) (i : Nat) : Word := d.w.getD i 0
def TDesc.rows (d : TDesc) : Nat := max 1 (wbits (d.dw 2) 48 16)
def TDesc.rowlen (d : TDesc) : Nat := wbits (d.dw 2) 0 17
def TDesc.targets (d : TDesc) : List Nat := ((List.range 4).map fun k => wbits (d.dw 4) (16 * k) 16).filter (· != 0xFFFF)

/-- The address of a row: base, tile stride by tile number, row stride by row, modulo 2^64. -/
def rowAddr (base : Word) (tile row : Nat) (ts rs : Nat) : Nat := (base + ofInt64 (tile * sext ts 32 + row * sext rs 32)).toNat

def TDesc.runs (d : TDesc) (tile : Nat) : List Run :=
  cutRuns ((List.range d.rows).map fun r =>
    ⟨rowAddr (d.dw 0) tile r (wbits (d.dw 5) 32 32) (wbits (d.dw 3) 32 32), rowAddr (d.dw 1) tile r (wbits (d.dw 5) 0 32) (wbits (d.dw 3) 0 32), d.rowlen⟩)

/-- An address on a target: the module field of its translation is replaced. -/
def onModule (m pa : Nat) : Nat := m * 2 ^ 41 + pa % 2 ^ 41

/-- Whether a target's address is station memory of a module that is present. -/
def State.onTarget (s : State) (m pa : Nat) : Option Nat :=
  let a := onModule m pa
  if s.paKind a = .own ∨ s.paKind a = .remote then some a else none

/-- The source and the destination of one run, before the module field is replaced; none fails the checks. -/
def State.engRun (s : State) (e : Nat) (r : Run) : Option (Nat × Nat) × State :=
  match s.engXlate e r.src r.len .read with
  | (.pa a _, s) =>
    match s.engXlate e r.dst r.len .write with
    | (.pa b _, s) => (if s.paKind a = .own then some (a, b) else none, s)
    | (_, s) => (none, s)
  | (_, s) => (none, s)

def State.engRuns_ (s : State) (e : Nat) : List Run → Option (List (Run × Nat × Nat)) × State
  | [] => (some [], s)
  | r :: rest =>
    match s.engRun e r with
    | (none, s) => (none, s)
    | (some (a, b), s) =>
      let (l, s) := s.engRuns_ e rest
      (l.map ((r, a, b) :: ·), s)

/-- All of a tile's pieces, target by target; none where a check fails. -/
def State.tilePieces (s : State) (d : TDesc) (runs : List (Run × Nat × Nat)) (bar : Option Nat) : Option (List TPiece) :=
  (d.targets.mapM fun m =>
    let credit : Option (Option Nat) := match bar with
      | none => some none
      | some a => (s.onTarget m a).map some
    credit.bind fun c => runs.mapM fun (r, a, b) => (s.onTarget m b).map fun b =>
      ({ p := { src := .mem a, dst := .mem b, len := r.len, sva := some r.src, dva := some r.dst }, bar := c } : TPiece)).map List.flatten

/-- The checks of a tile, with every translation it needs. -/
def State.planTile (s : State) (e : Nat) (d : TDesc) (tile : Nat) : Option (List TPiece) × State :=
  match s.engRuns_ e (d.runs tile) with
  | (none, s) => (none, s)
  | (some runs, s) =>
    if d.dw 6 = 0 then (s.tilePieces d runs none, s)
    else
      match s.engXlate e (d.dw 6).toNat 16 .atomic with
      | (.pa a _, s) => (s.tilePieces d runs (some (a / 16 * 16)), s)
      | (_, s) => (none, s)

/-- The descriptor that a permit names. -/
def State.tileDesc (s : State) (e i : Nat) : Option TDesc :=
  (s.virtBytes (s.engineOf e).stn (s.engCtx e) .supervisor ((s.engCell e 0x10).toNat + 64 * i) 64).map fun bs =>
    ⟨(List.range 8).map fun k => BitVec.ofNat 64 (leNat ((bs.drop (8 * k)).take 8))⟩

/-- Whether a translation that a permit needs waits for a page under migration (R252). -/
def State.tileWaits (s : State) (e : Nat) (perm : Word) : Bool :=
  let at_ (va : Nat) : Bool := s.walkWaits (dispTid (s.engineOf e).stn) (s.engCtx e) va
  at_ ((s.engCell e 0x10).toNat + 64 * wbits perm 0 16) ||
    match s.tileDesc e (wbits perm 0 16) with
    | none => false
    | some d => ((d.runs (wbits perm 16 32)).any fun r => at_ r.src || at_ r.dst) || (d.dw 6 != 0 && at_ (d.dw 6).toNat)

/-- A permit begins (R258). -/
def State.beginTile (s : State) (e : Nat) (perm : Word) : State :=
  if s.tileWaits e perm then s.modEngine e fun x => { x with busy := true, waits := true, perm := perm } else
  let s := s.modEngine e fun x => { x with waits := false }
  let start (s : State) (status : Nat) (ps : List TPiece) (vas : List Nat := []) : State :=
    s.modEngine e fun x => { x with busy := true, perm := perm, status := status, pieces := ps, begun := s.cyc, vas := vas }
  if wbits (s.engCell e 0x18) 16 16 ≤ wbits perm 0 16 ∨ wbits perm 48 16 ≠ 0 then start s 1 []
  else
    match s.tileDesc e (wbits perm 0 16) with
    | none => (start s 2 []).engStop e
    | some d =>
      if d.targets.isEmpty then start s 1 []
      else
        match s.planTile e d (wbits perm 16 32) with
        | (none, s) => (start s 2 []).engStop e
        | (some ps, s) => start s 0 ps (if d.dw 6 = 0 then [] else [(d.dw 6).toNat])

/-- Whether a queue of an engine waits for a page under migration: its translation, its descriptor, or its slots (R252). -/
def State.engHeld (s : State) (e : Nat) (va : Word) : Bool :=
  let t := dispTid (s.engineOf e).stn
  s.walkWaits t (s.engCtx e) va.toNat ||
    match s.xlateFull t (s.engCtx e) .supervisor va.toNat .atomic with
    | .pa pa _ => s.pageHeld pa || ([16, 24].any fun o =>
        let a := (s.homeN pa 8 + 8 * (s.homeN (pa + o) 8 % 2 ^ (s.homeN (pa + 8) 8 % 32))) % 2 ^ 64
        s.walkWaits t (s.engCtx e) a || (match s.xlateFull t (s.engCtx e) .supervisor a .atomic with
          | .pa b _ => s.pageHeld b
          | _ => false))
    | _ => false

/-- TILE_WALK_PERMIT: an empty queue gives nothing, a queue that cannot be read stops the engine; a permit that has been dequeued waits
for its translations. -/
def execTileWalkPermit (engine : Nat) (s : State) : Outcome State Fault Refusal :=
  if (s.engineOf engine).waits then .next (s.beginTile engine (s.engineOf engine).perm)
  else if !s.engRuns engine || s.engHeld engine (s.engCell engine 0) then .next s
  else
    match s.engQueue engine (s.engCell engine 0) with
    | (none, s) => .next (s.engStop engine)
    | (some pa, s) =>
      let (r, s) := s.queueStep (dispTid (s.engineOf engine).stn) (s.engCtx engine) .supervisor pa none
      if r.2 = 0 then .next (s.beginTile engine r.1)
      else if r.2 = 1 then .next s
      else .next (s.engStop engine)

/-- TILE_WALK_DONE: the status is enqueued as the pieces are acknowledged; a full queue makes it wait. -/
def execTileWalkDone (engine : Nat) (s : State) : Outcome State Fault Refusal :=
  let x := s.engineOf engine
  if !x.busy || x.waits || !x.pieces.isEmpty || s.engHeld engine (s.engCell engine 8) then .next s
  else
    let idle (s : State) : State := s.modEngine engine fun x => { x with busy := false }
    match s.engQueue engine (s.engCell engine 8) with
    | (none, s) => .next ((idle s).engStop engine)
    | (some pa, s) =>
      let (r, s) := s.queueStep (dispTid x.stn) (s.engCtx engine) .supervisor pa (some (wset x.perm 56 8 x.status))
      if r.1 = 0 then .next (idle s)
      else if r.1 = 1 then .next s
      else .next ((idle s).engStop engine)

/-! Ports (R22, R385, R386, R411). -/

def portOff (p : Nat) : Nat := 0x3100 + 8 * p
def State.port (s : State) (p : Nat) : Port := Tab.get s.ports p
def State.setPort (s : State) (p : Nat) (x : Port) : State := { s with ports := Tab.set s.ports p x }

/-- Ports 0 to 30 stand on port die 0, 31 to 77 on port die 1. -/
def portDie (p : Nat) : Nat := if p < 31 then 0 else 1

/-- A saturating 16-bit count in a port register. -/
def State.portCount (s : State) (p lo : Nat) : State :=
  let v := Cells.get s.pcb (portOff p)
  { s with pcb := Cells.set s.pcb (portOff p) (wset v lo 16 (min 65535 (wbits v lo 16 + 1))) }

/-- The module's number changes with the training (R411): what its home slices hold follows it (log 39). -/
def State.renumber (s : State) (m : Nat) : State :=
  if m = s.modnum then s
  else
    let own := s.mem.filterMap fun c => if paModule c.1 = s.modnum then some (onModule m c.1, c.2) else none
    let rest := s.mem.filter fun c => paModule c.1 != s.modnum && paModule c.1 != m
    { s with
      mem := Cells.setAll (Cells.setAll [] rest) own
      stations := s.stations.map fun (i, x) =>
        (i, { x with qres := x.qres.map fun q => { q with pa := onModule m q.pa }, uncorr := x.uncorr.map fun u => (onModule m u.1, u.2) })
      modnum := m }

/-- FABRIC_TRAIN: an assignment outside 1 to 16 lanes leaves its port down, one of more than 320 lanes the ports of its die. -/
def execFabricTrain (s : State) : Outcome State Fault Refusal := s.withInput fun i s =>
  match i with
  | .train lanes present modnum =>
    let n (p : Nat) : Nat := lanes.getD p 0
    let total (d : Nat) : Nat := (((List.range 78).filter fun p => portDie p == d).map n).sum
    let ok (p : Nat) : Bool := decide (1 ≤ n p) && decide (n p ≤ 16) && decide (total (portDie p) ≤ 320)
    let ports := (List.range 78).map fun p =>
      let ls := if ok p then (List.range (n p)).filter fun l => !(s.port p).failed.contains l else []
      (p, ({ s.port p with up := !ls.isEmpty, lanes := ls } : Port))
    some ({ s with ports := ports, present := present }.renumber (modnum % 1536))
  | _ => none

/-- A lane fails and its port retrains (R385): it goes on with its working lanes; without one it is down. -/
def State.laneFail (s : State) (p l : Nat) : State :=
  let x := s.port p
  let ls := x.lanes.filter (· != l)
  (s.setPort p { x with up := !ls.isEmpty, lanes := ls, failed := l :: x.failed.filter (· != l), crc := x.crc.filter fun e => e.1 != l }).portCount p 32

/-- LANE_FAIL_RETRAIN (R385): training cannot lock a lane. -/
def execLaneFailRetrain (s : State) : Outcome State Fault Refusal := s.withInput fun i s =>
  match i with
  | .lane p l => some (s.laneFail p l)
  | _ => none

/-- FABRIC_FLIT_REPLAY (R385): the flit and all after it are sent again, in order; CRCERR counts it, and the lane that shows more than 64
CRC errors in 2^20 cycles fails. -/
def execFabricFlitReplay (s : State) : Outcome State Fault Refusal := s.withInput fun i s =>
  match i with
  | .flit p l =>
    let s := s.portCount p 48
    let x := s.port p
    let es := (l, s.cyc) :: x.crc.filter fun e => decide (s.cyc < e.2 + 2 ^ 20)
    let s := s.setPort p { x with crc := es }
    some (if x.lanes.contains l ∧ 64 < es.countP (·.1 == l) then s.laneFail p l else s)
  | _ => none

end Sys2Proof.Machine
end

