-- ==== Sys2Proof/Machine/EvHost.lean ====
section
/-! DEFINITION. The host link: RDMA writes and reads, submissions and their delivery, completions, acknowledgements, timing
messages (R242, R289, R292, R387 to R393). -/

namespace Sys2Proof.Machine

open Host

/-! Messages of the host link: kinds of the model's own. -/

def msgRead : Nat := 0x42
def msgNak : Nat := 0x43

/-- A write of the module's own to a host window (R388): on the window's queue pair; an unusable window takes nothing. -/
def State.hostWrite (s : State) (st kind pa : Nat) (bs : List Byte) : State :=
  if paModule pa = 2047 ∧ s.hostOk st pa bs.length then
    (s.plainPut (((List.range bs.length).map (pa + ·)).zip bs)).hostSend st kind pa bs.length bs
  else s

/-! The host register page (R390, R392), which the host reaches 2^35 above a station's memory. -/

def pageOff : Nat := 2 ^ 35

def hostMask (o : Nat) : Nat :=
  match o % 64 with
  | 0x00 => 2 ^ 32 - 1 | 0x08 => 2 ^ 64 - 1 | 0x10 => 2 ^ 48 - 1 | 0x18 => 2 ^ 44 - 2 ^ 32 | 0x20 => 2 ^ 64 - 64
  | 0x28 => 2 ^ 64 - 2 ^ 32 + 31 | _ => 0

def State.hreg (s : State) (st c o : Nat) : Word := Cells.get (s.station st).host (64 * c + o)
def State.setHreg (s : State) (st c o : Nat) (v : Word) : State :=
  s.modStation st fun x => { x with host := Cells.set x.host (64 * c + o) v }

/-- One byte of the page. -/
def State.pageByte (s : State) (st o : Nat) : Byte := BitVec.ofNat 8 (wbits (Cells.get (s.station st).host (o / 8 * 8)) (8 * (o % 8)) 8)
def State.putPageByte (s : State) (st o : Nat) (b : Byte) : State :=
  if 1024 ≤ o then s
  else
    let m : Word := BitVec.ofNat 64 (hostMask (o / 8 * 8)) &&& BitVec.ofNat 64 (255 * 2 ^ (8 * (o % 8)))
    let old := Cells.get (s.station st).host (o / 8 * 8)
    let v := (old &&& ~~~ m) ||| (BitVec.ofNat 64 (b.toNat * 2 ^ (8 * (o % 8))) &&& m)
    s.modStation st fun x => { x with host := Cells.set x.host (o / 8 * 8) v }

/-! RDMA (R242, R387, R389). -/

/-- What the link supports (R387): reliable-connected queue pairs, writes, writes with immediate and reads, a path MTU of 1,024, 2,048 or
4,096 bytes. -/
def roceOk (rc : Bool) (mtu : Nat) (op : RoceOp) : Bool := rc && [1024, 2048, 4096].contains mtu && op != .other

/-- Bytes that a host writes: into station memory, or into the register page. -/
def State.rdmaPut (s : State) (st off : Nat) (data : List Byte) : State :=
  if pageOff ≤ off then
    ((List.range data.length).zip data).foldl (fun s (i, b) => s.putPageByte st (off - pageOff + i) b) s
  else s.plainPut ((((List.range data.length).map (off + ·)).zip data).filterMap fun (o, b) => if o < 2 ^ 34 then some (s.pa st o, b) else none)

def State.rdmaGet (s : State) (st off len : Nat) : List Byte :=
  if pageOff ≤ off then (List.range len).map fun i => s.pageByte st (off - pageOff + i) else s.homeBytes (s.pa st off) len

/-- HOST_RDMA_WRITE: in the order in which the writes of a queue pair came. -/
def execHostRdmaWrite (s : State) : Outcome State Fault Refusal := s.withInput fun i s =>
  match i with
  | .roce _ rc mtu st (.write off data) => if roceOk rc mtu (.write off data) then some (s.rdmaPut st off data) else none
  | _ => none

/-- HOST_RDMA_WRITE_IMM: every earlier write of its queue pair has been performed; the immediate is discarded. -/
def execHostRdmaWriteImm (s : State) : Outcome State Fault Refusal := s.withInput fun i s =>
  match i with
  | .roce _ rc mtu st (.writeImm off data) => if roceOk rc mtu (.writeImm off data) then some (s.rdmaPut st off data) else none
  | _ => none

/-- HOST_RDMA_READ. -/
def execHostRdmaRead (s : State) : Outcome State Fault Refusal := s.withInput fun i s =>
  match i with
  | .roce qp rc mtu st (.read off len) =>
    if !roceOk rc mtu (.read off len) then none
    else
      let s := if off < pageOff then s.readMarks (s.pa st off) len else s
      some (s.send msgRead qp (s.rdmaGet st off len))
  | _ => none

/-- ROCE_UNSUPPORTED_REQUEST: a NAK of kind remote invalid request. -/
def execRoceUnsupportedRequest (s : State) : Outcome State Fault Refusal := s.withInput fun i s =>
  match i with
  | .roce qp rc mtu _ op => if roceOk rc mtu op then none else some (s.send msgNak qp [])
  | _ => none

/-- HOST_LINK_ACKNOWLEDGE (R242). -/
def execHostLinkAcknowledge (s : State) : Outcome State Fault Refusal := s.withInput fun i s =>
  match i with
  | .hostAck st co id => some (s.modCore st co fun c => { c with wbs := c.wbs.filter fun w => !(w.id == id && w.away) })
  | _ => none

/-- IEEE_1588_TIMESTAMP (R387): TB as the message arrives. -/
def execIeee1588Timestamp (s : State) : Outcome State Fault Refusal := s.withInput fun i s =>
  match i with
  | .stamp port => some { s with stamps := s.stamps ++ [(port.val, s.tb)] }
  | _ => none

/-! Submissions (R391). -/

/-- A status record. -/
def State.statusRecord (s : State) (st c kind tier : Nat) : State :=
  let a := (s.hreg st c 0x08).toNat
  if a = 0 then s
  else s.hostWrite st msgWrite a (leBytes 4 (wbits (s.hreg st c 0) 0 32) ++ [BitVec.ofNat 8 kind, BitVec.ofNat 8 tier, BitVec.ofNat 8 c, 0] ++ leBytes 8 s.tb)

def State.nak (s : State) (st c kind tier : Nat) : State :=
  let v := s.hreg st c 0x10
  (s.setHreg st c 0x10 (wset v 0 16 (min 65535 (wbits v 0 16 + 1)))).statusRecord st c kind tier

/-- Into the queue of a tier by deadline, ties in order of arrival. -/
def insertIn (e : InEntry) : List InEntry → List InEntry
  | [] => [e]
  | x :: xs => if x.tier = e.tier ∧ e.deadl < x.deadl then e :: x :: xs else x :: insertIn e xs

/-- Entries of a queue of one tier (R289). -/
def Station.tierQueue (x : Station) (t : Nat) : List InEntry := x.intake.filter (·.tier == t)

/-- An entry is accepted. -/
def State.acceptIn (s : State) (st c tier : Nat) (e : InEntry) : State :=
  let s := s.setHreg st c 0 (BitVec.ofNat 64 ((wbits (s.hreg st c 0) 0 32 + 1) % 2 ^ 32))
  let n := Tab.get (s.station st).inAcks c + 1
  let full := decide (max 1 (wbits (s.hreg st c 0x10) 32 16) ≤ n)
  let s := s.modStation st fun x => { x with intake := insertIn e x.intake, inAcks := Tab.set x.inAcks c (if full then 0 else n) }
  if full then s.statusRecord st c 0 tier else s

/-- INTAKE_SUBMIT: one write of 64 bytes at a multiple of 64 of the 4 KiB aperture; any other is discarded, and what comes to a station
that has failed is lost (R393). -/
def execIntakeSubmit (s : State) : Outcome State Fault Refusal := s.withInput fun i s =>
  match i with
  | .submit st off entry =>
    if entry.length ≠ 64 ∨ off % 64 ≠ 0 ∨ 4096 ≤ off ∨ (s.station st).lost then some s
    else
      let d0 := leNat (entry.take 8)
      let c := bits d0 32 4
      let tier := bits d0 36 3
      let d := (bits d0 0 32 + 2 ^ 32 - wbits (s.hreg st c 0) 0 32) % 2 ^ 32
      let e : InEntry := { tier := tier, ctx := c, deadl := leNat ((entry.drop 8).take 8), bytes := entry }
      if !s.resident st c then some (s.nak st c 3 tier)
      else if 2 ^ 31 ≤ d then
        let v := s.hreg st c 0x10
        some (s.setHreg st c 0x10 (wset v 16 16 (min 65535 (wbits v 16 16 + 1))))
      else if d ≠ 0 then some (s.nak st c 2 tier)
      else if 512 ≤ ((s.station st).tierQueue tier).length then some (s.nak st c 1 tier)
      else some (s.acceptIn st c tier e)
  | _ => none

/-! Queue handles (R290). -/

/-- The home address of the descriptor that a handle of a context names. -/
def State.handleQueue (s : State) (st c h : Nat) : Option Nat :=
  match s.virtN st c .supervisor ((s.cb st (0x420 + 0x40 * c)).toNat + 8 * h) 8 with
  | none => none
  | some v =>
    if v = 0 then none
    else
      match s.xlateFull (dispTid st) c .supervisor (v % 2 ^ 57 / 64 * 64) .atomic with
      | .pa a _ => if s.paKind a = .own ∨ s.paKind a = .remote then some a else none
      | _ => none

/-! Delivery (R289). -/

/-- A tier whose head may be tried now. -/
def State.inTry (s : State) (st t : Nat) : Bool :=
  let x := s.station st
  !x.lost && !(x.tierQueue t).isEmpty && decide (Tab.get x.inRetry t ≤ s.cyc)

/-- Whether a tier may deliver in the present round: up to its weight; a tier without weight when no weighted one has entries. -/
def State.inTurn (s : State) (st t : Nat) : Bool :=
  let w (t : Nat) : Nat := s.cbBits st 0x300 (8 * t) 8
  s.inTry st t &&
    if w t = 0 then (List.range 8).all fun u => w u == 0 || ((s.station st).tierQueue u).isEmpty
    else decide (Tab.get (s.station st).inRound t < w t) || (List.range 8).all fun u => !s.inTry st u || decide (w u ≤ Tab.get (s.station st).inRound u)

/-- Counts a delivery; the round begins again when every tier has used its weight. -/
def State.inCount (s : State) (st t : Nat) : State :=
  let w := s.cbBits st 0x300 (8 * t) 8
  s.modStation st fun x =>
    let old := if w ≤ Tab.get x.inRound t then [] else x.inRound
    { x with inRound := Tab.set old t (Tab.get old t + 1) }

/-- The slot of the intake buffer ring that takes a context's next entry. -/
def State.inSlotVa (s : State) (st c : Nat) : Word :=
  let cap := min 16 (s.cbBits st (0x430 + 0x40 * c) 12 6)
  s.cb st (0x428 + 0x40 * c) + BitVec.ofNat 64 (64 * (Tab.get (s.station st).inSlot c % 2 ^ cap))

/-- The head entry is written to its slot and its address enqueued; whether it is. An ENQ that finds the queue full is one nonetheless:
it brings the descriptor into queue SRAM (R290). -/
def State.deliver (s : State) (st c : Nat) (e : InEntry) : Bool × State :=
  let va := s.inSlotVa st c
  let late := decide (e.deadl < s.tb)
  let bytes := leBytes 8 (setBits (leNat (e.bytes.take 8)) 39 1 late.toNat) ++ e.bytes.drop 8
  if !(s.cb st (0x438 + 0x40 * c)).getLsbD 0 ∨ s.halted st c ∨ !s.resident st c then (false, s)
  else
    match s.dispTarget st c va.toNat 64, s.handleQueue st c (s.cbBits st (0x430 + 0x40 * c) 0 12) with
    | some pa, some q =>
      if s.pageHeld q then (false, s) else
      let s := (s.plainPut (((List.range 64).map (pa + ·)).zip bytes)).hostStore st pa bytes
      let (r, s) := s.queueStep (dispTid st) c .supervisor q (some va)
      (r.1 == 0, s)
    | _, _ => (false, s)

/-- INTAKE_DELIVER: an entry that cannot be delivered is tried again after 64 cycles. -/
def execIntakeDeliver (st tier : Nat) (s : State) : Outcome State Fault Refusal :=
  if !s.inTurn st tier then .next s
  else
    match (s.station st).tierQueue tier with
    | [] => .next s
    | e :: _ =>
      match s.deliver st e.ctx e with
      | (false, s) => .next (s.modStation st fun x => { x with inRetry := Tab.set x.inRetry tier (s.cyc + 64) })
      | (true, s) =>
        .next ((s.modStation st fun x =>
          { x with intake := x.intake.erase e, inSlot := Tab.set x.inSlot e.ctx (Tab.get x.inSlot e.ctx + 1) }).inCount st tier)

/-! Completions (R392). -/

def State.complRoom (s : State) (st c : Nat) : Bool :=
  let size := 2 ^ min 20 (wbits (s.hreg st c 0x28) 0 5)
  decide ((wbits (s.hreg st c 0x18) 0 32 + 2 ^ 32 - wbits (s.hreg st c 0x28) 32 32) % 2 ^ 32 < size)

/-- The record of an entry is written, and CSEQ moves on. -/
def State.complWrite (s : State) (st c : Nat) (a : Word) : State :=
  let v := s.hreg st c 0x18
  let seq := wbits v 0 32
  let size := 2 ^ min 20 (wbits (s.hreg st c 0x28) 0 5)
  let body := s.virtBytes st c .supervisor ((a.toNat + 8) % 2 ^ 64) 56
  let s := s.virtMarks st c .supervisor ((a.toNat + 8) % 2 ^ 64) 56
  let d0 := seq + c * 2 ^ 32 + if body.isNone then 2 ^ 63 else 0
  let s := s.hostWrite st msgWriteImm ((s.hreg st c 0x20).toNat + 64 * (seq % size)) (leBytes 8 d0 ++ body.getD (List.replicate 56 0))
  (s.setHreg st c 0x18 (wset v 0 32 (seq + 1))).modStation st fun x => { x with compl := Tab.set x.compl c none }

/-- COMPLETION_RECORD: the engine dequeues an entry, waits for room in the ring, and writes the record; that of a station
that has failed does nothing (R393). -/
def execCompletionRecord (st ctx : Nat) (s : State) : Outcome State Fault Refusal :=
  if (s.station st).lost then .next s else
  match Tab.get (s.station st).compl ctx with
  | some a => .next (if s.complRoom st ctx then s.complWrite st ctx a else s)
  | none =>
    match s.handleQueue st ctx (wbits (s.hreg st ctx 0x18) 32 12) with
    | none => .next s
    | some q =>
      if s.pageHeld q then .next s else
      let (r, s) := s.queueStep (dispTid st) ctx .supervisor q none
      if r.2 ≠ 0 then .next s
      else
        let s := s.modStation st fun x => { x with compl := Tab.set x.compl ctx (some r.1) }
        .next (if s.complRoom st ctx then s.complWrite st ctx r.1 else s)

end Sys2Proof.Machine
end

