-- ==== Sys2Proof/Machine/EvSlate.lean ====
section
/-! DEFINITION. SLATE_FORM and DECLARING_CYCLE (R262, R266 to R273, R276 to R284, R304, R343, R414): the dispatcher matches a
segment, engages sequences, forms slates and posts jobs. -/

namespace Sys2Proof.Machine

open Host

/-- A dispatch register of a context (R278). -/
def State.disp (s : State) (st c o : Nat) : Word := s.cb st (0x400 + 0x40 * c + o)

/-- Whether the dispatcher looks at segments for a context (R278, R322); for a halted one it creates no jobs (R367, R368). -/
def State.dispatches (s : State) (st c : Nat) : Bool := (s.disp st c 0x38).getLsbD 0 && s.resident st c

/-! Dispatch table entries (R279). -/

/-- What a matching entry says. -/
structure DEntry where
  frag : Word
  dloff : Nat
  cores : List Nat
  split : Bool
  jt : Bool
  budget : Nat
  deriving DecidableEq, Repr

/-- Whether an entry matches a segment. -/
def entryMatches (d0 d1 : Nat) (r : Resident) : Bool :=
  tbit d0 63 && tbit d0 62 == r.marker && bits d0 50 12 == tagModel r.tag && (tagLayer r.tag &&& bits d0 26 12) == bits d0 38 12 &&
    (tagPart r.tag &&& bits d1 32 16) == bits d1 48 16 && (!r.marker || bits d0 18 8 == 0 || bits d0 18 8 == r.mkind)

def entryOf (d1 d2 d3 : Nat) : DEntry :=
  { frag := BitVec.ofNat 64 (d2 / 64 * 64), dloff := bits d1 24 8
    cores := (List.range 8).filter fun k => bits d1 16 8 == 0 || tbit d1 (16 + k)
    split := tbit d1 15, jt := tbit d1 14, budget := if bits d3 32 32 = 0 then 17280 else bits d3 32 32 }

/-- The lowest-numbered matching entry, and how many entries before it could not be read. -/
def State.findEntry (s : State) (st c : Nat) (r : Resident) : Nat → Nat → Option DEntry × Nat
  | 0, _ => (none, 0)
  | n + 1, i =>
    match s.virtBytes st c .supervisor ((s.disp st c 0).toNat + 32 * i) 32 with
    | none => let (e, k) := s.findEntry st c r n (i + 1)
              (e, k + 1)
    | some bs =>
      let d (k : Nat) : Nat := leNat ((bs.drop (8 * k)).take 8)
      if entryMatches (d 0) (d 1) r then (some (entryOf (d 1) (d 2) (d 3)), 0) else s.findEntry st c r n (i + 1)

/-- How many entries the search looks at. -/
def State.entriesRead (s : State) (st c : Nat) (r : Resident) : Nat → Nat → Nat
  | 0, _ => 0
  | n + 1, i =>
    match s.virtBytes st c .supervisor ((s.disp st c 0).toNat + 32 * i) 32 with
    | none => s.entriesRead st c r n (i + 1) + 1
    | some bs => if entryMatches (leNat (bs.take 8)) (leNat ((bs.drop 8).take 8)) r then 1 else s.entriesRead st c r n (i + 1) + 1

/-- The fragment of a jump-table entry (R55); 0 where the table does not give one. -/
def State.jump (s : State) (st c i : Nat) : Word :=
  if 63 < i then 0 else BitVec.ofNat 64 ((s.virtN st c .supervisor ((s.disp st c 0x18).toNat + 8 * i) 8).getD 0)

/-! Engagement (R273, R276, R277, R280). -/

/-- The rows that a prefill sequence may take. -/
def State.prefillRows (s : State) (st tier : Nat) : Nat := s.cbBits st 0x220 (7 * tier) 7

/-- One sequence at the open marker of a layer: a TIER above 7 counts as the block is read (R287); a prefill sequence's chunk is held
from here on, be it 0 (R273, R280). -/
def State.engage (s : State) (st c i : Nat) (va : Word) (r : Resident) : State :=
  match s.seqBlock st c va with
  | none => s.count st 0x320
  | some pa =>
    let bad := (s.station st).uncorr.any fun m => m.2 && decide (pa ≤ m.1) && decide (m.1 < pa + 0x40)
    let s := s.readMarks pa 0x40
    let n (o k : Nat) : Nat := s.homeN (pa + o) k
    let fl := n 0x0D 1
    let rj : Word := BitVec.ofNat 64 (n 0x38 8)
    let s := if 7 < n 0x0C 1 then s.count st 0x320 else s
    if !tbit fl 0 || tbit fl 4 || n 0x08 2 % 4096 != tagModel r.tag || n 0x0A 2 != tagLayer r.tag || (s.station st).seqCap c va ||
        (tbit fl 3 && !sameLayer rj r.tag) then s
    else
      let tier := min 7 (n 0x0C 1)
      let prefill := tbit fl 2
      let rows := if prefill then min (min (n 0x20 4) (s.prefillRows st tier)) (s.cbBits st 0x228 0 7) else 1
      let s := if tbit fl 3 then s.homePutN (pa + 0x0D) 1 (setBits fl 3 1 0) else s
      if bad then s.skip st c va r.tag
      else
        let s := if prefill then s.homePutN (pa + 0x24) 4 rows else s
        s.modStation st fun x => { x with rebuilding := x.rebuilding.erase (c, va), engaged := x.engaged.filter (fun e => !(e.ctx == c && e.va == va)) ++
          [{ ctx := c, va := va, pa := pa, order := i, model := tagModel r.tag, layer := tagLayer r.tag, rot := tagRot r.tag, tier := tier
             pend := tbit fl 1, fidx := n 0x0E 2, prefill := prefill, sdl := BitVec.ofNat 64 (n 0x10 8), rows := rows }] }

/-- The sequences of a context's list. -/
def State.engageAll (s : State) (st c : Nat) (r : Resident) : State :=
  (List.range (min 4096 (s.disp st c 0x10).toNat)).foldl (fun s i =>
    let s := s.virtMarks st c .supervisor ((s.disp st c 0x08).toNat + 8 * i) 8
    match s.virtN st c .supervisor ((s.disp st c 0x08).toNat + 8 * i) 8 with
    | some v => if v = 0 then s else s.engage st c i (BitVec.ofNat 64 v) r
    | none => s) s

/-- The engaged sequences of a context for a segment, in sequence-list order: none whose REJOIN is set meanwhile (R269). -/
def State.engagedFor (s : State) (st c : Nat) (tag : Word) : List Engaged :=
  (s.station st).engaged.filter fun e => e.ctx == c && e.model == tagModel tag && e.layer == tagLayer tag && e.rot == tagRot tag &&
    !tbit (s.homeN (e.pa + 0x0D) 1) 3

/-! Slates (R273, R281). -/

/-- The fragment that a sequence takes; none skips it (R281, R304). -/
def State.fragOf (s : State) (st : Nat) (d : DEntry) (e : Engaged) : Option Word :=
  if e.pend || (d.jt && e.fidx != 0xFFFF) then
    if e.fidx = 0xFFFF then none else (if s.jump st e.ctx e.fidx = 0 then none else some (s.jump st e.ctx e.fidx))
  else some d.frag

/-- Groups by fragment and tier, in the order in which they first occur. -/
def addGroup (f : Word) (e : Engaged) : List (Word × Nat × List Engaged) → List (Word × Nat × List Engaged)
  | [] => [(f, e.tier, [e])]
  | (g, t, es) :: rest => if g = f ∧ t = e.tier then (g, t, es ++ [e]) :: rest else (g, t, es) :: addGroup f e rest

def insertSdl (e : Engaged) : List Engaged → List Engaged
  | [] => [e]
  | x :: xs => if x.sdl.toNat ≤ e.sdl.toNat then x :: insertSdl e xs else e :: x :: xs

def sortSdl (l : List Engaged) : List Engaged := l.foldl (fun acc e => insertSdl e acc) []

/-- Slates under way: the full ones, the one being filled, sequences that found no room for their chunk. -/
structure Packing where
  full : List (List Engaged) := []
  cur : List Engaged := []
  out : List Engaged := []

def slateRows (l : List Engaged) : Nat := (l.map Engaged.rows).sum

/-- The next sequence takes its rows; at the open marker a prefill sequence takes what room is left, and later one whose chunk finds no
room is skipped (R273). -/
def Packing.add (p : Packing) (cap : Nat) (isOpen : Bool) (e : Engaged) : Packing :=
  let room := cap - slateRows p.cur
  if room = 0 ∧ (isOpen ∨ e.rows ≤ cap) then { p with full := p.full ++ [p.cur], cur := [{ e with rows := min e.rows cap }] }
  else if e.rows ≤ room then { p with cur := p.cur ++ [e] }
  else if isOpen then { p with cur := p.cur ++ [{ e with rows := room }] }
  else { p with out := p.out ++ [e] }

def pack (cap : Nat) (isOpen : Bool) (l : List Engaged) : Packing := l.foldl (fun p e => p.add cap isOpen e) {}

/-- A slate's sequences dealt over cores, one at a time. -/
def deal (cores : List Nat) (l : List Engaged) : List (Nat × List Engaged) :=
  (cores.zip (List.range cores.length)).filterMap fun (k, i) =>
    match (l.zip (List.range l.length)).filterMap fun (e, n) => if n % cores.length = i then some e else none with
    | [] => none
    | es => some (k, es)

/-! Posting (R282, R283, R414). -/

/-- Whether a job holds a slate record, wherever the job has moved since it was posted. -/
def State.slateHeld (s : State) (st c i : Nat) : Bool := s.stations.any fun x => x.2.jobs.any fun j => j.ctx == c && j.slRec == some (st, i)

/-- The lowest free slate record of a context. -/
def State.freeSlate (s : State) (st c : Nat) : Option Nat :=
  (List.range (s.cbBits st (0x6108 + 0x10 * c) 0 16)).find? fun i => !s.slateHeld st c i

/-- A slate record's bytes. -/
def slateRecord (j : Job) : List Byte :=
  let items : List Word := [BitVec.ofNat 64 j.rows.length, j.live, j.slVa + 64, j.segwin, BitVec.ofNat 64 j.stripe, BitVec.ofNat 64 j.ctx, j.frag,
    BitVec.ofNat 64 j.arrive]
  pad (dws (items ++ j.rows.map Row.va)) 1024

/-- Posts a job: its queue must have room and its slate record must be written; else its rows are skipped. -/
def State.post (s : State) (st : Nat) (j : Job) : State :=
  if 256 ≤ (s.core st j.core).posted.length then (s.skipRows st j).count st 0x310
  else
    let full (s : State) : State := (s.skipRows st j).count st 0x6200
    match s.freeSlate st j.ctx with
    | none => full s
    | some n =>
      let va := s.cb st (0x6100 + 0x10 * j.ctx) + BitVec.ofNat 64 (1024 * n)
      match s.dispTarget st j.ctx va.toNat 1024 with
      | some pa =>
        let x := s.station st
        let j := { j with id := x.nextJob, num := x.jobNum, slRec := some (st, n), slVa := va }
        let s := (s.homePut pa (slateRecord j)).hostStore st pa (slateRecord j)
        let s := s.modStation st fun x => { x with jobs := x.jobs ++ [j], nextJob := x.nextJob + 1, jobNum := x.jobNum + 1 }
        s.modCore st j.core fun k => { k with posted := k.posted ++ [j.id] }
      | none => full s

/-- The job of a slate on a core. -/
def jobFor (c f : Nat) (d : DEntry) (r : Resident) (frame : Nat) (tier : Nat) (core : Nat) (l : List Engaged) : Job :=
  let rows := l.flatMap fun e => List.replicate e.rows ({ va := e.va, pa := e.pa } : Row)
  { id := 0, core := core, ctx := c, tier := tier, frag := BitVec.ofNat 64 f
    dl := if 1 ≤ d.dloff ∧ d.dloff ≤ 47 then r.arrive + 360 * d.dloff else r.expiry
    bud := d.budget, rows := rows, live := BitVec.ofNat 64 (2 ^ rows.length - 1)
    stripe := if r.marker then 0 else core
    segwin := if r.marker then 0 else BitVec.ofNat 64 (segBase + frame * 2 ^ 22 + 256 + 286720 * core)
    tag := r.tag, segLen := r.len, arrive := r.arrive, expiry := r.expiry }

/-- The chunk of a prefill sequence is fixed at the open marker and held for the layer (R273). -/
def State.setChunk (s : State) (st : Nat) (e : Engaged) : State :=
  if !e.prefill then s
  else (s.homePutN (e.pa + 0x24) 4 e.rows).modStation st fun x =>
    { x with engaged := x.engaged.map fun y => if y.ctx = e.ctx ∧ y.va = e.va then { y with rows := e.rows } else y }

/-- The slates of one context for a segment. Rows that a full queue skips leave the slate's other jobs too (R269, R282, log 90). -/
def State.slates (s : State) (st c frame : Nat) (r : Resident) (d : DEntry) : State :=
  let isOpen := r.marker && r.mkind == 1
  let cap := s.cbBits st 0x228 0 7
  let es := s.engagedFor st c r.tag
  let none_ := es.filter fun e => (s.fragOf st d e).isNone
  let groups := es.foldl (fun g e => match s.fragOf st d e with
    | some f => addGroup f e g
    | none => g) []
  let s := none_.foldl (fun s e => s.skip st c e.va r.tag) s
  groups.foldl (fun s (f, tier, l) =>
    let p := pack cap isOpen (sortSdl (l.filter fun e => e.rows != 0))
    let s := if isOpen then (p.full.flatten ++ p.cur).foldl (fun s e => s.setChunk st e) s else s
    let s := p.out.foldl (fun s e => s.skip st c e.va r.tag) s
    (p.full ++ [p.cur]).foldl (fun s slate =>
      let parts := if d.split then deal d.cores slate else d.cores.map fun k => (k, slate)
      parts.foldl (fun s (k, l) =>
        let l := l.filter fun e => (s.engagedFor st c r.tag).any fun y => y.va == e.va
        if l.isEmpty then s else s.post st (jobFor c f.toNat d r frame tier k l)) s) s) s

/-- The engaged sequences of a context that a segment finds to dispatch: those with rows, and those that no fragment takes. -/
def State.wanted (s : State) (st c : Nat) (r : Resident) (d : DEntry) : List Engaged :=
  (s.engagedFor st c r.tag).filter fun e => e.rows != 0 || (s.fragOf st d e).isNone

/-- One context at a segment's arrival. Those of a halted context are skipped as the segment expires (R368). -/
def State.slateCtx (s : State) (st c frame : Nat) (r : Resident) : State :=
  if !s.dispatches st c then s
  else
    let s := if r.marker ∧ r.mkind = 1 then s.engageAll st c r else s
    let (d, bad) := s.findEntry st c r 1024 0
    let s := s.virtMarks st c .supervisor (s.disp st c 0).toNat (32 * s.entriesRead st c r 1024 0)
    let s := if bad = 0 then s else s.setCb st 0x328 (s.cb st 0x328 + BitVec.ofNat 64 bad)
    match d with
    | none => s
    | some d =>
      if s.halted st c then s.modStation st fun x => { x with missed := x.missed ++ (s.wanted st c r d).map fun e => (c, frame, e.va) }
      else if r.poison then (s.wanted st c r d).foldl (fun s e => s.skip st c e.va r.tag) s
      else s.slates st c frame r d

/-- A tag that no station can trust (R272). -/
def lostTag : Word := BitVec.allOnes 64

/-- Header fields read from a segment's bytes (R263). -/
def Resident.parse (r : Resident) : Resident :=
  let n (o k : Nat) : Nat := r.bytes.readN o k
  { r with
    tag := BitVec.ofNat 64 (n 0 8), len := n 8 4, marker := tbit (n 16 1) 0, poison := tbit (n 16 1) 1
    mkind := n 19 1, pos := n 20 4 }

/-- The segment that a station passed last before a slot. -/
def State.lastPassed (s : State) (st n : Nat) : Option Resident :=
  ((s.station st).frames.map Prod.snd).foldl (fun (b : Option Resident) r =>
    if n ≤ r.arriveSlot then b
    else match b with
      | none => some r
      | some q => if q.arriveSlot < r.arriveSlot then some r else some q) none

/-- The tag of the segment in which a sequence would next have been dispatched (R272): of the stream positions from the lost one on, the
first that is of the sequence's layer and matches an entry of its dispatch table (log 27). -/
def State.nextTag (s : State) (st frame : Nat) (e : Engaged) : Word :=
  let S := max 1 (s.cbBits st 0x210 23 17)
  let p := match s.lastPassed st (s.frame st frame).arriveSlot with
    | some r => r.pos + 1
    | none => (s.frame st frame).pos
  let hdr (i : Nat) : Resident := ({ bytes := Memory.writeBytes [] 0 (Tab.get s.manifest ((p + i) % S)) } : Resident).parse
  let mine (i : Nat) : Bool :=
    let r := hdr i
    tagModel r.tag == e.model && tagLayer r.tag == e.layer && (s.findEntry st e.ctx r 1024 0).1.isSome
  match (List.range S).find? mine with
  | some i => mkTag e.model e.layer (tagPart (hdr i).tag) e.rot
  | none => mkTag e.model e.layer 0 e.rot

/-- Whether a model is among the four enabled (R262, R275). -/
def State.modelOn (s : State) (st m : Nat) : Bool :=
  (List.range 4).any fun k => (s.cb st 0x218).getLsbD (16 * k + 15) && s.cbBits st 0x218 (16 * k) 12 == m

/-- SLATE_FORM, in the cycle ARRIVE + 8. -/
def execSlateForm (st frame : Nat) (s : State) : Outcome State Fault Refusal :=
  let r := s.frame st frame
  if !s.hasFrame st frame || r.arrive + 8 != s.cyc then .next s
  else if r.tag = lostTag then
    .next ((s.station st).engaged.foldl (fun s e => s.skip st e.ctx e.va (s.nextTag st frame e)) s)
  else if !s.modelOn st (tagModel r.tag) then .next (s.count st 0x248)
  else
    let s := (List.range 16).foldl (fun s c => s.slateCtx st c frame r) s
    .next (if r.marker ∧ r.mkind = 2 then
      s.modStation st fun x => { x with engaged := x.engaged.filter fun e =>
        !(e.model == tagModel r.tag && e.layer == tagLayer r.tag && e.rot == tagRot r.tag) }
    else s)

/-! The declaring cycle (R267, R268). -/

/-- The declaring cycle of a job: its DL, which a debugger halt suspends, or the expiry of its segment. -/
def State.declareAt (s : State) (st : Nat) (j : Job) : Option Nat :=
  let dl : Option Nat := match j.tid st with
    | some t => if (s.thread t).halted then none else some ((s.thread t).creg crDL).toNat
    | none => some j.dl
  match dl, j.expiry with
  | d, 0 => d
  | some d, e => some (min d e)
  | none, e => some e

/-- DECLARING_CYCLE. -/
def execDeclaringCycle (st job : Nat) (s : State) : Outcome State Fault Refusal :=
  match s.job? st job with
  | none => .next s
  | some j =>
    match s.declareAt st j with
    | none => .next s
    | some d =>
      if j.dead ∨ s.cyc < d then .next s
      else .next (((s.modJob st job fun j => { j with dead := true }).skipRows st j).closeJob st job)

end Sys2Proof.Machine
end

