-- ==== Sys2Proof/Machine/EvRing.lean ====
section
/-! DEFINITION. The ring: RING_SLOT_START, SEGMENT_RECEIVE, SEGMENT_EXPIRE (R260 to R265, R271, R272, R275, R384), RING_SYNC_LOSS
with the bypass of a failed station (R379 to R383), KV_REBUILD (R377), SKIP_FLIT_REPLAY (R378). -/

namespace Sys2Proof.Machine

open Host

/-! Segments (R263). -/

/-- One bit of CRC-32C, reflected. -/
def crcBits : Nat → Nat → Nat
  | 0, c => c
  | n + 1, c => crcBits n (if c % 2 = 1 then (c / 2) ^^^ 0x82F63B78 else c / 2)

/-- CRC-32C: initial value and final XOR all ones. -/
def crc32c (bs : List Byte) : Nat := (bs.foldl (fun c b => crcBits 8 (c ^^^ b.toNat)) 0xFFFFFFFF) ^^^ 0xFFFFFFFF

def Resident.write (r : Resident) (o k v : Nat) : Resident := { r with bytes := r.bytes.writeN o k v }

/-- HCRC recomputed. -/
def Resident.seal (r : Resident) : Resident := (r.write 252 4 (crc32c (r.bytes.bytes 0 252))).parse
def Resident.hcrcOk (r : Resident) : Bool := r.bytes.readN 252 4 == crc32c (r.bytes.bytes 0 252)
def Resident.pcrcOk (r : Resident) : Bool := r.bytes.readN 28 4 == crc32c (r.bytes.bytes 256 r.len)
def Resident.setPoison (r : Resident) (on : Bool) : Resident := (r.write 16 1 (setBits (r.bytes.readN 16 1) 1 1 on.toNat)).seal
def Resident.setRot (r : Resident) (rot : Nat) : Resident := (r.write 0 3 (rot % 2 ^ 24)).seal
def Resident.rot (r : Resident) : Nat := tagRot r.tag

/-- A placeholder (R380): the manifest's header with POISON set, a marker whole; its rotation under R381. -/
def State.placeholder (s : State) (pos rot : Nat) : Resident :=
  let r := ({ bytes := Memory.writeBytes [] 0 (Tab.get s.manifest pos) } : Resident).parse.setRot rot
  if r.marker then r else r.setPoison true

/-! Ring registers (R275). -/

def State.shareReg (s : State) (st : Nat) : Nat := s.cbBits st 0x210 0 11
def State.origin (s : State) (st : Nat) : Nat := s.cbBits st 0x210 17 6
def State.stageSize (s : State) (st : Nat) : Nat := s.cbBits st 0x210 23 17
def State.rbase (s : State) (st : Nat) : Nat := (s.cb st 0x200).toNat

/-- A ring slot begins for a station. -/
def State.slotBegins (s : State) (st : Nat) : Bool := decide (s.rbase st ≤ s.cyc) && (s.cyc - s.rbase st) % Config.slotCycles == 0

/-- The station that passes to a station: its predecessor, or the one before a bypassed predecessor. -/
def State.pred (s : State) (st : Nat) : Nat :=
  let p := (st + Config.stations - 1) % Config.stations
  if (s.station p).share = 0 then (st + Config.stations - 2) % Config.stations else p

/-! Passing and receiving (R261, R262, R271, R272). -/

/-- What a station passes in a slot: a fill, or the segment that arrives there. -/
def State.passes (s : State) (st n : Nat) : Option Resident :=
  let x := s.station st
  if x.lost ∨ x.share = 0 then none
  else
    match x.fills.find? fun r => r.arriveSlot == n with
    | some r => some r
    | none => let r := s.frame st (n % 64)
              if s.hasFrame st (n % 64) ∧ r.arriveSlot = n then some r else none

/-- The checks of a receipt: an HCRC failure loses the tag, a PCRC mismatch poisons; both are counted and reported. -/
def State.checkSeg (s : State) (st : Nat) (r : Resident) : Resident × State :=
  if !r.hcrcOk then
    ((((r.write 0 8 (lostTag.toNat)).write 16 1 (setBits (r.bytes.readN 16 1) 1 1 1)).seal), (s.count st 0x240).send 0x30 st (leBytes 4 r.pos))
  else if !r.poison && !r.pcrcOk then (r.setPoison true, s.count st 0x240)
  else (r, s)

/-- A segment's bytes fill a slot of the transit store, or of the hoop, once firmware has set its bounds (R14, R18, log 82). -/
def State.fillSlot (s : State) (st lo hi slot : Nat) (r : Resident) : State :=
  let n := (hi - lo) / Config.segmentBytes
  if n = 0 then s else s.homePut (s.pa st (lo + slot % n * Config.segmentBytes)) (r.bytes.bytes 0 Config.segmentBytes)

def State.fillTransit (s : State) (st : Nat) (r : Resident) : State :=
  s.fillSlot st (s.station st).transitLo (s.station st).transitHi r.recvSlot r

def State.fillHoop (s : State) (st : Nat) (r : Resident) : State := s.fillSlot st (s.station st).hoopLo (s.station st).hoopHi r.arriveSlot r

/-- SEGMENT_RECEIVE. -/
def execSegmentReceive (st : Nat) (s : State) : Outcome State Fault Refusal :=
  let n := s.rsn st
  let x := s.station st
  if x.share = 0 ∨ (x.segs.any fun r => r.recvSlot == n) then .next s
  else
    match s.passes (s.pred st) n with
    | none => .next s
    | some r =>
      let r := { r with bytes := x.spoil.foldl (fun m (b : Nat × Byte) => Cells.set m b.1 (Cells.get m b.1 ^^^ b.2)) r.bytes }.parse
      let (r, s) := s.checkSeg st r
      let r := if s.origin st = st ∧ r.tag ≠ lostTag then r.setRot (r.rot + 1) else r
      let r := { r with recvSlot := n, arriveSlot := n + x.share }
      .next ((s.fillTransit st r).modStation st fun x => { x with spoil := [], segs := x.segs ++ [r] })

/-! Arrival (R264, R271, R384). -/

/-- A reload slot staged for a position. -/
def State.reloadFor (s : State) (st pos : Nat) : Option Nat :=
  (List.range 8).find? fun k => (s.cb st (0x3068 + 16 * k)).getLsbD 63 && s.cbBits st (0x3068 + 16 * k) 0 32 == pos

/-- Where the staged segment of a reload slot begins, and the segment. -/
def State.stagedAt (s : State) (st k : Nat) : Nat := s.pa st (s.cbBits st (0x3060 + 16 * k) 0 35)
def State.staged (s : State) (st k : Nat) : Resident :=
  let a := s.stagedAt st k
  let hdr := ({ bytes := Memory.writeBytes [] 0 (s.homeBytes a 256) } : Resident).parse
  { hdr with bytes := Memory.writeBytes hdr.bytes 256 (s.homeBytes (a + 256) (min hdr.len 2303744)) }

/-- A poisoned segment for which a slot is staged: the staged one, as the host wrote it, takes its place where PCRC matches. -/
def State.reload (s : State) (st : Nat) (r : Resident) : Resident × State :=
  if !r.poison then (r, s)
  else
    match s.reloadFor st r.pos with
    | none => (r, s)
    | some k =>
      let g := s.staged st k
      let s := s.readMarks (s.stagedAt st k) (256 + min g.len 2303744)
      let c := s.cb st 0x3040
      if g.pcrcOk then
        let o := 0x3068 + 16 * k
        ({ g.setPoison false with recvSlot := r.recvSlot, arriveSlot := r.arriveSlot },
         (s.setCb st 0x3040 (wset c 0 32 (wbits c 0 32 + 1))).setCb st o (wset (s.cb st o) 63 1 0))
      else (r, s.setCb st 0x3040 (wset c 32 32 (wbits c 32 32 + 1)))

/-- The slot of a segment in the transit store, once there is one (log 82). -/
def Station.transitAt (x : Station) (slot : Nat) : Option Nat :=
  let n := (x.transitHi - x.transitLo) / Config.segmentBytes
  if n = 0 then none else some (x.transitLo + slot % n * Config.segmentBytes)

/-- An uncorrectable error that the read-out of a segment's slot of the transit store finds poisons the segment (R271, R371). -/
def State.readOut (s : State) (st : Nat) (r : Resident) : Resident × State :=
  match (s.station st).transitAt r.recvSlot with
  | none => (r, s)
  | some a =>
    let lost := (s.station st).uncorr.any fun m => m.2 && decide (a ≤ paOff m.1) && decide (paOff m.1 < a + Config.segmentBytes)
    let s := s.readMarks (s.pa st a) Config.segmentBytes
    if lost then (r.setPoison true, s.count st 0x240) else (r, s)

/-- A segment arrives. -/
def State.arriveSeg (s : State) (st n : Nat) : State :=
  match (s.station st).segs.find? fun r => r.arriveSlot == n with
  | none => s
  | some r =>
    let (r, s) := s.readOut st r
    let (r, s) := s.reload st r
    let a := s.rbase st + Config.slotCycles * n
    let r := { r with arrive := a, expiry := a + Config.hoopCycles }
    (s.fillHoop st r).modStation st fun x =>
      { x with
        segs := x.segs.filter fun q => n < q.arriveSlot
        frames := Tab.set x.frames (n % 64) r
        lastRot := Tab.set x.lastRot r.pos r.rot }

/-! Repair (R379 to R383). -/

/-- Moves what a station holds to later slots. -/
def State.delay (s : State) (st d : Nat) : State :=
  s.modStation st fun x => { x with segs := x.segs.map fun r => { r with arriveSlot := r.arriveSlot + d } }

/-- The stations of the ring after a failed one, in order. -/
def ringFrom (f : Nat) : List Nat := (List.range (Config.stations - 1)).map fun i => (f + 1 + i) % Config.stations

/-- BYPASS_START, at slot n0: the new shares, the origin, the placeholders of step 3, which the host is to reload (R395). A share of 0
bypasses the station (R275). -/
def State.bypassStart (s : State) (f n0 : Nat) : State :=
  let S := s.stageSize ((f + 1) % Config.stations)
  let df := (s.station f).share
  let order := ringFrom f
  let (s, _) := (order.zip (List.range order.length)).foldl (fun (x : State × Int) (j, i) =>
    let d := S / 47 + if i < S % 47 then 1 else 0
    let u := x.2 + ((d : Int) - ((x.1.station j).share : Int))
    let s := (x.1.delay j u.toNat).setCb j 0x210 (wset (x.1.cb j 0x210) 0 11 d)
    (s.modStation j fun y => { y with share := d }, u)) (s, 0)
  let s := (List.range Config.stations).foldl (fun s j =>
    if s.origin j = f then s.setCb j 0x210 (wset (s.cb j 0x210) 17 6 ((f + 1) % Config.stations)) else s) s
  let b := (f + Config.stations - 1) % Config.stations
  let fills := match s.lastPassed b n0 with
    | none => []
    | some r => (List.range df).map fun i =>
        let p := (r.pos + S - (df - 1 - i) % max S 1) % max S 1
        { s.placeholder p (Tab.get (s.station b).lastRot p) with arriveSlot := n0 + i }
  let s := s.modStation b fun x => { x with fills := fills }
  let s := s.setCb f 0x210 (wset (s.cb f 0x210) 0 11 0)
  { s.modStation f fun x => { x with share := 0, segs := [] } with repair := none, reloads := s.reloads ++ fills.map Resident.pos }

/-- Every resident context of a station halts with cause 4. -/
def State.haltAll (s : State) (st : Nat) : State :=
  ((List.range 16).filter (s.resident st)).foldl (fun s c => s.haltCtx st c 4) s

/-- A station has failed: what its intake and its completion engine hold is lost with it (R379, R393). -/
def Station.fail (x : Station) : Station := { x with lost := true, intake := [], compl := [] }

/-- Two placeholders for the positions that follow the last one received (step 1); the host is to reload them (R395). -/
def State.takePlaceholders (s : State) (st n : Nat) : State :=
  let S := max 1 (s.stageSize st)
  let s := s.modStation st fun x => { x with segs := x.segs.filter fun r => r.recvSlot < n }
  let x := s.station st
  let last := (x.segs ++ x.frames.map Prod.snd).foldl (fun (b : Option Resident) r => match b with
    | none => some r
    | some q => if q.recvSlot < r.recvSlot then some r else some q) none
  match last with
  | none => s
  | some r =>
    [0, 1].foldl (fun s i =>
      let p := (r.pos + 1 + i) % S
      let h := s.placeholder p (Tab.get (s.station st).lastRot p + 1)
      let h := { h with recvSlot := n + i, arriveSlot := n + i + (s.station st).share }
      let s := (s.fillTransit st h).modStation st fun x => { x with segs := x.segs ++ [h] }
      { s with reloads := s.reloads ++ [h.pos] }) s

/-- RING_SYNC_LOSS: the station and its input name the predecessor that it no longer hears; refused where bypass cannot hold. -/
def execRingSyncLoss (s : State) : Outcome State Fault Refusal := s.withInput fun i s =>
  match i with
  | .syncLoss st answers =>
    let f := s.pred st
    let s := s.send 0x31 st [BitVec.ofNat 8 f]
    let s := if answers then s.haltAll f else s
    let refused := decide (87608 < s.stageSize st) || (List.range Config.stations).any fun j => (s.station j).lost || (s.station j).share == 0
    let s := s.modStation f Station.fail
    if refused then some ((List.range Config.stations).foldl State.haltAll s)
    else
      let n := s.rsn st
      some { s.takePlaceholders st n with repair := some (f, n + 2) }
  | _ => none

/-! The slot (R260, R275). -/

/-- A written SHARE takes effect: what the station holds moves by the difference (R275). -/
def State.shareChange (s : State) (st n : Nat) : State :=
  let x := s.station st
  let d := s.shareReg st
  if d = x.share then s
  else
    s.modStation st fun x =>
      { x with
        share := d
        segs := (x.segs.map fun r => { r with arriveSlot := r.arriveSlot + d - x.share }).filter fun r => n ≤ r.arriveSlot }

/-- RING_SLOT_START. -/
def execRingSlotStart (s : State) : Outcome State Fault Refusal :=
  let l := (s.stations.map Prod.fst).filter s.slotBegins
  let s := match s.repair with
    | some (f, n0) => if l.any fun st => s.rsn st == n0 then s.bypassStart f n0 else s
    | none => s
  let s := l.foldl (fun s st => (s.shareChange st (s.rsn st)).arriveSeg st (s.rsn st)) s
  let s := l.foldl (fun s st => s.modStation st fun x => { x with fills := x.fills.filter fun r => s.rsn st ≤ r.arriveSlot }) s
  .next { s with agenda := (l.filter fun st => (s.station st).share != 0).map (fun st => Action.ev (.segmentReceive st)) ++ s.agenda }

/-- Whether a sequence waits to rejoin. -/
def State.rejoins (s : State) (st c : Nat) (va : Word) : Bool := ((s.seqBlock st c va).map fun pa => tbit (s.homeN (pa + 0x0D) 1) 3).getD false

/-- SEGMENT_EXPIRE (R265, R221, R368): a SEGHOLD that still reads ends short; the sequences of a halted context that the segment found to
dispatch take the skip rule. -/
def execSegmentExpire (st frame : Nat) (s : State) : Outcome State Fault Refusal :=
  let r := s.frame st frame
  if !s.hasFrame st frame || r.expiry != s.cyc then .next s
  else
    let holds (k : CopyJob) : Bool := k.tag == some r.tag && k.pieces.any fun p => match p.src with
      | .seg f _ => f == frame
      | _ => false
    let s := ((s.station st).copies.filter holds).foldl (fun s k => s.copyShort st k.id) s
    let out := (s.station st).missed.filter fun m => m.2.1 == frame
    let s := s.modStation st fun x => { x with missed := x.missed.filter fun m => m.2.1 != frame }
    .next (out.foldl (fun s m => if s.rejoins st m.1 m.2.2 then s else s.skip st m.1 m.2.2 r.tag) s)

/-! Rebuilding a key-value page (R377). -/

/-- A firmware telemetry record (R307, R374, R377). -/
def State.fwRecord (s : State) (st code : Nat) (v : Word) : State :=
  let size := s.cbBits st 0x1408 0 21
  if size = 0 then s.count st 0x1420
  else
    let head := s.cbBits st 0x1410 0 21
    let s := s.homePut (s.pa st (s.cbBits st 0x1400 0 35 + 32 * head)) (telmRecord s.cyc 0 v code 0 .firmware)
    s.setCb st 0x1410 (BitVec.ofNat 64 (if size ≤ head + 1 then 0 else head + 1))

/-- The rotation that now passes a station. -/
def State.rotNow (s : State) (st : Nat) : Nat := ((s.lastPassed st (s.rsn st + 1)).map Resident.rot).getD 0

/-- A sequence leaves every unretired job, without a skip. -/
def State.leaveJobs (s : State) (st c : Nat) (va : Word) : State :=
  ((s.station st).jobs.filter (·.ctx == c)).foldl (fun s j =>
    (List.range j.rows.length).foldl (fun s r =>
      match j.rows[r]? with
      | some w => if w.va = va ∧ !w.skipped ∧ !w.complete then s.removeRow st j.id r else s
      | none => s) s) s

/-- The first position of the page of a sequence's committed positions in which a word lies (R222, log 61). -/
def State.kvPos (s : State) (st c : Nat) (va : Word) (word : Nat) : Option Nat :=
  match s.seqBlock st c va with
  | none => none
  | some pa =>
    let n (o k : Nat) : Nat := s.homeN (pa + o) k
    let ppg := n 0x44 2
    let holds (page : Nat) : Bool := (pagesOf page (ppg * n 0x40 4)).any fun a =>
      match s.xlateFull (dispTid st) c .supervisor a .read with
      | .pa p _ => p / 4096 == word / 4096 && decide (a / 4096 * 4096 + word % 4096 < page + ppg * n 0x40 4)
      | _ => false
    (List.range (n 0x46 2)).findSome? fun l => (List.range (min (n 0x60 4) ((n 0x48 4 + ppg - 1) / ppg))).findSome? fun j =>
      match s.virtN st c .supervisor (n 0x50 8 + 8 * (l * n 0x60 4 + j)) 8 with
      | some page => if page ≠ 0 ∧ holds page then some (j * ppg) else none
      | none => none

/-- The resident sequence in whose key-value pages a word lies: its context, its block, the first position of the page. -/
def State.kvOwner (s : State) (st word : Nat) : Option (Nat × Word × Nat) :=
  ((List.range 16).filter (s.resident st)).findSome? fun c => (List.range (min 4096 (s.disp st c 0x10).toNat)).findSome? fun i =>
    match s.virtN st c .supervisor ((s.disp st c 0x08).toNat + 8 * i) 8 with
    | some v => if v = 0 then none else (s.kvPos st c (BitVec.ofNat 64 v) word).map fun p => (c, BitVec.ofNat 64 v, p)
    | none => none

/-- A sequence's page is rebuilt from its position p0 on. One that waits to rejoin after a rebuild only has p0 lowered. -/
def State.rebuild (s : State) (st c : Nat) (va : Word) (p0 : Nat) : State :=
    match s.seqBlock st c va with
    | none => s
    | some pa =>
      let n (o k : Nat) : Nat := s.homeN (pa + o) k
      let len := n 0x48 4
      let put (s : State) : State := ((s.homePutN (pa + 0x48) 4 p0).homePutN (pa + 0x4C) 4 p0)
      if tbit (n 0x0D 1) 3 ∧ (s.station st).rebuilding.contains (c, va) then
        (if p0 < len then (put s).homePutN (pa + 0x20) 4 (n 0x20 4 + (len - p0)) else s).count st 0x3030
      else
        let s := s.modStation st fun x =>
          { x with rebuilding := (c, va) :: x.rebuilding.erase (c, va), engaged := x.engaged.filter fun e => !(e.ctx == c && e.va == va) }
        let s := s.leaveJobs st c va
        let log := (s.homeN (pa + 0x18) 8)
        let tok := (s.virtN st c .supervisor log 8).getD 0
        let fl := (s.virtN st c .supervisor (log + 8) 8).getD 0 % 4096
        let model := n 0x08 2 % 4096
        let s := (put s).homePutN (pa + 0x20) 4 (len - p0)
        let live := decide (p0 < tok)
        let f := setBits (setBits (n 0x0D 1 ||| 0x0C) 1 1 0) 0 1 (live && tbit (n 0x0D 1) 0).toNat
        let s := ((s.homePutN (pa + 0x0D) 1 f).homePutN (pa + 0x0E) 2 0xFFFF).homePutN (pa + 0x0A) 2 fl
        let s := s.homePutN (pa + 0x38) 8 (mkTag model fl 0 (s.rotNow st + 1)).toNat
        let s := s.count st 0x3030
        if live then s else s.fwRecord st 0x0102 va

/-- KV_REBUILD: a station's controller looks at the next word in which a read found an uncorrectable error. -/
def execKvRebuild (s : State) : Outcome State Fault Refusal :=
  match s.stations.find? fun x => !x.2.bad.isEmpty with
  | none => .next s
  | some (st, x) =>
    let s := s.modStation st fun x => { x with bad := x.bad.drop 1 }
    match s.kvOwner st (x.bad.headD 0) with
    | some (c, va, p0) => .next (s.rebuild st c va p0)
    | none => .next s

/-- SKIP_FLIT_REPLAY (R378). -/
def execSkipFlitReplay (s : State) : Outcome State Fault Refusal := s.withInput fun i s =>
  match i with
  | .skip st => some (s.count st 0x3038)
  | _ => none

end Sys2Proof.Machine
end

