-- ==== Sys2Proof/Machine/EvFirmware.lean ====
section
/-! DEFINITION. Station controllers: commands and the module lease (R394, R395), images, fuses, attestation (R396 to R398), a
restart (R393); memory errors (R371 to R374); power, rails, clock and reset (R403 to R407). -/

namespace Sys2Proof.Machine

open Host

/-! Commands (R395). -/

/-- What a command of the model does at its target (log 41): 0 writes a register at firmware privilege, 1 to 3 set the bounds of
the transit store, the hoop and the firmware reserve, with the sizes of R14, 4 sets TB. -/
def State.command (s : State) (st : Nat) (body : List Byte) : State :=
  let n (o k : Nat) : Nat := leNat ((body.drop o).take k)
  match n 0 1 with
  | 0 => s.cbPerform ⟨st, n 8 8 % 65536 / 8 * 8, 8, BitVec.ofNat 64 (n 16 8), .firmware⟩
  | 1 => s.modStation st fun x => { x with transitLo := n 8 8, transitHi := min (n 16 8) (n 8 8 + Config.transitMax) }
  | 2 => s.modStation st fun x => { x with hoopLo := n 8 8, hoopHi := n 8 8 + Config.hoopSlots * Config.segmentBytes }
  | 3 => s.modStation st fun x => { x with fwLo := n 8 8, fwHi := n 8 8 + Config.reserveBytes }
  | 4 => { s with tb := max s.tb (n 8 8) }
  | _ => s

/-- CONTROLLER_COMMAND: a stale EPOCH discards it. -/
def execControllerCommand (s : State) : Outcome State Fault Refusal := s.withInput fun i s =>
  match i with
  | .controller _ dst epoch body => some (if epoch < s.leaseEpoch then s else s.command dst body)
  | _ => none

/-- Whether a lease stands (R394, R395). -/
def State.leaseStands (s : State) : Bool := s.leaseHeld && decide (s.tb < s.leaseExp)

/-! SHA-256. -/

/-- The first 32 bits of the fractional parts of the cube roots of the first 64 primes. -/
def shaK : List Nat :=
  [0x428a2f98, 0x71374491, 0xb5c0fbcf, 0xe9b5dba5, 0x3956c25b, 0x59f111f1, 0x923f82a4, 0xab1c5ed5, 0xd807aa98, 0x12835b01, 0x243185be,
   0x550c7dc3, 0x72be5d74, 0x80deb1fe, 0x9bdc06a7, 0xc19bf174, 0xe49b69c1, 0xefbe4786, 0x0fc19dc6, 0x240ca1cc, 0x2de92c6f, 0x4a7484aa] ++
  [0x5cb0a9dc, 0x76f988da, 0x983e5152, 0xa831c66d, 0xb00327c8, 0xbf597fc7, 0xc6e00bf3, 0xd5a79147, 0x06ca6351, 0x14292967, 0x27b70a85,
   0x2e1b2138, 0x4d2c6dfc, 0x53380d13, 0x650a7354, 0x766a0abb, 0x81c2c92e, 0x92722c85, 0xa2bfe8a1, 0xa81a664b, 0xc24b8b70, 0xc76c51a3] ++
  [0xd192e819, 0xd6990624, 0xf40e3585, 0x106aa070, 0x19a4c116, 0x1e376c08, 0x2748774c, 0x34b0bcb5, 0x391c0cb3, 0x4ed8aa4a, 0x5b9cca4f,
   0x682e6ff3, 0x748f82ee, 0x78a5636f, 0x84c87814, 0x8cc70208, 0x90befffa, 0xa4506ceb, 0xbef9a3f7, 0xc67178f2]

/-- The first hash value. -/
def shaInit : List Nat := [0x6a09e667, 0xbb67ae85, 0x3c6ef372, 0xa54ff53a, 0x510e527f, 0x9b05688c, 0x1f83d9ab, 0x5be0cd19]

def rotr32 (n x : Nat) : Nat := (x / 2 ^ n + x * 2 ^ (32 - n)) % 2 ^ 32

/-- The next word of the message schedule; the last 16, the newest first. -/
def shaNext (w : List Nat) : Nat :=
  let a := w.getD 1 0
  let b := w.getD 14 0
  ((rotr32 17 a ^^^ rotr32 19 a ^^^ a / 2 ^ 10) + w.getD 6 0 + (rotr32 7 b ^^^ rotr32 18 b ^^^ b / 2 ^ 3) + w.getD 15 0) % 2 ^ 32

/-- One round on the eight working words. -/
def shaRound (v : List Nat) (k w : Nat) : List Nat :=
  match v with
  | [a, b, c, d, e, f, g, h] =>
    let t := h + (rotr32 6 e ^^^ rotr32 11 e ^^^ rotr32 25 e) + ((e &&& f) ^^^ ((2 ^ 32 - 1 - e) &&& g)) + k + w
    let u := (rotr32 2 a ^^^ rotr32 13 a ^^^ rotr32 22 a) + ((a &&& b) ^^^ (a &&& c) ^^^ (b &&& c))
    [(t + u) % 2 ^ 32, a, b, c, (d + t) % 2 ^ 32, e, f, g]
  | v => v

/-- The rounds of a block: of the words still to be used the next 16, and the last 16 that were used. -/
def shaRounds : List Nat → List Nat → List Nat → List Nat → List Nat
  | [], _, _, v => v
  | k :: ks, w :: ws, last, v => shaRounds ks ws ((w :: last).take 16) (shaRound v k w)
  | k :: ks, [], last, v => shaRounds ks [] ((shaNext last :: last).take 16) (shaRound v k (shaNext last))

def shaBlock (h block : List Nat) : List Nat := (h.zip (shaRounds shaK block [] h)).map fun x => (x.1 + x.2) % 2 ^ 32

/-- A number of blocks of sixteen words. -/
def shaBlocks : Nat → List Nat → List Nat → List Nat
  | 0, _, h => h
  | n + 1, ws, h => shaBlocks n (ws.drop 16) (shaBlock h (ws.take 16))

/-- A number as bytes, the most significant first. -/
def beBytes (n v : Nat) : List Byte := (leBytes n v).reverse

/-- The SHA-256 digest of some bytes (FIPS 180-4). -/
def sha256 (bs : List Byte) : List Byte :=
  let padded := bs ++ [0x80] ++ List.replicate ((119 - bs.length % 64) % 64) 0 ++ beBytes 8 (8 * bs.length)
  let words := (List.range (padded.length / 4)).map fun i => leNat ((padded.drop (4 * i)).take 4).reverse
  (shaBlocks (words.length / 16) words shaInit).flatMap (beBytes 4)

/-! Images (R396, R397). -/

def imgVersion (b : List Byte) : Nat := leNat ((b.drop 4).take 4)
def imgSvn (b : List Byte) : Nat := leNat ((b.drop 8).take 1)
def imgBody (b : List Byte) : List Byte := b.drop 512
def imgSigned (b : List Byte) : List Byte := b.take 32 ++ imgBody b
def imgMeasure (b : List Byte) : List Byte := sha256 (imgSigned b)

/-- The checks in their order. -/
def imgOk (fuse : Nat) (b : List Byte) : Bool :=
  leNat (b.take 4) == 0x46585358 && leNat ((b.drop 16).take 4) == (imgBody b).length && decide ((imgBody b).length ≤ 2 ^ 25) &&
    decide (512 ≤ b.length) && decide (imgSvn b ≤ 64) && Config.imageSignatureOk (imgSigned b) ((b.drop 32).take 384) && decide (fuse ≤ imgSvn b)

/-- IMAGE_VERIFY. -/
def execImageVerify (s : State) : Outcome State Fault Refusal := s.withInput fun i s =>
  match i with
  | .image st bytes =>
    some (if imgOk s.fuse bytes then s.modStation st fun x => { x with staged := some { bytes := bytes, svn := imgSvn bytes } }
      else s.fwRecord st 0x0201 0)
  | _ => none

/-- FUSE_COMMIT: by the leader, to the active image's SVN. -/
def execFuseCommit (s : State) : Outcome State Fault Refusal :=
  .next (if s.fuseReq && s.leaseStands then { s with fuse := max s.fuse (min 64 s.active.svn), fuseReq := false } else s)

/-- STATION_CONTROLLER_RESTART (R393): a staged image runs from now on. -/
def execStationControllerRestart (s : State) : Outcome State Fault Refusal := s.withInput fun i s =>
  match i with
  | .restart st => some (s.modStation st fun x => { x with image := x.staged.getD x.image, staged := none })
  | _ => none

/-! Attestation (R398). -/

/-- Version and SVN of an image, or zeros. -/
def imgId (b : List Byte) : List Byte := if b.isEmpty then List.replicate 5 0 else leBytes 4 (imgVersion b) ++ [BitVec.ofNat 8 (imgSvn b)]
def imgDigest (b : List Byte) : List Byte := if b.isEmpty then List.replicate 32 0 else pad (imgMeasure b) 32

/-- Bytes 0 to 255 of a report. -/
def State.reportHead (s : State) (req : List Byte) : List Byte :=
  let staged := ((s.station s.leaseHolder).staged.map Image.bytes).getD []
  let num := (req.drop 40).take 4
  let a := leBytes 4 1 ++ num ++ req.take 32 ++ leBytes 8 s.leaseEpoch ++ leBytes 2 s.modnum ++ [BitVec.ofNat 8 s.fuse, if staged.isEmpty then 0 else 1]
  let a := pad (a ++ imgId s.active.bytes) 64 ++ imgDigest s.active.bytes
  pad (pad (a ++ imgId staged) 128 ++ imgDigest staged) 256

/-- ATTEST_REQUEST. -/
def execAttestRequest (s : State) : Outcome State Fault Refusal :=
  match s.attest with
  | [] => .next s
  | req :: rest =>
    if !s.leaseStands then .next s
    else
      let h := s.reportHead req
      .next ({ s with attest := rest }.hostWrite s.leaseHolder msgWrite (leNat ((req.drop 32).take 8)) (h ++ pad (Config.attestSign h) 384))

/-! Self-tests (R373, R374). -/

/-- The row of an offset; the bank of a row: 32,768 rows of one home slice (log 42). -/
def rowOf (off : Nat) : Nat := off / 2048
def bankOf (row : Nat) : Nat × Nat := (row / 2 % 16, (row / 32 * 2 + row % 2) / 32768)

/-- Row k of a bank. -/
def bankRow (b : Nat × Nat) (k : Nat) : Nat := let i := b.2 * 32768 + k; i / 2 * 32 + b.1 * 2 + i % 2

/-- SELF_TEST_START: the row is read into the staging buffer, which serves it until the test ends. -/
def execSelfTestStart (st : Nat) (s : State) : Outcome State Fault Refusal :=
  let x := s.station st
  match x.errs with
  | [] => .next s
  | r :: rest =>
    if x.testing.isSome ∨ x.scan.isSome then .next s
    else
      let s := s.modStation st fun x => { x with errs := rest, testing := some (r, s.cyc) }
      .next (s.readMarks (s.pa st (rowOf r.off * 2048)) 2048)

/-- A lasting error takes one of the bank's 32 spares; with none left the row stays in use. The power-on self-test will find it
again (R374). -/
def State.lasting (s : State) (st row : Nat) : State :=
  let b := bankOf row
  let s := { s with badRows := s.badRows ++ [(st, row)] }
  if ((s.station st).retired.countP fun q => bankOf q == b) < 32 then
    (s.modStation st fun x => { x with retired := x.retired ++ [row] }).count st 0x3018
  else (s.count st 0x3020).fwRecord st 0x0101 (BitVec.ofNat 64 (row * 2048))

/-- SELF_TEST_END: an error reported in the row while it was staged makes the outcome lasting. -/
def execSelfTestEnd (s : State) : Outcome State Fault Refusal :=
  match s.inputs with
  | .testEnd st failed :: rest =>
    let x := s.station st
    match x.testing with
    | none => .next { s with inputs := rest }
    | some (r, at_) =>
      if s.cyc < at_ + 2048 then .next s
      else
        let s := { s with inputs := rest }
        let row := rowOf r.off
        let b := bankOf row
        let again := x.errs.any fun e => rowOf e.off == row && decide (at_ < e.cyc)
        let s := s.modStation st fun x => { x with testing := none, scan := some (b.2 * 16 + b.1, 0, s.cyc + 16) }
        .next (if failed || again then s.lasting st row else s.count st 0x3010)
  | _ => .next s

/-- The next row of a bank under scan is read for syndrome. -/
def State.scanRow (s : State) (st : Nat) : State :=
  match (s.station st).scan with
  | none => s
  | some (b, k, _) =>
    let row := bankRow (b % 16, b / 16) k
    let s := s.readMarks (s.pa st (row * 2048)) 2048
    s.modStation st fun x => { x with scan := if k + 1 = 32768 then none else some (b, k + 1, s.cyc + 16) }

/-- A station whose scan reads its next row now. -/
def State.scanDue (s : State) : Option Nat :=
  (s.stations.find? fun x => match x.2.scan with
    | some (_, _, due) => decide (due ≤ s.cyc)
    | none => false).map Prod.fst

/-- BANK_SCAN_ROW. -/
def execBankScanRow (s : State) : Outcome State Fault Refusal :=
  match s.scanDue with
  | some st => .next (s.scanRow st)
  | none => .next s

/-! Power (R406, R407). -/

def State.power (s : State) (o lo len : Nat) : Nat := wbits (Cells.get s.pcb o) lo len

/-- The positions of a run of 16 in the order in which they are swallowed. -/
def swallowOrder : List Nat := [15, 7, 11, 3, 13, 5, 9, 1, 14, 6, 10, 2]

/-- The swallow count that a decision sets. -/
def swallowCount (demand limit temp thr kmin : Nat) : Nat :=
  let k := ((List.range 13).find? fun k => decide (demand * (16 - k) ≤ limit * 16)).getD 12
  let k := if thr ≤ temp then max k 4 else k
  let k := if thr + 10 ≤ temp then 12 else k
  max k kmin

/-- POWER_DECISION. -/
def execPowerDecision (s : State) : Outcome State Fault Refusal :=
  let a := ((List.range Config.stations).map fun st => s.cbBits st 0x3C8 8 8).sum
  let demand := s.power 0x4000 0 16 + a * s.power 0x4008 16 8
  let k := swallowCount demand (min 10000 (s.power 0x4000 16 16)) s.temp (min 105 (s.power 0x4008 8 8)) (min 12 (s.power 0x4008 4 4))
  .next { s with kNext := k, pcb := Cells.set s.pcb 0x4018 (BitVec.ofNat 64 (s.temp % 256)) }

/-- The module in reset (R404): fuses, memory with its faulty rows, TB and what has reached the outside stay (log 43). -/
def State.resetModule (s : State) : State :=
  { State.reset with
    fuse := s.fuse, badRows := s.badRows, mem := s.mem, tb := s.tb, inputs := s.inputs, msgs := s.msgs, stamps := s.stamps, freeCtr := s.freeCtr, nextId := s.nextId
    temp := s.temp, inReset := true }

/-- THERMAL_TRIP (R407): a sensor at 125 °C or above; the leader's telemetry record, then VCORE goes. -/
def execThermalTrip (s : State) : Outcome State Fault Refusal := s.withInput fun i s =>
  match i with
  | .temp v =>
    if v < 125 then none else some ({ (if s.leaseStands then s.fwRecord s.leaseHolder 0x0301 0 else s) with temp := v }.resetModule)
  | _ => none

/-- RAIL_FAULT (R404). -/
def execRailFault (s : State) : Outcome State Fault Refusal := s.withInput fun i s =>
  match i with
  | .rail _ => some s.resetModule
  | _ => none

/-- PLL_UNLOCK (R405). -/
def execPllUnlock (s : State) : Outcome State Fault Refusal := s.withInput fun i s =>
  match i with
  | .pll => some s.resetModule
  | _ => none

/-- RESET_RELEASE (R404): the power-on self-test finds the lasting rows again (R374). -/
def execResetRelease (s : State) : Outcome State Fault Refusal := s.withInput fun i s =>
  match i with
  | .release => some (s.badRows.foldl (fun s b => s.lasting b.1 b.2) { s with inReset := false, badRows := [] })
  | _ => none

end Sys2Proof.Machine
end

