-- ==== Sys2Proof/Machine/EvVat.lean ====
section
/-! DEFINITION. The Vat's hardware steps: VAT_LEASE_GRANT, HANDLER_RESERVE_CLAIM, VAT_COMPLETE, DEVIATION_LOG_APPEND,
DEVLOG_SIZE_WRITE (R146 to R171). -/

namespace Sys2Proof.Machine

open Host

/-! Leases (R152). -/

/-- Whether one waiting thread comes before another: passed over twice, then handlers in the order of their requests, then the
earliest deadline, then the lower thread context. -/
def State.leaseBefore (s : State) (a b : Tid × Nat) : Bool :=
  let rank (w : Tid × Nat) : Nat := if 2 ≤ w.2 then 0 else if (s.thread w.1).kind = .handler then 1 else 2
  let dl (w : Tid × Nat) : Nat := ((s.thread w.1).creg crDL).toNat
  if rank a ≠ rank b then decide (rank a < rank b)
  else if rank a < 2 then true
  else if dl a ≠ dl b then decide (dl a < dl b)
  else decide (a.1.tx ≤ b.1.tx)

def State.nextLease (s : State) (ws : List (Tid × Nat)) : Option (Tid × Nat) :=
  ws.foldl (fun best w => match best with
    | none => some w
    | some b => if s.leaseBefore b w then some b else some w) none

/-- VAT_LEASE_GRANT (R152): once the last accepted command has left column 0; another context's holder waits for the scrub. -/
def execVatLeaseGrant (st co : Nat) (s : State) : Outcome State Fault Refusal :=
  let v := s.vat st co
  if v.holder.isSome ∨ s.cyc < v.nextAcc then .next s
  else
    match s.nextLease v.waiters with
    | none => .next s
    | some (t, _) =>
      let ctx := (s.thread t).ctx
      let scrub := match v.lastCtx with
        | some c => if c = ctx then 0 else 32
        | none => 0
      .next (s.modVat st co fun v =>
        { v with
          holder := some t, granted := s.cyc + scrub, count := 0, scrub := scrub, lastCtx := some ctx, nextAcc := s.cyc + scrub
          waiters := (v.waiters.filter fun w => w.1 != t).map fun w => (w.1, w.2 + 1) })

/-- HANDLER_RESERVE_CLAIM (R146): the reserve is zeroed as it passes to a handler thread; what a halted owner's abandoned commands
would still write there stands zeroed too. -/
def execHandlerReserveClaim (t : Tid) (s : State) : Outcome State Fault Refusal :=
  if (s.core t.st t.co).resOwner.isSome ∨ (s.thread t).kind ≠ .handler then .next s
  else
    let ctx := (s.thread t).ctx
    let s := s.modCore t.st t.co fun k =>
      { k with
        resOwner := some t
        acc := k.acc.filter fun x => decide (x.1 < 1984 * 256)
        accOwner := (List.range 64).foldl (fun o i => Tab.set o (1984 + i) (some ctx)) k.accOwner }
    let s := s.modVat t.st t.co fun v =>
      { v with cmds := v.cmds.map fun m => if m.abandoned then { m with rows := m.rows.filter fun r => decide (r.1 < 1984) } else m }
    .next (s.modThread t fun th => { th with vatAt := s.cyc + 8 })

/-! Completion. -/

/-- The accumulator store after a command's rows took free values (R367). -/
def freeRows (free : Nat) (acc : Cells 32) (rows : List (Nat × Nat)) : Cells 32 :=
  rows.foldl (fun a (r, n) => a.putRange (256 * r) ((List.range (256 * n)).map fun i => Config.freeWord32 (free * 2 ^ 24 + 256 * r + i))) acc

/-- Whether a write of a word issued after a command landed on the same plane element in the thread cycle of its completion (R109). -/
def State.beaten (s : State) (m : VatCmd) (w : RegW) : Bool :=
  let th := s.thread m.t
  decide (s.cyc < th.landedAt + 4) && th.landed.any fun p =>
    (decide (m.acc / 4 < p.issued) || p.issued == m.acc / 4 && decide (m.seq < p.seq)) && (match w with
      | .z k _ => p.ws.any fun x => match x with
        | .z j _ => j == k
        | _ => false
      | _ => false)

/-- The register writes of a Vat command wait to be observed, its flags with them (R30, R75, R149, log 77); of writes that land in one
thread cycle the later-issued word's prevails (R109). -/
def State.vatWrites (s : State) (m : VatCmd) (ws : List RegW) (fl : Word) : State :=
  let ws := ws.filter fun w => !s.beaten m w
  let ws := ws ++ if fl = 0 then [] else [.flags fl]
  if ws.isEmpty then s else s.modThread m.t fun th => { th with unobs := th.unobs ++ [⟨.m, m.seq, ws⟩] }

/-- The accumulator store of the core after a command, its rows written by the command's context (R146). -/
def State.vatAcc (s : State) (m : VatCmd) (acc : Cells 32) : State :=
  let ctx := (s.thread m.t).ctx
  s.modCore m.t.st m.t.co fun k =>
    { k with
      acc := acc
      accOwner := m.rows.foldl (fun o (r, n) => (List.range n).foldl (fun o i => Tab.set o (r + i) (some ctx)) o) k.accOwner }

def VatCmd.rounding (m : VatCmd) (c : Ctl) : Rounding := { mode := rmOf m.rm, fout := m.fout, sat := c.sat }

/-- The entry of a checked command (R170) and the cycles of its recompute (R168). -/
def State.shadowEntry (s : State) (m : VatCmd) (c op5 : Nat) (k : Calc) (work : Nat) : State :=
  let th := s.thread m.t
  let (a, r) := deviation (k.keys.map fun x => (Cells.get k.acc x, Cells.get k.ys x))
  let tag := if th.kind = .handler then 0 else (th.creg crSEGTAG).toNat
  let bs := leBytes 8 tag ++ leBytes 4 c ++ [BitVec.ofNat 8 m.t.st, BitVec.ofNat 8 (m.t.co + 16 * m.t.tx), BitVec.ofNat 8 th.ctx,
    BitVec.ofNat 8 op5] ++ leBytes 4 a.toNat ++ leBytes 4 r.toNat ++ leBytes 8 s.cyc
  s.modCore m.t.st m.t.co fun k => { k with shadow := some { id := m.id, due := some (s.cyc + work), entry := bs } }

/-- The products' effect and, for a checked command, the shadow lane's. -/
def State.finishCalc (s : State) (m : VatCmd) (op5 work : Nat) (k : Calc) : State :=
  let s := (s.vatAcc m k.acc).vatWrites m [] k.fl
  match m.chk with
  | some c => s.shadowEntry m c op5 k work
  | none => s

/-- MMM (R158 to R163). -/
def State.doMmm (s : State) (m : VatCmd) (c : Ctl) (init nest : Bool) : State :=
  let G := Stream.of (m.gs.headD [])
  let H := Stream.of (m.gs.getD 1 [])
  let pg := m.pins.headD none
  let ph := m.pins.getD 1 none
  let kc := (vatKc G.fmt H.fmt).getD 1
  let u := vatUnit G.fmt H.fmt H.blk
  let one := basicO H.nl G.nk kc
  let reads := m.vatReads
  let ps := if nest then nestProducts (nestLevels m.nest) 0 G H else [{ row := 0, g := G, h := H }]
  let acc := (s.core m.t.st m.t.co).acc
  let k := ((ps.zip m.rows).zip (List.range ps.length)).foldl (fun k ((p, row), i) =>
    let (cols, f1) := s.columns m pg p.g H.fmt u kc H.nl (16 + i * one) reads
    let (rows, f2) := s.actRows m ph p.h u kc (16 + i * one) reads
    let k := product k { mode := .rne, sat := c.sat } init m.chk.isSome H.fmt row.1 cols rows
    { k with fl := k.fl ||| f1 ||| f2 }) ({ acc := acc, ys := acc } : Calc)
  s.finishCalc m 6 ((H.nl * G.nl * G.nk + 255) / 256 * ps.length) k

/-- MMC (R164, R165). -/
def State.doMmc (s : State) (m : VatCmd) (c : Ctl) (init : Bool) : State :=
  let G := Stream.of (m.gs.headD [])
  let fmt := (mmcFmt c.type).getD .bf16
  let kc := (vatKc G.fmt fmt).getD 1
  let u := vatUnit G.fmt fmt 0
  let nr := m.ops.getD 2 0
  let src := ((s.thread m.t).window).1 + m.ops.getD 1 0
  let acc := (s.core m.t.st m.t.co).acc
  let rows := (List.range nr).map fun i => mmcRow fmt (m.rounding c) m.dph m.fin u i (accRow acc (src + i) 0 G.nk)
  let (cols, f1) := s.columns m (m.pins.headD none) G fmt u kc nr 16 m.vatReads
  let fl := rows.foldl (fun a r => a ||| r.2) f1
  let k := product { acc := acc, ys := acc } { mode := .rne, sat := c.sat } init m.chk.isSome fmt (m.rows.headD (0, 0)).1 cols (rows.map Prod.fst)
  s.finishCalc m 7 ((nr * G.nl * G.nk + 255) / 256) { k with fl := k.fl ||| fl }

def State.doAclr (s : State) (m : VatCmd) : State :=
  m.rows.foldl (fun s (r, n) => s.vatAcc m (Cells.clear (s.core m.t.st m.t.co).acc (256 * r) (256 * n))) s

/-- ARD (R166): the block into a plane, each element rounded at its position; elements of trapped rows raise their flags too (log 92). -/
def State.doArd (s : State) (m : VatCmd) (c : Ctl) (p : ZReg) : State :=
  let b := m.ops.headD 0
  let q := m.ops.getD 1 0
  let row0 := ((s.thread m.t).window).1 + b
  let z := physZ m.base p.val
  let r := m.rounding c
  let acc := (s.core m.t.st m.t.co).acc
  let out := (List.range 64).map fun i =>
    ((accRow acc (row0 + i) (64 * q) 64).zip (List.range 64)).map fun (x, j) =>
      if plainFmt c.type then ((zKey z i j, x), (0 : Word))
      else
        let mode := if c.type.narrow then r.mode else .rne
        let (v, f) := writeAs c.type { r with mode := mode, d := ditherD ((b + i) % 16) ((64 * q + j) % 16) m.dph } (val32 x)
        ((zKey z i j, v), f)
  let all := out.flatten
  let ws := all.filterMap fun ((k, v), _) => if m.trapped.getLsbD (keyRow k) then none else some (RegW.z k v)
  s.vatWrites m ws (all.foldl (fun a x => a ||| x.2) 0)

/-- AWR (R166, R342): the plane as it stood at issue. -/
def State.doAwr (s : State) (m : VatCmd) (c : Ctl) (p : ZReg) : State :=
  let q := m.ops.getD 1 0
  let z := physZ m.base p.val
  let conv (x : Word32) : Flagged Word32 :=
    if plainFmt c.type then (x, 0)
    else
      let (v, f) := readAs c.type m.fin x.toNat
      round32 { mode := rmOf m.rm } (v, f)
  let row0 := (m.rows.headD (0, 0)).1
  let (acc, fl) := (List.range 64).foldl (fun (st : Cells 32 × Word) i =>
    if m.trapped.getLsbD i then st
    else
      let out := (List.range 64).map fun j => conv (Cells.get m.z0 (zKey z i j))
      (accPut st.1 (row0 + i) (64 * q) (out.map Prod.fst), out.foldl (fun a o => a ||| o.2) st.2)) ((s.core m.t.st m.t.co).acc, (0 : Word))
  (s.vatAcc m acc).vatWrites m [] fl

/-- ACPY to core store (R149, R166). -/
def State.doAcpyOut (s : State) (m : VatCmd) : State :=
  let r := m.ops.headD 0
  let n := m.ops.getD 1 0
  let th := s.thread m.t
  let acc := (s.core m.t.st m.t.co).acc
  let bs := (List.range n).flatMap fun i => (accRow acc (r + i) 0 256).flatMap fun x => leBytes 4 x.toNat
  s.modCore m.t.st m.t.co fun k => k.writeCs th.ctx (csWrites (th.csPut (m.ops.getD 2 0) bs))

/-- ACPY to the accumulator (R166). -/
def State.doAcpyIn (s : State) (m : VatCmd) : State :=
  let n := m.ops.getD 1 0
  let A := m.ops.getD 2 0
  let acc := (List.range n).foldl (fun acc i =>
    accPut acc ((m.rows.headD (0, 0)).1 + i) 0 ((List.range 256).map fun j =>
      BitVec.ofNat 32 (leNat ((List.range 4).map fun b => s.vatByte m none (A + 1024 * i + 4 * j + b : Nat) m.done)))) (s.core m.t.st m.t.co).acc
  s.vatAcc m acc

/-- What a completing command does. -/
def State.vatEffect (s : State) (m : VatCmd) : State :=
  if m.abandoned then
    (s.vatAcc m (freeRows m.free (s.core m.t.st m.t.co).acc m.rows)).modCore m.t.st m.t.co fun k =>
      { k with shadow := match k.shadow with
        | some x => if x.id = m.id then none else some x
        | none => none }
  else
    match m.instr with
    | .mmm c _ _ _ init nest => s.doMmm m c init nest
    | .mmc c _ _ init => s.doMmc m c init
    | .aclr _ _ => s.doAclr m
    | .ard c p _ _ => s.doArd m c p
    | .awr c p _ _ => s.doAwr m c p
    | .acpyToCoreStore _ _ _ => s.doAcpyOut m
    | .acpyToAccumulator _ _ _ => s.doAcpyIn m
    | _ => s

/-- What the reads of a completing command have found in their words (R371). -/
def State.vatMarks (s : State) (m : VatCmd) : State :=
  if (s.station m.t.st).uncorr.isEmpty then s
  else
    let at_ (p : Option Pin) (a : Int) (n : Nat) (s : State) : State := match p with
      | some (.page va _ pa _ _ _) => s.readMarks (pa + (a.toNat - va)) n
      | some (.seg f _ _) => s.readSegMarks m.t.st f (a.toNat - segBase - f * 2 ^ 22) n
      | none => s
    m.schedule.2.2.foldl (fun s x =>
      let p := m.pins.getD x.place none
      (List.range x.r.nk).foldl (fun s k => (List.range x.lines).foldl (fun s l =>
        let s := at_ p (x.r.addr (x.r.pos k l)) (elemBytes x.r.fmt) s
        match x.r.recs with
        | some (n, grp) => at_ p (x.r.recAddr (k / grp) l) n s
        | none => s) s) s) s

/-- VAT_COMPLETE: the oldest accepted command, when its time has come (R147, R148). -/
def execVatComplete (st co : Nat) (s : State) : Outcome State Fault Refusal :=
  match (s.vat st co).cmds with
  | [] => .next s
  | m :: rest => if s.cyc < m.done then .next s else .next (((s.modVat st co fun v => { v with cmds := rest }).vatMarks m).vatEffect m)

/-- DEVIATION_LOG_APPEND (R168, R170, R171): the circular log of the station. -/
def execDeviationLogAppend (st co : Nat) (s : State) : Outcome State Fault Refusal :=
  match (s.core st co).shadow with
  | none => .next s
  | some x =>
    match x.due with
    | none => .next s
    | some d =>
      if s.cyc < d then .next s
      else
        let s := s.modCore st co fun k => { k with shadow := none }
        let size := s.cbBits st 0x08 0 21
        let head := s.cbBits st 0x10 0 21
        if size = 0 then .next s
        else
          let s := s.homePut (s.pa st (s.cbBits st 0x00 0 35 + 32 * head)) x.entry
          .next (s.setCb st 0x10 (BitVec.ofNat 64 (if size ≤ head + 1 then 0 else head + 1)))

end Sys2Proof.Machine
end

