-- ==== Sys2Proof/Machine/Dispatch.lean ====
section
/-! DEFINITION. One arm for each constructor of `Instr`. -/

namespace Sys2Proof.Machine

open Host

def exec (i : Instr) (s : State) : Outcome State Fault Refusal :=
  match i with
  | .add x0 x1 x2 x3 => Sys2Proof.Machine.execAdd x0 x1 x2 x3 s
  | .sub x0 x1 x2 x3 => Sys2Proof.Machine.execSub x0 x1 x2 x3 s
  | .mul x0 x1 x2 x3 => Sys2Proof.Machine.execMul x0 x1 x2 x3 s
  | .mulhi x0 x1 x2 x3 => Sys2Proof.Machine.execMulhi x0 x1 x2 x3 s
  | .mulhn x0 x1 x2 x3 => Sys2Proof.Machine.execMulhn x0 x1 x2 x3 s
  | .div x0 x1 x2 x3 => Sys2Proof.Machine.execDiv x0 x1 x2 x3 s
  | .divn x0 x1 x2 x3 => Sys2Proof.Machine.execDivn x0 x1 x2 x3 s
  | .rem x0 x1 x2 x3 => Sys2Proof.Machine.execRem x0 x1 x2 x3 s
  | .remn x0 x1 x2 x3 => Sys2Proof.Machine.execRemn x0 x1 x2 x3 s
  | .and x0 x1 x2 x3 => Sys2Proof.Machine.execAnd x0 x1 x2 x3 s
  | .or x0 x1 x2 x3 => Sys2Proof.Machine.execOr x0 x1 x2 x3 s
  | .xor x0 x1 x2 x3 => Sys2Proof.Machine.execXor x0 x1 x2 x3 s
  | .andn x0 x1 x2 x3 => Sys2Proof.Machine.execAndn x0 x1 x2 x3 s
  | .shl x0 x1 x2 x3 => Sys2Proof.Machine.execShl x0 x1 x2 x3 s
  | .shr x0 x1 x2 x3 => Sys2Proof.Machine.execShr x0 x1 x2 x3 s
  | .sar x0 x1 x2 x3 => Sys2Proof.Machine.execSar x0 x1 x2 x3 s
  | .rol x0 x1 x2 x3 => Sys2Proof.Machine.execRol x0 x1 x2 x3 s
  | .min x0 x1 x2 x3 => Sys2Proof.Machine.execMin x0 x1 x2 x3 s
  | .max x0 x1 x2 x3 => Sys2Proof.Machine.execMax x0 x1 x2 x3 s
  | .minn x0 x1 x2 x3 => Sys2Proof.Machine.execMinn x0 x1 x2 x3 s
  | .maxn x0 x1 x2 x3 => Sys2Proof.Machine.execMaxn x0 x1 x2 x3 s
  | .clz x0 x1 x2 => Sys2Proof.Machine.execClz x0 x1 x2 s
  | .popc x0 x1 x2 => Sys2Proof.Machine.execPopc x0 x1 x2 s
  | .brev x0 x1 x2 => Sys2Proof.Machine.execBrev x0 x1 x2 s
  | .sel x0 x1 x2 x3 x4 x5 => Sys2Proof.Machine.execSel x0 x1 x2 x3 x4 x5 s
  | .cmp x0 x1 x2 x3 x4 => Sys2Proof.Machine.execCmp x0 x1 x2 x3 x4 s
  | .pand x0 x1 x2 x3 => Sys2Proof.Machine.execPand x0 x1 x2 x3 s
  | .por x0 x1 x2 x3 => Sys2Proof.Machine.execPor x0 x1 x2 x3 s
  | .pxor x0 x1 x2 x3 => Sys2Proof.Machine.execPxor x0 x1 x2 x3 s
  | .pnot x0 x1 x2 => Sys2Proof.Machine.execPnot x0 x1 x2 s
  | .lea x0 x1 x2 x3 x4 => Sys2Proof.Machine.execLea x0 x1 x2 x3 x4 s
  | .getc x0 x1 x2 => Sys2Proof.Machine.execGetc x0 x1 x2 s
  | .setc x0 x1 x2 => Sys2Proof.Machine.execSetc x0 x1 x2 s
  | .addi x0 x1 x2 x3 => Sys2Proof.Machine.execAddi x0 x1 x2 x3 s
  | .andi x0 x1 x2 x3 => Sys2Proof.Machine.execAndi x0 x1 x2 x3 s
  | .ori x0 x1 x2 x3 => Sys2Proof.Machine.execOri x0 x1 x2 x3 s
  | .xori x0 x1 x2 x3 => Sys2Proof.Machine.execXori x0 x1 x2 x3 s
  | .shli x0 x1 x2 x3 => Sys2Proof.Machine.execShli x0 x1 x2 x3 s
  | .shri x0 x1 x2 x3 => Sys2Proof.Machine.execShri x0 x1 x2 x3 s
  | .sari x0 x1 x2 x3 => Sys2Proof.Machine.execSari x0 x1 x2 x3 s
  | .li x0 x1 x2 => Sys2Proof.Machine.execLi x0 x1 x2 s
  | .cmpi x0 x1 x2 x3 x4 => Sys2Proof.Machine.execCmpi x0 x1 x2 x3 x4 s
  | .br x0 x1 => Sys2Proof.Machine.execBr x0 x1 s
  | .brc x0 x1 x2 x3 => Sys2Proof.Machine.execBrc x0 x1 x2 x3 s
  | .call x0 x1 => Sys2Proof.Machine.execCall x0 x1 s
  | .ret x0 x1 => Sys2Proof.Machine.execRet x0 x1 s
  | .jtab x0 x1 x2 => Sys2Proof.Machine.execJtab x0 x1 x2 s
  | .loop x0 x1 x2 x3 x4 => Sys2Proof.Machine.execLoop x0 x1 x2 x3 x4 s
  | .loopend x0 x1 => Sys2Proof.Machine.execLoopend x0 x1 s
  | .brk x0 x1 => Sys2Proof.Machine.execBrk x0 x1 s
  | .slate x0 x1 x2 => Sys2Proof.Machine.execSlate x0 x1 x2 s
  | .retire x0 => Sys2Proof.Machine.execRetire x0 s
  | .lds x0 x1 x2 x3 x4 => Sys2Proof.Machine.execLds x0 x1 x2 x3 x4 s
  | .sts x0 x1 x2 x3 x4 => Sys2Proof.Machine.execSts x0 x1 x2 x3 x4 s
  | .ld x0 x1 x2 x3 x4 => Sys2Proof.Machine.execLd x0 x1 x2 x3 x4 s
  | .st x0 x1 x2 x3 x4 => Sys2Proof.Machine.execSt x0 x1 x2 x3 x4 s
  | .ldp x0 x1 x2 x3 x4 x5 => Sys2Proof.Machine.execLdp x0 x1 x2 x3 x4 x5 s
  | .amo x0 x1 x2 x3 x4 x5 => Sys2Proof.Machine.execAmo x0 x1 x2 x3 x4 x5 s
  | .cas x0 x1 x2 x3 x4 => Sys2Proof.Machine.execCas x0 x1 x2 x3 x4 s
  | .enq x0 x1 x2 x3 => Sys2Proof.Machine.execEnq x0 x1 x2 x3 s
  | .deq x0 x1 x2 x3 => Sys2Proof.Machine.execDeq x0 x1 x2 x3 s
  | .fence x0 x1 x2 => Sys2Proof.Machine.execFence x0 x1 x2 s
  | .xfence x0 => Sys2Proof.Machine.execXfence x0 s
  | .cmo x0 x1 x2 x3 x4 => Sys2Proof.Machine.execCmo x0 x1 x2 x3 x4 s
  | .pref x0 x1 x2 x3 => Sys2Proof.Machine.execPref x0 x1 x2 x3 s
  | .postS x0 x1 => Sys2Proof.Machine.execPostS x0 x1 s
  | .waitS x0 x1 => Sys2Proof.Machine.execWaitS x0 x1 s
  | .rdv x0 => Sys2Proof.Machine.execRdv x0 s
  | .binit x0 x1 x2 => Sys2Proof.Machine.execBinit x0 x1 x2 s
  | .barv x0 x1 x2 => Sys2Proof.Machine.execBarv x0 x1 x2 s
  | .bexp x0 x1 x2 => Sys2Proof.Machine.execBexp x0 x1 x2 s
  | .bwait x0 x1 => Sys2Proof.Machine.execBwait x0 x1 s
  | .yield_ x0 => Sys2Proof.Machine.execYield x0 s
  | .pchk x0 x1 => Sys2Proof.Machine.execPchk x0 x1 s
  | .budg x0 x1 => Sys2Proof.Machine.execBudg x0 x1 s
  | .segwait x0 x1 => Sys2Proof.Machine.execSegwait x0 x1 s
  | .accept x0 x1 x2 => Sys2Proof.Machine.execAccept x0 x1 x2 s
  | .commit x0 x1 => Sys2Proof.Machine.execCommit x0 x1 s
  | .timewait x0 x1 x2 => Sys2Proof.Machine.execTimewait x0 x1 x2 s
  | .ttarm x0 x1 x2 => Sys2Proof.Machine.execTtarm x0 x1 x2 s
  | .syscall x0 x1 => Sys2Proof.Machine.execSyscall x0 x1 s
  | .trap x0 x1 => Sys2Proof.Machine.execTrap x0 x1 s
  | .sqtrap x0 x1 x2 => Sys2Proof.Machine.execSqtrap x0 x1 x2 s
  | .telm x0 x1 x2 => Sys2Proof.Machine.execTelm x0 x1 x2 s
  | .frzinfo x0 x1 x2 => Sys2Proof.Machine.execFrzinfo x0 x1 x2 s
  | .frzrd x0 x1 x2 x3 => Sys2Proof.Machine.execFrzrd x0 x1 x2 x3 s
  | .frzwr x0 x1 x2 x3 => Sys2Proof.Machine.execFrzwr x0 x1 x2 x3 s
  | .frzld x0 x1 x2 x3 => Sys2Proof.Machine.execFrzld x0 x1 x2 x3 s
  | .frzst x0 x1 x2 x3 => Sys2Proof.Machine.execFrzst x0 x1 x2 x3 s
  | .frzarv x0 x1 x2 => Sys2Proof.Machine.execFrzarv x0 x1 x2 s
  | .frzres x0 x1 x2 => Sys2Proof.Machine.execFrzres x0 x1 x2 s
  | .frzkil x0 x1 => Sys2Proof.Machine.execFrzkil x0 x1 s
  | .haltx x0 x1 => Sys2Proof.Machine.execHaltx x0 x1 s
  | .vadd x0 x1 x2 x3 => Sys2Proof.Machine.execVadd x0 x1 x2 x3 s
  | .vsub x0 x1 x2 x3 => Sys2Proof.Machine.execVsub x0 x1 x2 x3 s
  | .vmul x0 x1 x2 x3 => Sys2Proof.Machine.execVmul x0 x1 x2 x3 s
  | .vfma x0 x1 x2 x3 => Sys2Proof.Machine.execVfma x0 x1 x2 x3 s
  | .vfms x0 x1 x2 x3 => Sys2Proof.Machine.execVfms x0 x1 x2 x3 s
  | .vmin x0 x1 x2 x3 => Sys2Proof.Machine.execVmin x0 x1 x2 x3 s
  | .vmax x0 x1 x2 x3 => Sys2Proof.Machine.execVmax x0 x1 x2 x3 s
  | .vabs x0 x1 x2 => Sys2Proof.Machine.execVabs x0 x1 x2 s
  | .vneg x0 x1 x2 => Sys2Proof.Machine.execVneg x0 x1 x2 s
  | .vmov x0 x1 x2 => Sys2Proof.Machine.execVmov x0 x1 x2 s
  | .vrsum x0 x1 x2 => Sys2Proof.Machine.execVrsum x0 x1 x2 s
  | .vrmax x0 x1 x2 => Sys2Proof.Machine.execVrmax x0 x1 x2 s
  | .vrmin x0 x1 x2 => Sys2Proof.Machine.execVrmin x0 x1 x2 s
  | .vrssq x0 x1 x2 => Sys2Proof.Machine.execVrssq x0 x1 x2 s
  | .vexp2 x0 x1 x2 => Sys2Proof.Machine.execVexp2 x0 x1 x2 s
  | .viadd x0 x1 x2 x3 => Sys2Proof.Machine.execViadd x0 x1 x2 x3 s
  | .visub x0 x1 x2 x3 => Sys2Proof.Machine.execVisub x0 x1 x2 x3 s
  | .vimul x0 x1 x2 x3 => Sys2Proof.Machine.execVimul x0 x1 x2 x3 s
  | .vimac x0 x1 x2 x3 => Sys2Proof.Machine.execVimac x0 x1 x2 x3 s
  | .vimin x0 x1 x2 x3 => Sys2Proof.Machine.execVimin x0 x1 x2 x3 s
  | .vimax x0 x1 x2 x3 => Sys2Proof.Machine.execVimax x0 x1 x2 x3 s
  | .vshl x0 x1 x2 x3 => Sys2Proof.Machine.execVshl x0 x1 x2 x3 s
  | .vshr x0 x1 x2 x3 => Sys2Proof.Machine.execVshr x0 x1 x2 x3 s
  | .vsar x0 x1 x2 x3 => Sys2Proof.Machine.execVsar x0 x1 x2 x3 s
  | .vand x0 x1 x2 x3 => Sys2Proof.Machine.execVand x0 x1 x2 x3 s
  | .vor x0 x1 x2 x3 => Sys2Proof.Machine.execVor x0 x1 x2 x3 s
  | .vxor x0 x1 x2 x3 => Sys2Proof.Machine.execVxor x0 x1 x2 x3 s
  | .vcmp x0 x1 x2 x3 x4 => Sys2Proof.Machine.execVcmp x0 x1 x2 x3 x4 s
  | .vsel x0 x1 x2 x3 x4 => Sys2Proof.Machine.execVsel x0 x1 x2 x3 x4 s
  | .vcvt x0 x1 x2 x3 => Sys2Proof.Machine.execVcvt x0 x1 x2 x3 s
  | .vqnt x0 x1 x2 x3 x4 => Sys2Proof.Machine.execVqnt x0 x1 x2 x3 x4 s
  | .vdqnt x0 x1 x2 x3 x4 => Sys2Proof.Machine.execVdqnt x0 x1 x2 x3 x4 s
  | .vlog2 x0 x1 x2 => Sys2Proof.Machine.execVlog2 x0 x1 x2 s
  | .vrcp x0 x1 x2 => Sys2Proof.Machine.execVrcp x0 x1 x2 s
  | .vrsq x0 x1 x2 => Sys2Proof.Machine.execVrsq x0 x1 x2 s
  | .vimaxIdx x0 x1 x2 x3 => Sys2Proof.Machine.execVimaxIdx x0 x1 x2 x3 s
  | .vbcst x0 x1 x2 => Sys2Proof.Machine.execVbcst x0 x1 x2 s
  | .vld x0 x1 x2 x3 => Sys2Proof.Machine.execVld x0 x1 x2 x3 s
  | .vst x0 x1 x2 x3 => Sys2Proof.Machine.execVst x0 x1 x2 x3 s
  | .vgth x0 x1 x2 x3 => Sys2Proof.Machine.execVgth x0 x1 x2 x3 s
  | .vperm x0 x1 x2 x3 x4 => Sys2Proof.Machine.execVperm x0 x1 x2 x3 x4 s
  | .vshf x0 x1 x2 x3 x4 => Sys2Proof.Machine.execVshf x0 x1 x2 x3 x4 s
  | .vscan x0 x1 x2 x3 => Sys2Proof.Machine.execVscan x0 x1 x2 x3 s
  | .vkset x0 x1 x2 x3 => Sys2Proof.Machine.execVkset x0 x1 x2 x3 s
  | .vkadd x0 x1 x2 x3 => Sys2Proof.Machine.execVkadd x0 x1 x2 x3 s
  | .mskand x0 x1 x2 x3 => Sys2Proof.Machine.execMskand x0 x1 x2 x3 s
  | .mskor x0 x1 x2 x3 => Sys2Proof.Machine.execMskor x0 x1 x2 x3 s
  | .mskxor x0 x1 x2 x3 => Sys2Proof.Machine.execMskxor x0 x1 x2 x3 s
  | .msknot x0 x1 x2 => Sys2Proof.Machine.execMsknot x0 x1 x2 s
  | .mskmov x0 x1 x2 => Sys2Proof.Machine.execMskmov x0 x1 x2 s
  | .mskget x0 x1 x2 => Sys2Proof.Machine.execMskget x0 x1 x2 s
  | .vrand x0 x1 x2 x3 x4 => Sys2Proof.Machine.execVrand x0 x1 x2 x3 x4 s
  | .postV x0 x1 => Sys2Proof.Machine.execPostV x0 x1 s
  | .waitV x0 x1 => Sys2Proof.Machine.execWaitV x0 x1 s
  | .mlease x0 => Sys2Proof.Machine.execMlease x0 s
  | .mfree x0 => Sys2Proof.Machine.execMfree x0 s
  | .mstrl x0 x1 x2 => Sys2Proof.Machine.execMstrl x0 x1 x2 s
  | .mstrs x0 x1 x2 => Sys2Proof.Machine.execMstrs x0 x1 x2 s
  | .mstrf x0 x1 x2 x3 => Sys2Proof.Machine.execMstrf x0 x1 x2 x3 s
  | .mnest x0 x1 => Sys2Proof.Machine.execMnest x0 x1 s
  | .mmm x0 x1 x2 x3 x4 x5 => Sys2Proof.Machine.execMmm x0 x1 x2 x3 x4 x5 s
  | .mmc x0 x1 x2 x3 => Sys2Proof.Machine.execMmc x0 x1 x2 x3 s
  | .aclr x0 x1 => Sys2Proof.Machine.execAclr x0 x1 s
  | .ard x0 x1 x2 x3 => Sys2Proof.Machine.execArd x0 x1 x2 x3 s
  | .awr x0 x1 x2 x3 => Sys2Proof.Machine.execAwr x0 x1 x2 x3 s
  | .acpyToCoreStore x0 x1 x2 => Sys2Proof.Machine.execAcpyToCoreStore x0 x1 x2 s
  | .acpyToAccumulator x0 x1 x2 => Sys2Proof.Machine.execAcpyToAccumulator x0 x1 x2 s
  | .mchk x0 x1 => Sys2Proof.Machine.execMchk x0 x1 s
  | .mwait x0 x1 x2 => Sys2Proof.Machine.execMwait x0 x1 x2 s
  | .postM x0 x1 => Sys2Proof.Machine.execPostM x0 x1 s
  | .waitM x0 x1 => Sys2Proof.Machine.execWaitM x0 x1 s
  | .cpy x0 x1 x2 => Sys2Proof.Machine.execCpy x0 x1 x2 s
  | .cgth x0 x1 x2 x3 => Sys2Proof.Machine.execCgth x0 x1 x2 x3 s
  | .csct x0 x1 x2 x3 => Sys2Proof.Machine.execCsct x0 x1 x2 x3 s
  | .cbcst x0 x1 x2 x3 => Sys2Proof.Machine.execCbcst x0 x1 x2 x3 s
  | .xput x0 x1 x2 x3 => Sys2Proof.Machine.execXput x0 x1 x2 x3 s
  | .xget x0 x1 x2 => Sys2Proof.Machine.execXget x0 x1 x2 s
  | .kvapp x0 x1 x2 x3 => Sys2Proof.Machine.execKvapp x0 x1 x2 x3 s
  | .kvcmp x0 x1 x2 x3 => Sys2Proof.Machine.execKvcmp x0 x1 x2 x3 s
  | .seghold x0 x1 x2 x3 => Sys2Proof.Machine.execSeghold x0 x1 x2 x3 s
  | .cwait x0 x1 x2 => Sys2Proof.Machine.execCwait x0 x1 x2 s
  | .ccncl x0 => Sys2Proof.Machine.execCcncl x0 s
  | .postC x0 x1 => Sys2Proof.Machine.execPostC x0 x1 s
  | .waitC x0 x1 => Sys2Proof.Machine.execWaitC x0 x1 s
  | .tapsel x0 x1 x2 => Sys2Proof.Machine.execTapsel x0 x1 x2 s
  | .tapstr x0 x1 x2 x3 => Sys2Proof.Machine.execTapstr x0 x1 x2 x3 s
  | .tapdot x0 x1 x2 x3 x4 => Sys2Proof.Machine.execTapdot x0 x1 x2 x3 x4 s
  | .tapeval x0 x1 x2 x3 x4 => Sys2Proof.Machine.execTapeval x0 x1 x2 x3 x4 s
  | .tapclr x0 x1 => Sys2Proof.Machine.execTapclr x0 x1 s
  | .taprd x0 x1 x2 x3 => Sys2Proof.Machine.execTaprd x0 x1 x2 x3 s
  | .tapprb x0 x1 x2 x3 => Sys2Proof.Machine.execTapprb x0 x1 x2 x3 s
  | .tapstv x0 x1 x2 => Sys2Proof.Machine.execTapstv x0 x1 x2 s
  | .postX x0 x1 => Sys2Proof.Machine.execPostX x0 x1 s
  | .waitX x0 x1 => Sys2Proof.Machine.execWaitX x0 x1 s
  | .splitterFetch x0 => Sys2Proof.Machine.execSplitterFetch x0 s
  | .fixedLatencyWriteLand x0 => Sys2Proof.Machine.execFixedLatencyWriteLand x0 s
  | .loadComplete x0 x1 => Sys2Proof.Machine.execLoadComplete x0 x1 s
  | .storeBufferDrain x0 => Sys2Proof.Machine.execStoreBufferDrain x0 s
  | .dirtyLineWriteback x0 x1 x2 => Sys2Proof.Machine.execDirtyLineWriteback x0 x1 x2 s
  | .releaseMarkerLeave x0 x1 => Sys2Proof.Machine.execReleaseMarkerLeave x0 x1 s
  | .l1InvalidateComplete x0 => Sys2Proof.Machine.execL1InvalidateComplete x0 s
  | .pageWalk x0 x1 => Sys2Proof.Machine.execPageWalk x0 x1 s
  | .homeSliceRead x0 => Sys2Proof.Machine.execHomeSliceRead x0 s
  | .homeSliceWrite x0 => Sys2Proof.Machine.execHomeSliceWrite x0 s
  | .homeAtomic x0 => Sys2Proof.Machine.execHomeAtomic x0 s
  | .homeQueueOp x0 => Sys2Proof.Machine.execHomeQueueOp x0 s
  | .homeBarrierUpdate x0 => Sys2Proof.Machine.execHomeBarrierUpdate x0 s
  | .forwardedAccess x0 => Sys2Proof.Machine.execForwardedAccess x0 s
  | .ackFlit x0 => Sys2Proof.Machine.execAckFlit x0 s
  | .accessUndeliverable x0 => Sys2Proof.Machine.execAccessUndeliverable x0 s
  | .mirrorWrite x0 => Sys2Proof.Machine.execMirrorWrite x0 s
  | .copyPiece x0 x1 x2 => Sys2Proof.Machine.execCopyPiece x0 x1 x2 s
  | .vatLeaseGrant x0 x1 => Sys2Proof.Machine.execVatLeaseGrant x0 x1 s
  | .handlerReserveClaim x0 => Sys2Proof.Machine.execHandlerReserveClaim x0 s
  | .vatAccept x0 x1 => Sys2Proof.Machine.execVatAccept x0 x1 s
  | .vatComplete x0 x1 => Sys2Proof.Machine.execVatComplete x0 x1 s
  | .deviationLogAppend x0 x1 => Sys2Proof.Machine.execDeviationLogAppend x0 x1 s
  | .xWordComplete x0 => Sys2Proof.Machine.execXWordComplete x0 s
  | .segmentReceive x0 => Sys2Proof.Machine.execSegmentReceive x0 s
  | .slateForm x0 x1 => Sys2Proof.Machine.execSlateForm x0 x1 s
  | .segmentExpire x0 x1 => Sys2Proof.Machine.execSegmentExpire x0 x1 s
  | .declaringCycle x0 x1 => Sys2Proof.Machine.execDeclaringCycle x0 x1 s
  | .launchArbiter x0 x1 => Sys2Proof.Machine.execLaunchArbiter x0 x1 s
  | .jobComplete x0 => Sys2Proof.Machine.execJobComplete x0 s
  | .budgetExhausted x0 => Sys2Proof.Machine.execBudgetExhausted x0 s
  | .preemptRaise x0 x1 x2 => Sys2Proof.Machine.execPreemptRaise x0 x1 x2 s
  | .preemptWithdraw x0 x1 x2 => Sys2Proof.Machine.execPreemptWithdraw x0 x1 x2 s
  | .forcedSave x0 => Sys2Proof.Machine.execForcedSave x0 s
  | .saveRecordWrite x0 => Sys2Proof.Machine.execSaveRecordWrite x0 s
  | .timetablePreq x0 x1 x2 => Sys2Proof.Machine.execTimetablePreq x0 x1 x2 s
  | .timetableLaunch x0 x1 x2 => Sys2Proof.Machine.execTimetableLaunch x0 x1 x2 s
  | .dbgHaltThread x0 => Sys2Proof.Machine.execDbgHaltThread x0 s
  | .dbgReleaseThread x0 => Sys2Proof.Machine.execDbgReleaseThread x0 s
  | .dbgHaltCore x0 x1 => Sys2Proof.Machine.execDbgHaltCore x0 x1 s
  | .dbgReleaseCore x0 x1 => Sys2Proof.Machine.execDbgReleaseCore x0 x1 s
  | .dbgSave x0 => Sys2Proof.Machine.execDbgSave x0 s
  | .copyqSettle x0 x1 => Sys2Proof.Machine.execCopyqSettle x0 x1 s
  | .recordMoveDone x0 => Sys2Proof.Machine.execRecordMoveDone x0 s
  | .tlbInvalidateDone x0 => Sys2Proof.Machine.execTlbInvalidateDone x0 s
  | .faultDetect x0 => Sys2Proof.Machine.execFaultDetect x0 s
  | .freezeComplete x0 => Sys2Proof.Machine.execFreezeComplete x0 s
  | .handlerSpawn x0 x1 => Sys2Proof.Machine.execHandlerSpawn x0 x1 s
  | .handlerSlotTake x0 => Sys2Proof.Machine.execHandlerSlotTake x0 s
  | .intakeDeliver x0 x1 => Sys2Proof.Machine.execIntakeDeliver x0 x1 s
  | .completionRecord x0 x1 => Sys2Proof.Machine.execCompletionRecord x0 x1 s
  | .tileWalkPermit x0 => Sys2Proof.Machine.execTileWalkPermit x0 s
  | .tileWalkDone x0 => Sys2Proof.Machine.execTileWalkDone x0 s
  | .selfTestStart x0 => Sys2Proof.Machine.execSelfTestStart x0 s
  | .afrUpdate x0 => Sys2Proof.Machine.execAfrUpdate x0 s
  | .devlogSizeWrite => Sys2Proof.Machine.execDevlogSizeWrite s
  | .telemetrySizeWrite => Sys2Proof.Machine.execTelemetrySizeWrite s
  | .capRevoke => Sys2Proof.Machine.execCapRevoke s
  | .contextTeardown => Sys2Proof.Machine.execContextTeardown s
  | .descriptorWrite => Sys2Proof.Machine.execDescriptorWrite s
  | .tileWalkStopClear => Sys2Proof.Machine.execTileWalkStopClear s
  | .registerWrite => Sys2Proof.Machine.execRegisterWrite s
  | .tlbInvalidate => Sys2Proof.Machine.execTlbInvalidate s
  | .recordMove => Sys2Proof.Machine.execRecordMove s
  | .timetableWrite => Sys2Proof.Machine.execTimetableWrite s
  | .moduleLeaseAcquire => Sys2Proof.Machine.execModuleLeaseAcquire s
  | .moduleLeaseRelease => Sys2Proof.Machine.execModuleLeaseRelease s
  | .migenClear => Sys2Proof.Machine.execMigenClear s
  | .ringSlotStart => Sys2Proof.Machine.execRingSlotStart s
  | .hostRdmaWrite => Sys2Proof.Machine.execHostRdmaWrite s
  | .hostRdmaWriteImm => Sys2Proof.Machine.execHostRdmaWriteImm s
  | .hostRdmaRead => Sys2Proof.Machine.execHostRdmaRead s
  | .roceUnsupportedRequest => Sys2Proof.Machine.execRoceUnsupportedRequest s
  | .controllerCommand => Sys2Proof.Machine.execControllerCommand s
  | .imageVerify => Sys2Proof.Machine.execImageVerify s
  | .fuseCommit => Sys2Proof.Machine.execFuseCommit s
  | .attestRequest => Sys2Proof.Machine.execAttestRequest s
  | .selfTestEnd => Sys2Proof.Machine.execSelfTestEnd s
  | .bankScanRow => Sys2Proof.Machine.execBankScanRow s
  | .kvRebuild => Sys2Proof.Machine.execKvRebuild s
  | .ringSyncLoss => Sys2Proof.Machine.execRingSyncLoss s
  | .powerDecision => Sys2Proof.Machine.execPowerDecision s
  | .thermalTrip => Sys2Proof.Machine.execThermalTrip s
  | .railFault => Sys2Proof.Machine.execRailFault s
  | .pllUnlock => Sys2Proof.Machine.execPllUnlock s
  | .resetRelease => Sys2Proof.Machine.execResetRelease s
  | .hostLinkAcknowledge => Sys2Proof.Machine.execHostLinkAcknowledge s
  | .stationControllerRestart => Sys2Proof.Machine.execStationControllerRestart s
  | .ieee1588Timestamp => Sys2Proof.Machine.execIeee1588Timestamp s
  | .fabricTrain => Sys2Proof.Machine.execFabricTrain s
  | .laneFailRetrain => Sys2Proof.Machine.execLaneFailRetrain s
  | .fabricFlitReplay => Sys2Proof.Machine.execFabricFlitReplay s
  | .skipFlitReplay => Sys2Proof.Machine.execSkipFlitReplay s
  | .intakeSubmit => Sys2Proof.Machine.execIntakeSubmit s
  | .delegateInstall => Sys2Proof.Machine.execDelegateInstall s
  | .returnPageReceive => Sys2Proof.Machine.execReturnPageReceive s
  | .migrationReady => Sys2Proof.Machine.execMigrationReady s
  | .migrationClosing => Sys2Proof.Machine.execMigrationClosing s
  | .migrationClosed => Sys2Proof.Machine.execMigrationClosed s

end Sys2Proof.Machine
end

