-- ==== Sys2Proof/Machine/Schedule.lean ====
section
/-! DEFINITION. Which step comes next (log 3): the words and steps due within a core cycle, what has become possible at its
own time, the inputs, the clock; and the placing of one instruction at the head of a queue (log 5). -/

namespace Sys2Proof.Machine

/-! Issue (R26, R28, R195, R202, R335, R340, R363). -/

/-- Whether an entry holds a given S or Y word, or a TAPEVAL (R39, R42, R47). -/
def Entry.isWord (e : Entry) (engine op6 : Nat) : Bool := fldN e.word 29 3 == engine && fldN e.word 19 6 == op6
def Entry.isRdv (e : Entry) : Bool := e.isWord 0 0x3E && fldN e.word 0 4 == 2
def Entry.isXfence (e : Entry) : Bool := e.isWord 0 0x3B
def Entry.isSqtrap (e : Entry) : Bool := e.isWord 4 0x0E
def Entry.isTapeval (e : Entry) : Bool := fldN e.word 29 3 == 5 && fldN e.word 21 4 == 3

/-- A TAPEVAL of the thread is in the tap unit. -/
def State.evalRuns (s : State) (t : Tid) : Bool := (s.core t.st t.co).xs.any fun m => m.t == t && (match m.instr with
  | .tapeval .. => true
  | _ => false)

/-- A tap word of the thread is in the tap unit: the X queue waits for it. -/
def State.tapRuns (s : State) (t : Tid) : Bool := (s.core t.st t.co).xs.any fun m => m.t == t

/-- Whether the word at the head of a queue gets its chance to issue in this thread cycle: the thread may issue, the entry was
placed in an earlier thread cycle and its delay has elapsed (R26, R28), no held acknowledgement or invalidation stands, and
no RDV, XFENCE (for C words), SQTRAP or TAPEVAL placed before it is still to issue or to complete. -/
def State.canIssue (s : State) (t : Tid) (q : QName) : Bool :=
  let th := s.thread t
  let qu := th.queue q
  match qu.es with
  | [] => false
  | e :: _ =>
    th.mayIssue && decide (th.notBefore ≤ s.cyc) && decide (th.resumeFrom ≤ s.cyc) && decide (qu.ready ≤ s.tcyc) && decide (e.placed ≤ s.tcyc) && qu.blk.isNone &&
      th.acq.all (·.q != q) &&
      !(th.qs.es.any fun r => decide (r.seq < e.seq) && (r.isRdv || r.isSqtrap || (q == .c && r.isXfence))) &&
      !(th.qx.es.any fun r => decide (r.seq < e.seq) && r.isTapeval) && !s.evalRuns t && (q != .x || !s.tapRuns t)

/-- The instruction at the head of a queue. -/
def State.headInstr (s : State) (t : Tid) (q : QName) : Except DecErr Instr :=
  match (s.thread t).head q with
  | none => .error .noWord
  | some e => decodeInstr e.word e.exts

def State.badWord (s : State) (t : Tid) (q : QName) (r : DecErr) : State :=
  match (s.thread t).head q with
  | none => s
  | some e => s.raise t { decFrec r with pc := e.pc, q := q }

/-- A word of a queue whose thread-private data have an uncorrectable error faults in place of issuing (R349, R371). -/
def State.spoiled (s : State) (t : Tid) (q : QName) : Option State :=
  let th := s.thread t
  match th.uncorr.find? (fun u => u.1 == q), th.head q with
  | some u, some e =>
    some ((s.setThread t { th with uncorr := th.uncorr.erase u }).raise t { cause := 0x0A, sub := u.2, pc := e.pc, q := q })
  | _, _ => none

/-- A resource header that grants everything (R56). -/
def fullHeader : Word :=
  BitVec.ofNat 64 (1 * 2 ^ 56 + 8 * 2 ^ 52 + 1984 * 2 ^ 40 + 768 * 2 ^ 30 + 16 * 2 ^ 24 + 8 * 2 ^ 20)

/-- One instruction, its words in order, as the next thing that a running supervisor thread issues (log 5). -/
def State.place (s : State) (words : List Nat) : State :=
  match words with
  | [] => s
  | w :: exts =>
    let t : Tid := ⟨0, 0, 0⟩
    let q := queueOf w
    let e : Entry := { word := w, exts := exts.filter isExt }
    let th := s.thread t
    let th : Thread := { th with status := .running, slotHeld := true, hdr := fullHeader, priv := .supervisor, halted := false, drain := none, fault := none, newFault := none, acq := [], notBefore := 0, resumeFrom := 0, halting := false, restoring := none, uncorr := [] }
    let th := QName.all.foldl (fun (th : Thread) q => th.setQueue q {}) th
    let s := s.modCore t.st t.co fun k => { k with xs := k.xs.filter fun m => m.t != t }
    { s.setThread t (th.setQueue q { es := [e] }) with agenda := .issue t q :: s.agenda, cur := (t, q) }

/-! What has become possible at a time of its own. -/

/-- The step that an input is. -/
def Input.step : Input → Option Instr
  | .roce _ rc mtu _ op =>
    if !roceOk rc mtu op then some .roceUnsupportedRequest
    else
      match op with
      | .write .. => some .hostRdmaWrite
      | .writeImm .. => some .hostRdmaWriteImm
      | .read .. => some .hostRdmaRead
      | .other => none
  | .submit .. => some .intakeSubmit
  | .hostAck .. => some .hostLinkAcknowledge
  | .controller .. => some .controllerCommand
  | .image .. => some .imageVerify
  | .restart .. => some .stationControllerRestart
  | .testEnd .. => some .selfTestEnd
  | .syncLoss .. => some .ringSyncLoss
  | .temp v => if 125 ≤ v then some .thermalTrip else none
  | .rail .. => some .railFault
  | .pll => some .pllUnlock
  | .release => some .resetRelease
  | .stamp .. => some .ieee1588Timestamp
  | .train .. => some .fabricTrain
  | .lane .. => some .laneFailRetrain
  | .flit .. => some .fabricFlitReplay
  | .skip .. => some .skipFlitReplay
  | .page .. => some .delegateInstall
  | .pageBack .. => some .returnPageReceive
  | .ready .. => some .migrationReady
  | .closing .. => some .migrationClosing
  | .closed .. => some .migrationClosed
  | _ => none

/-- The first input, where it is a step of its own and its time has come. -/
def State.inputSteps (s : State) : List Instr :=
  match s.inputs with
  | [] => []
  | .testEnd st f :: _ =>
    match (s.station st).testing with
    | some (_, at_) => if at_ + 2048 ≤ s.cyc then (Input.testEnd st f).step.toList else []
    | none => (Input.testEnd st f).step.toList
  | i :: _ => i.step.toList

/-- A thread's accesses and stores. -/
def State.threadSteps (s : State) (t : Tid) : List Instr :=
  let th := s.thread t
  th.ops.filterMap (s.opStep t) ++ ((th.sb.filter fun b => b.pa.isNone && !s.walkWaits t th.ctx b.va.toNat).map fun b => Instr.pageWalk t b.id) ++
    (if s.canDrain t then [Instr.storeBufferDrain t] else []) ++
    ((th.ops.filter fun o => s.tooLong (.thr t o.id)).map fun o => Instr.accessUndeliverable (.thr t o.id))

/-- A core's L1 and the writes that have left it. -/
def State.coreSteps (s : State) (st co : Nat) : List Instr :=
  let c := s.core st co
  ((s.nextBack st co).toList.map fun la => Instr.dirtyLineWriteback st co la) ++ (if c.markReady.isSome then [Instr.releaseMarkerLeave st co] else []) ++
    ((c.wbs.filter (s.canWb c)).map fun w => Instr.homeSliceWrite (.wb st co w.id)) ++
    ((c.wbs.filter fun w => s.tooLong (.wb st co w.id)).map fun w => Instr.accessUndeliverable (.wb st co w.id))

/-- A station's requests of other modules, mirror, copies, host link and controller. -/
def State.stationSteps (s : State) (st : Nat) : List Instr :=
  let x := s.station st
  ((x.rems.filter s.canRem).map fun r => r.kind.homeStep (.rem r.id)) ++ ((x.rems.filter s.mustForward).map fun r => Instr.forwardedAccess r.id) ++
    (if x.mirrors.isEmpty then [] else [Instr.mirrorWrite st]) ++
    (x.copies.flatMap fun k => ((List.range (max 1 (2 * k.pieces.length))).filter (s.canPiece st k)).map fun i => Instr.copyPiece st k.id i) ++
    ((x.copies.filter fun k => s.tooLong (.thr k.t k.id)).map fun k => Instr.accessUndeliverable (.thr k.t k.id)) ++
    (((List.range 8).filter (s.inTurn st)).map fun t => Instr.intakeDeliver st t) ++
    (((List.range 16).filter fun c => !x.lost && match Tab.get x.compl c with
      | some _ => s.complRoom st c
      | none => (s.handleQueue st c (wbits (s.hreg st c 0x18) 32 12)).isSome).map fun c => Instr.completionRecord st c) ++
    (if x.errs.isEmpty || x.testing.isSome || x.scan.isSome then [] else [Instr.selfTestStart st])

/-- A tile-walk engine. -/
def State.engineSteps (s : State) (e : Nat) : List Instr :=
  let x := s.engineOf e
  (if s.engRuns e || x.waits then [Instr.tileWalkPermit e] else []) ++ (if x.busy && !x.waits && x.pieces.isEmpty then [Instr.tileWalkDone e] else []) ++
    (((List.range (2 * x.pieces.length)).filter (s.canTile e)).map fun i => Instr.copyPiece (Config.stations + e) 0 i) ++
    (if s.tooLong (.thr ⟨Config.stations + e, 0, 0⟩ 0) then [Instr.accessUndeliverable (.thr ⟨Config.stations + e, 0, 0⟩ 0)] else [])

/-- The steps that have become possible at a time of their own (R413, R215, log 3). -/
def State.enabled (s : State) : List Instr :=
  s.inputSteps ++ s.tids.flatMap s.threadSteps ++ ((s.cores.map Prod.fst).flatMap fun k => s.coreSteps (k / 8) (k % 8)) ++
    ((s.stations.map Prod.fst).flatMap s.stationSteps) ++ ((s.engines.map Prod.fst).flatMap s.engineSteps) ++
    ((s.ports.filter fun p => p.2.acks.any fun a => decide (a.due ≤ s.cyc)).map fun p => Instr.ackFlit p.1) ++
    (if s.fuseReq && s.leaseStands then [Instr.fuseCommit] else []) ++ (if !s.attest.isEmpty && s.leaseStands then [Instr.attestRequest] else []) ++
    if s.stations.any fun x => !x.2.bad.isEmpty then [Instr.kvRebuild] else []

/-! The clock. -/

/-- Whether a byte is served elsewhere: at another module, at a host, or at the delegate of a page that is away (log 25). -/
def State.elsewhere (s : State) (pa : Nat) : Bool := !s.servesHere pa

/-- Inputs that change the state without a step of their own: what has reached a home slice, memory or link errors, the loader,
sensors, requests that wait for a lease. -/
def State.absorb (s : State) : Input → Option State
  | .remote r =>
    let st := paStation r.pa
    let m := s.migrOf r.pa
    let atomic (k : OpKind) : Bool := k.atHome
    let busy := ((s.station st).rems.any fun q => q.pa / 4096 == r.pa / 4096 && atomic q.kind) ||
      s.tids.any fun t => (s.thread t).ops.any fun o => o.stage == .send && atomic o.kind && (match o.pa with
        | some a => a / 4096 == r.pa / 4096
        | none => false)
    let held := match m with
      | some m => if m.home then m.st == .leaving || (m.st == .closing && !r.held) else m.st == .returning && !m.sent
      | none => false
    let (id, s) := s.fresh
    some (s.modStation st fun x => { x with rems := x.rems ++ [{ r with id := id, contended := busy, held := held }] })
  | .upset st off un =>
    let a := s.pa st (off / 8 * 8)
    let s := if un then { s with mem := Memory.writeBytes s.mem a (List.replicate 8 0) }.zeroHoop st (off / 8 * 8) else s
    some (s.modStation st fun x => { x with uncorr := (a, un) :: x.uncorr.filter fun m => m.1 != a })
  | .spoiled t q sub => some (s.modThread t fun th => { th with uncorr := th.uncorr ++ [(q, sub)] })
  | .linkError st off flip => some (s.modStation st fun x => { x with spoil := x.spoil ++ [(off, flip)] })
  | .loader st seg =>
    let seg := seg.parse
    some { (s.fillTransit st seg).modStation st (fun x => { x with segs := x.segs ++ [seg] }) with
      manifest := Tab.set s.manifest seg.pos (seg.bytes.bytes 0 256) }
  | .located page d =>
    let rest := s.locator.filter fun x => x.1 != page
    some { s with locator := match d with
      | some m => ((page, m) :: rest).take 1024
      | none => rest }
  | .recall page =>
    match s.migrOf (4096 * page) with
    | some m => some (if !m.home ∧ m.st = .away then (s.modMigr (4096 * page) fun m => { m with st := .returning }).migSend (4096 * page) else s)
    | none => some s
  | .far bs => some { s with mem := (bs.filter fun b => s.elsewhere b.1).foldl (fun m b => Cells.set m b.1 b.2) s.mem }
  | .temp v => if 125 ≤ v then none else some { s with temp := v }
  | .fuse => some { s with fuseReq := true }
  | .attest req => some (if req.length = 48 then { s with attest := s.attest ++ [req] } else s)
  | _ => none

/-- The inputs that have come, up to the first that is a step. -/
def State.absorbAll (s : State) : List Input → State
  | [] => s
  | i :: rest =>
    match s.absorb i with
    | some s' => State.absorbAll { s' with inputs := rest } rest
    | none => s

/-- The source's next period (R406): a swallowed pulse moves TB alone. The answer says whether a pulse is delivered. -/
def State.period_ (s : State) : Bool × State :=
  let s := if s.period = 0 then { s with pcb := Cells.set s.pcb 0x4008 (wset (Cells.get s.pcb 0x4008) 0 4 s.kNext) } else s
  let gone := (swallowOrder.take (s.power 0x4008 0 4)).contains s.period
  let s := { s with period := (s.period + 1) % 16, tb := s.tb + Config.tbAdvance s.freeCtr, freeCtr := s.freeCtr + 1 }
  if gone then (false, { s with pcb := Cells.set s.pcb 0x4010 (Cells.get s.pcb 0x4010 + 1) }) else (true, { s with cyc := s.cyc + 1 })

/-- Whether a save record of a thread moves in this cycle: its write, once the drain is over, or its restore (R310). -/
def State.recMoves (s : State) (t : Tid) : Bool :=
  let th := s.thread t
  (match th.saveAt with
   | some due => decide (s.cyc ≤ due)
   | none => false) ||
  match th.restoring with
  | some (_, due) => decide (s.cyc ≤ due)
  | none => false

/-- Charges of the cycle: to BUD and to the tier (R153, R284), to the tier alone for a record that moves (R310). -/
def State.chargeAll (s : State) : State :=
  s.tids.foldl (fun s t =>
    let n := s.chargeOf t
    let th := s.thread t
    let s := if n = 0 then s else s.modThread t fun th => th.setCreg crBUD (BitVec.ofNat 64 ((th.creg crBUD).toNat - n))
    let d := n + (s.recMoves t).toNat
    if d = 0 ∨ th.kind = .handler then s else s.charge t.st t.co th.tier d) s

/-- The thread whose release an operation waits for: the frozen thread of an FRZARV (R360), else the issuing one. -/
def MemOp.releaser (o : MemOp) (t : Tid) : Tid := match o.kind with
  | .frzarv => o.for_.getD t
  | _ => t

/-- One step of every release that an operation waits for (R191, R201); a loss met at DOMAIN scope or wider ends it (R249). -/
def State.tickRelease (s : State) (t : Tid) (o : MemOp) : State :=
  match o.rel with
  | none => s
  | some r =>
    if o.stage ≠ .send then s
    else
      let u := o.releaser t
      let (ok, r, s) := s.release u (if u = t then o.e.seq else (s.thread u).seq + 1) r
      if !ok then s.modOp t o.id fun o => { o with rel := some r }
      else
        let s := s.modOp t o.id fun o => { o with rel := none, since := s.cyc }
        if r.scope.code < 5 then s
        else
          match s.takeLost u with
          | some s => s.failAccess t o { fLost with va := o.va }
          | none => s

def State.tickReleases (s : State) : State := s.tids.foldl (fun s t => (s.thread t).ops.foldl (fun s o => s.tickRelease t o) s) s

/-- A restore ends (R314); a resumed thread takes its slot back once no handler borrows it (R355, R361); the lease of
a holder that is halted or freezing ends behind its commands (R154, R316). -/
def State.settleThreads (s : State) : State :=
  s.tids.foldl (fun s t =>
    let s := s.endRestore t
    let th := s.thread t
    let s := if th.status = .waiting ∧ th.kind ≠ .handler ∧ !s.borrowed t.st t.co t.tx then
        s.modThread t fun th => { th with status := .running, slotHeld := true, slot := t.tx }
      else s
    let s := if th.halting ∧ th.status ≠ .freezing ∧ !(s.core t.st t.co).xs.any (·.t == t) then s.haltThread t else s
    let v := s.vat t.st t.co
    if (th.halted ∨ th.status = .freezing) ∧ v.holder = some t ∧ v.cmds.all (·.t != t) then s.endLease t.st t.co else s) s

/-- A tier that is not backlogged and has no launched job keeps no deficit above 0 (R286). -/
def State.settleTiers (s : State) (st co : Nat) : State :=
  (List.range 8).foldl (fun s t =>
    let mine (j : Job) : Bool := j.core == co && j.tier == t && (match j.st with
      | .over => false
      | _ => true)
    if 0 < s.deficit st co t ∧ !(s.station st).jobs.any mine then s.setCb st (defOff co t) 0 else s) s

/-- The thread cycle of a thread falls in this core cycle (R285). -/
def State.inSlot (s : State) (t : Tid) : Bool := (s.thread t).slot % 4 == s.cyc % 4

/-- The words of a thread that can issue: other queues by stream order, and whether its C queue can. -/
def State.issues (s : State) (t : Tid) : List Action :=
  let th := s.thread t
  let key (q : QName) : Nat := ((th.head q).map Entry.seq).getD 0
  let qs := [QName.s, .v, .m, .x].filter fun q => s.canIssue t q
  let ins (l : List QName) (q : QName) : List QName := (l.filter fun r => decide (key r ≤ key q)) ++ [q] ++ l.filter fun r => decide (key q < key r)
  (qs.foldl ins []).map fun q => .issue t q

/-- C words of a cycle are taken by deadline (R213). -/
def State.copyIssues (s : State) (ts : List Tid) : List Action :=
  let dl (t : Tid) : Nat := ((s.thread t).creg crDL).toNat
  let ins (l : List Tid) (t : Tid) : List Tid := (l.filter fun r => decide (dl r ≤ dl t)) ++ [t] ++ l.filter fun r => decide (dl t < dl r)
  ((ts.filter fun t => s.canIssue t .c).foldl ins []).map fun t => .issue t .c

/-- The steps of the threads whose thread cycle this is: words, the splitter, the fault of a word that it found or of a SYSCALL or TRAP,
once every word before has issued (R350). -/
def State.slotSteps (s : State) : List Action :=
  let ts := (s.tids.filter s.inSlot).filter fun t => (s.thread t).status == .running
  ts.flatMap s.issues ++ s.copyIssues ts ++
    (ts.flatMap fun t => [Action.ev (.splitterFetch t), .ev (.faultDetect t)])

/-- Steps of the time of day of a thread, before its words. -/
def State.threadDue (s : State) (t : Tid) : List Instr :=
  let th := s.thread t
  let due (b : Bool) (i : Instr) : List Instr := if b then [i] else []
  due ((th.status == .running || th.status == .waiting && th.kind != .handler) && decide (th.notBefore ≤ s.cyc) &&
      (th.creg crBUD == 0 || (th.pend.flatMap PWrite.ws).any RegW.isBud)) (.budgetExhausted t) ++
    due (match th.preq with
      | some r => decide (r.f ≤ s.cyc)
      | none => false) (.forcedSave t) ++
    ((th.acq.filter fun a => decide (a.due ≤ s.cyc)).map fun _ => Instr.l1InvalidateComplete t) ++
    due (th.status == .freezing && s.quiet t) (.freezeComplete t) ++
    (if s.drained t then
      match th.drain with
      | some .retire | some .ended | some .killed => [.jobComplete t]
      | _ => [.saveRecordWrite t]
    else [])

/-- Tap words that complete: before the writes of the cycle land (R109) and before a declaring cycle (R267). -/
def State.tapsDue (s : State) : List Instr :=
  s.cores.flatMap fun k => (k.2.xs.filter fun m => decide (m.done ≤ s.cyc)).map fun m => Instr.xWordComplete m.t

/-- Steps of a core. -/
def State.coreDue (s : State) (st co : Nat) : List Instr :=
  let k := s.core st co
  let due (b : Bool) (i : Instr) : List Instr := if b then [i] else []
  due (match k.vat.cmds.head? with
    | some m => decide (m.done ≤ s.cyc)
    | none => false) (.vatComplete st co) ++
    due (match k.shadow.bind Shadow.due with
      | some d => decide (d ≤ s.cyc)
      | none => false) (.deviationLogAppend st co) ++
    due (k.vat.holder.isNone && !k.vat.waiters.isEmpty && decide (k.vat.nextAcc ≤ s.cyc)) (.vatLeaseGrant st co) ++
    due (k.coreHalt && !k.copyq && s.coreQuiet st co) (.copyqSettle st co)

/-- Steps of a core's dispatch, in the order of R355: timetable launches, handlers, the arbiter, timetable requests. -/
def State.coreDispatch (s : State) (st co : Nat) : List Instr :=
  let entries := (List.range 8).filter fun e => s.ttBit st co e 8
  (entries.filter (s.ttReady st co)).map (fun e => Instr.timetableLaunch st co e) ++
    (if (s.freeHandler st co).isSome && (s.nextRequest st co).isSome then [Instr.handlerSpawn st co] else []) ++
    (([4, 5].filter fun tx => (s.thread ⟨st, co, tx⟩).status == .waiting).map fun tx => Instr.handlerSlotTake ⟨st, co, tx⟩) ++
    (if (s.arbSlot st co).isSome && !(s.core st co).posted.isEmpty then [Instr.launchArbiter st co] else []) ++
    (entries.filter (s.ttAsks st co)).map fun e => Instr.timetablePreq st co e

/-- Steps of a station: segments, then declaring cycles, then what a copy or an invalidation ends. -/
def State.stationDue (s : State) (st : Nat) : List Instr :=
  let x := s.station st
  let due (b : Bool) (i : Instr) : List Instr := if b then [i] else []
  ((x.frames.filter fun f => f.2.arrive + 8 == s.cyc).map fun f => .slateForm st f.1) ++
    ((x.jobs.filter fun j => !j.dead && (match s.declareAt st j with
      | some d => decide (d ≤ s.cyc)
      | none => false)).map fun j => .declaringCycle st j.id) ++
    ((x.frames.filter fun f => f.2.expiry == s.cyc).map fun f => .segmentExpire st f.1) ++
    due (match x.moving with
      | some m => decide (m.due ≤ s.cyc)
      | none => false) (.recordMoveDone st) ++ due (s.invOver st) (.tlbInvalidateDone st)

/-- The first steps of a cycle: the power decision, the forecasts, a ring slot, register writes that land. -/
def State.firstDue (s : State) : List Instr :=
  let l := s.stations.map Prod.fst
  (if s.cyc % 1250 = 0 then [Instr.powerDecision] ++ l.map .afrUpdate else []) ++
    (if l.any s.slotBegins then [Instr.ringSlotStart] else []) ++ s.tapsDue ++
    ((s.tids.filter fun t => s.inSlot t && (s.thread t).pend.any fun w => decide (w.land ≤ s.tcyc)).map .fixedLatencyWriteLand) ++
    if s.scanDue.isSome then [Instr.bankScanRow] else []

/-- The cores of which the state holds something: a core, a thread, a posted job or a timetable entry. -/
def State.liveCores (s : State) : List (Nat × Nat) :=
  ((s.cores.map Prod.fst) ++ (s.tids.map fun t => coreKey t.st t.co) ++
    s.stations.flatMap fun x => (List.range 8).filterMap fun co => if (List.range 8).any (fun e => s.ttBit x.1 co e 8) then some (coreKey x.1 co) else none).eraseDups.map
    fun k => (k / 8, k % 8)

/-- What a delivered pulse makes due. -/
def State.due (s : State) : List Action :=
  let cores := s.liveCores
  (s.firstDue ++ (s.stations.map Prod.fst).flatMap s.stationDue ++ s.tids.flatMap s.threadDue ++
    (cores.flatMap fun c => s.coreDue c.1 c.2) ++ (cores.flatMap fun c => s.coreDispatch c.1 c.2)).map Action.ev ++ s.slotSteps

/-- The leader tells the host which positions to reload; this waits while no lease stands (R395, logs 93 and 101). -/
def State.tellReload (s : State) : State :=
  if s.reloads.isEmpty ∨ !s.leaseStands then s else { s.send 0x32 s.leaseHolder (s.reloads.flatMap (leBytes 4)) with reloads := [] }

/-- The clock: the inputs, the source's next period, and for a delivered pulse the charges and the steps due in the new cycle. -/
def State.tick (s : State) : State :=
  let s := { (s.absorbAll s.inputs).tellReload with leaseNow := none }
  let (pulse, s) := s.period_
  if !pulse then s
  else
    let s := s.liveCores.foldl (fun s c => s.serveBanks c.1 c.2 (s.cyc - 1)) s
    let s := s.chargeAll.tickReleases.settleThreads
    let s := s.liveCores.foldl (fun s c => s.settleTiers c.1 c.2) s
    let s := s.markOut
    { s with agenda := s.agenda ++ s.due }

/-! The choice. -/

/-- What the clock finds next. -/
inductive Pick where
  | event (i : Instr) (s : State)
  | clock
  | stopped

/-- The inputs from the first release of the reset on: a module in reset takes nothing else (R404). -/
def fromRelease : List Input → List Input
  | [] => []
  | .release :: rest => .release :: rest
  | _ :: rest => fromRelease rest

/-- The choice among the possible steps and the clock (log 3). -/
def State.pick (s : State) : Pick :=
  if s.inReset then
    match fromRelease s.inputs with
    | [] => .stopped
    | l => .event .resetRelease { s with inputs := l }
  else
    match s.enabled with
    | [] => .clock
    | l =>
      let n := Config.freeChoice s.freeCtr % (l.length + 1)
      match l[n]? with
      | some i => .event i { s with freeCtr := s.freeCtr + 1 }
      | none => .clock

end Sys2Proof.Machine
end

