-- ==== Sys2Proof/Machine/Step.lean ====
section
/-! DEFINITION. One step of the machine: the next step due in this core cycle; where none is left, one that has become
possible or the clock (log 3). `State.withFetchWord` places one instruction (log 5). -/

namespace Sys2Proof.Machine

open Host

def step (s : State) : Outcome State Fault Refusal :=
  match s.agenda with
  | .ev i :: rest => exec i { s with agenda := rest }
  | .issue t q :: rest =>
    let s := { s with agenda := rest, cur := (t, q) }
    if s.canIssue t q then
      match s.spoiled t q with
      | some s => .next s
      | none =>
        match s.headInstr t q with
        | .ok i => exec i s
        | .error r => .next (s.badWord t q r)
    else .next s
  | [] =>
    match s.pick with
    | .event i s => exec i s
    | .clock => .next s.tick
    | .stopped => .fault .noClock

/-- The instruction whose bits are `w`, numbered as spec/opcode_table.json numbers them, all bits above `nbits` zero. -/
def State.withFetchWord (s : State) (nbits w : Nat) : State :=
  let v := w % 2 ^ nbits
  s.place [v % 2 ^ 32, v / 2 ^ 32 % 2 ^ 32, v / 2 ^ 64 % 2 ^ 32]

end Sys2Proof.Machine
end

