-- ==== Sys2Proof/Safety.lean ====
section
/-! DEFINITION. What counts as a good state and a safe run, in the terms that statements use. -/

namespace Sys2Proof.Machine

/-- The module's memory is in canonical form: addresses rising, no zero listed. -/
def State.memWf (s : State) : Prop := Memory.wf s.mem = true

/-- A run of `n` steps that meets no stop of the machine. -/
def State.safeFor (s : State) (n : Nat) : Prop := ∃ t, Host.Core.run ⟨State, Fault, Refusal, step, State.reset⟩ n s = .next t

/-! The issue of one word, in the terms that statements use. -/

/-- The word with control part `c` and entry `e` stands at the head of the queue that issues, its token of V = 3, if it needs
one, is there, and its guard holds (R25, R33). `th` is the thread with that token consumed. -/
structure State.CanRun (s : State) (c : Ctl) (e : Entry) (th : Thread) : Prop where
  head : (s.thread s.cur.1).head s.cur.2 = some e
  gate : tokenGate c e s.cur.2 (s.thread s.cur.1) = .pass th
  guard : c.guardHolds th e.base = true

/-- What the word's body sees. -/
def State.ctx (s : State) (c : Ctl) (e : Entry) : Ctx := ⟨s.cur.1, s.cur.2, { e with tok := e.tok || c.v.val == 3 }, c⟩

/-- The state after a word has issued whose own effect has given `s'`: its flags at issue are set, it has left its queue, whose
next word can issue after the delay and `extra` further thread cycles, and a splitter that stood behind it goes on (R25 to R28, R34). -/
def State.issued (s s' : State) (c : Ctl) (u : ModUse) (e : Entry) (extra : Nat) : State :=
  s'.modThread s.cur.1 fun th => (th.orFlags (c.issueFlags u)).leave e s.cur.2 c s.tcyc extra

/-- The state after a word has issued whose one effect is to put register writes in flight, to land `lat` thread cycles later
(R29). -/
def State.wrote (s : State) (c : Ctl) (e : Entry) (th : Thread) (lat extra : Nat) (ws : List RegW) : State :=
  s.issued (s.setThread s.cur.1 (th.write s.tcyc lat e.seq s.cur.2 ws)) c {} e extra

/-- An ordered form goes on with scope `sc` and order `o` in state `t`: it releases nothing, or what it releases has been
released and no write was lost (R49, R199, R249); MODWARN is set where R49 says so. -/
structure Ctx.Passes (x : Ctx) (s : State) (side : Side) (widest sc : Scope) (o : Order) (t : State) : Prop where
  ord : (x.c.ordering side widest).1 = sc ∧ (x.c.ordering side widest).2.1 = o
  plain : o.releases = false → t = x.flag s (flagIf (x.c.ordering side widest).2.2 flMODWARN)
  released : o.releases = true → ∃ e' u, x.release s x.e sc = (true, e', u) ∧ (5 ≤ sc.code → (u.core x.t.st x.t.co).lost = false) ∧
    t = x.flag u (flagIf (x.c.ordering side widest).2.2 flMODWARN)

/-- A translation's answer that is no fault. -/
def Target.ok : Target → Prop
  | .fault _ => False
  | _ => True

/-- An ordered operation of the S queue is in flight; an acquiring one holds the queue (R199, R296). -/
def Ctx.inFlight (x : Ctx) (s : State) (tg : Target) (op : MemOp) (holds : Bool) : State :=
  if holds then x.block (x.start s tg op).2 (x.start s tg op).1 else (x.start s tg op).2

end Sys2Proof.Machine
end

