-- ==== Sys2Proof/Certificates/Slice0/Obligations.lean ====
section
/-! DEFINITION. The statements for the provers, from the spec's numbered rules. A word's own effect is stated under
`State.CanRun`: its entry stands at the head of the queue that issues, with its token and its guard; a hardware step's under the
conditions the spec gives it. -/

open Host Sys2Proof Sys2Proof.Machine

/-! Scalar words. -/

/-- R78, R79: the result and the latency of every word of ALU groups 0 and 1, for every operand, with the fixed results of a
zero divisor and of −2^63 ÷ −1, and the eight further thread cycles of the divider. A write to S0 is discarded (`wrS`, R31).
R78: CLZ, POPC and BREV by what their results are. -/
def Obligations.ScalarArithmetic : Prop :=
  (∀ (s : State) (c : Ctl) (e : Entry) (th : Thread) (d a b : SReg), s.CanRun c e th →
    let A := th.readS e.base a
    let B := th.readS e.base b
    let put (lat : Nat) (v : Word) : Outcome State Fault Refusal := .next (s.wrote c e th lat 0 (wrS e.base d v))
    let quo (v : Word) : Outcome State Fault Refusal :=
      .next (s.wrote c e th 9 8 (wrS e.base d v ++ if B = 0 then [.flags flIDZ] else []))
    exec (.add c d a b) s = put 1 (A + B) ∧ exec (.sub c d a b) s = put 1 (A - B) ∧
    exec (.mul c d a b) s = put 2 (A * B) ∧
    exec (.mulhi c d a b) s = put 3 (BitVec.ofInt 64 (A.toInt * B.toInt / 2 ^ 64)) ∧
    exec (.mulhn c d a b) s = put 3 (BitVec.ofNat 64 (A.toNat * B.toNat / 2 ^ 64)) ∧
    (B = 0 → exec (.div c d a b) s = quo (BitVec.allOnes 64) ∧ exec (.divn c d a b) s = quo (BitVec.allOnes 64) ∧
      exec (.rem c d a b) s = quo A ∧ exec (.remn c d a b) s = quo A) ∧
    (B ≠ 0 → exec (.div c d a b) s = quo (BitVec.ofInt 64 (A.toInt.tdiv B.toInt)) ∧
      exec (.divn c d a b) s = quo (BitVec.ofNat 64 (A.toNat / B.toNat)) ∧
      exec (.rem c d a b) s = quo (BitVec.ofInt 64 (A.toInt.tmod B.toInt)) ∧
      exec (.remn c d a b) s = quo (BitVec.ofNat 64 (A.toNat % B.toNat))) ∧
    (A = BitVec.intMin 64 → B = BitVec.allOnes 64 →
      exec (.div c d a b) s = quo (BitVec.intMin 64) ∧ exec (.rem c d a b) s = quo 0) ∧
    exec (.and c d a b) s = put 1 (A &&& B) ∧ exec (.or c d a b) s = put 1 (A ||| B) ∧
    exec (.xor c d a b) s = put 1 (A ^^^ B) ∧ exec (.andn c d a b) s = put 1 (A &&& ~~~ B) ∧
    exec (.shl c d a b) s = put 1 (A <<< (B.toNat % 64)) ∧ exec (.shr c d a b) s = put 1 (A >>> (B.toNat % 64)) ∧
    exec (.sar c d a b) s = put 1 (A.sshiftRight (B.toNat % 64)) ∧
    exec (.rol c d a b) s = put 1 (A.rotateLeft (B.toNat % 64)) ∧
    exec (.min c d a b) s = put 1 (if A.toInt ≤ B.toInt then A else B) ∧
    exec (.max c d a b) s = put 1 (if A.toInt ≤ B.toInt then B else A) ∧
    exec (.minn c d a b) s = put 1 (if A.toNat ≤ B.toNat then A else B) ∧
    exec (.maxn c d a b) s = put 1 (if A.toNat ≤ B.toNat then B else A))
  ∧ (∀ (s : State) (c : Ctl) (e : Entry) (th : Thread) (d a : SReg), s.CanRun c e th →
    let A := th.readS e.base a
    let put (v : Word) : Outcome State Fault Refusal := .next (s.wrote c e th 1 0 (wrS e.base d v))
    (∃ n, exec (.clz c d a) s = put (BitVec.ofNat 64 n) ∧ n ≤ 64 ∧ (∀ k, k < n → A.getLsbD (63 - k) = false) ∧
      (n < 64 → A.getLsbD (63 - n) = true)) ∧
    exec (.popc c d a) s = put (BitVec.ofNat 64 ((List.range 64).filter fun k => A.getLsbD k).length) ∧
    (∃ v, exec (.brev c d a) s = put v ∧ ∀ k, k < 64 → v.getLsbD (63 - k) = A.getLsbD k))

/-- R80, R81, R82: the immediate forms, LI, LEA and SEL. `immS` and `immZ` are the immediate with its EXT words attached,
sign-extended and zero-extended (R35).
R83, R84: CMP and CMPI under every condition, and predicate logic. A write to P0 is discarded (`wrP`, R31). -/
def Obligations.ScalarImmediates : Prop :=
  (∀ (s : State) (c : Ctl) (e : Entry) (th : Thread) (d a b : SReg) (i : Fin 512) (j : Fin 16384) (sh : Fin 16) (n : Bool) (p : PReg),
    s.CanRun c e th →
    let A := th.readS e.base a
    let B := th.readS e.base b
    let put (v : Word) : Outcome State Fault Refusal := .next (s.wrote c e th 1 0 (wrS e.base d v))
    exec (.addi c d a i) s = put (A + BitVec.ofInt 64 (immS 9 i c.imms)) ∧
    exec (.andi c d a i) s = put (A &&& BitVec.ofInt 64 (immS 9 i c.imms)) ∧
    exec (.ori c d a i) s = put (A ||| BitVec.ofNat 64 (immZ 9 i c.imms)) ∧
    exec (.xori c d a i) s = put (A ^^^ BitVec.ofNat 64 (immZ 9 i c.imms)) ∧
    exec (.shli c d a i) s = put (A <<< (i.val % 64)) ∧ exec (.shri c d a i) s = put (A >>> (i.val % 64)) ∧
    exec (.sari c d a i) s = put (A.sshiftRight (i.val % 64)) ∧
    exec (.li c d j) s = put (BitVec.ofInt 64 (immS 14 j c.imms)) ∧
    exec (.lea c d a b sh) s = put (A + B <<< sh.val) ∧
    exec (.sel c d a b n p) s = put (if (th.readP e.base p ^^ n) = true then A else B))
  ∧ (∀ (s : State) (c : Ctl) (e : Entry) (th : Thread) (p : PReg) (a b : SReg) (i : Fin 512) (cc : Cond) (x y : PReg),
    s.CanRun c e th →
    let A := th.readS e.base a
    let B := th.readS e.base b
    let I : Word := match cc with
      | .ltn | .gen | .len | .gtn => BitVec.ofNat 64 (immZ 9 i c.imms)
      | _ => BitVec.ofInt 64 (immS 9 i c.imms)
    let holds (u v : Word) : Bool := match cc with
      | .eq => decide (u = v) | .ne => decide (u ≠ v)
      | .lt => decide (u.toInt < v.toInt) | .ge => decide (v.toInt ≤ u.toInt)
      | .le => decide (u.toInt ≤ v.toInt) | .gt => decide (v.toInt < u.toInt)
      | .ltn => decide (u.toNat < v.toNat) | .gen => decide (v.toNat ≤ u.toNat)
      | .len => decide (u.toNat ≤ v.toNat) | .gtn => decide (v.toNat < u.toNat)
    let put (v : Bool) : Outcome State Fault Refusal := .next (s.wrote c e th 1 0 (wrP e.base p v))
    let P := th.readP e.base x
    let Q := th.readP e.base y
    exec (.cmp c p a b cc) s = put (holds A B) ∧ exec (.cmpi c p a i cc) s = put (holds A I) ∧
    exec (.pand c p x y) s = put (P && Q) ∧ exec (.por c p x y) s = put (P || Q) ∧ exec (.pxor c p x y) s = put (P ^^ Q) ∧
    exec (.pnot c p x) s = put !P)

/-- R97, R98, R99, R298, R299: GETC and SETC of every control register, SLATE, PCHK and BUDG. SETC of a privileged register at
user privilege takes the privilege fault and writes nothing; of a read-only one it writes nothing. -/
def Obligations.ControlRegisters : Prop :=
  ∀ (s : State) (c : Ctl) (e : Entry) (th : Thread) (d : SReg) (r : CReg) (item : Fin 8), s.CanRun c e th →
    let A := th.readS e.base d
    let s0 := s.setThread s.cur.1 th
    let got (v : Word) : Outcome State Fault Refusal := .next (s.wrote c e th 1 0 (wrS e.base d v))
    let ro := r = .cyc ∨ r = .tb ∨ r = .bud ∨ r = .preq ∨ r = .segtag ∨ r = .slate ∨ r = .jobid ∨ r = .cprog ∨ r = .rrb
    let sup := r = .tbskew ∨ r = .dl ∨ r = .ywin
    exec (.getc c d r) s = got (match r with
      | .cyc => BitVec.ofNat 64 s.cyc
      | .tb => BitVec.ofNat 64 s.tb
      | .tbskew => s.tbskew
      | .preq => match th.preq with
        | some q => if q.seen ≤ s.cyc then BitVec.ofNat 64 (1 + 2 * q.src) else 0
        | none => 0
      | .pred => BitVec.ofNat 64 (th.pred e.base)
      | r => th.creg r.number) ∧
    (ro → exec (.setc c d r) s = .next (s.wrote c e th 1 0 [])) ∧
    (¬ ro → (sup → th.priv ≠ .user) → r ≠ .rm → r ≠ .pred → exec (.setc c d r) s = .next (s.wrote c e th 1 0 [.ctl r.number A])) ∧
    (r = .pred → exec (.setc c d r) s =
      .next (s.wrote c e th 1 0 ((List.range 7).map fun i => .p (physP e.base (i + 1)) (A.getLsbD (i + 1))))) ∧
    (r = .rm → exec (.setc c d r) s = .next (s.issued (s.setThread s.cur.1
      ((th.write s.tcyc 1 e.seq s.cur.2 [.ctl 0x010 A]).orFlags (flagIf (A.toNat % 8 = 0 ∨ 5 < A.toNat % 8) flMODWARN))) c {} e 0)) ∧
    (sup → th.priv = .user → exec (.setc c d r) s = .next (s0.raise s.cur.1 { fPriv with pc := e.pc, q := s.cur.2 })) ∧
    exec (.slate c d item) s = got (Cells.get th.slate item.val) ∧
    exec (.pchk c d) s = got (match th.preq with
      | some q => if q.seen ≤ s.cyc then BitVec.ofNat 64 (max 1 (q.f - s.cyc)) else 0
      | none => 0) ∧
    exec (.budg c d) s = .next (s.wrote c e th 1 0 [.bud (decide (th.priv ≠ .user)) (A.toNat % 2 ^ 32)])

/-! Control transfer, loops, waits. -/

/-- R27, R85 to R88: where BR, BRC, CALL, RET and JTAB send the splitter, which had stopped behind them and fetches again two
thread cycles later; a BRC not taken goes on behind itself; a misaligned RET takes its alignment fault and does not branch.
R90, R91, R93 to R95: LOOP's writes; LOOPEND's three cases, its rotation, its pass count and where the splitter goes. From
the loop buffer the next pass is placed in this thread cycle, otherwise two thread cycles later. -/
def Obligations.ControlTransfer : Prop :=
  (∀ (s : State) (c : Ctl) (e : Entry) (th : Thread) (disp : Fin 32768) (p : PReg) (n : Bool) (a b : SReg), s.CanRun c e th →
    let A := th.readS e.base a
    let B := th.readS e.base b
    let go (ws : List RegW) (pc : Word) : State :=
      s.issued (s.setThread s.cur.1 { th.write s.tcyc 1 e.seq s.cur.2 ws with spl := { th.spl with pc := pc } }) c {} e 0
    let stay : State := s.issued (s.setThread s.cur.1 th) c {} e 0
    let target := e.pc + BitVec.ofInt 64 (4 * immS 15 disp c.imms)
    exec (.br c disp) s = .next (go [] target) ∧
    exec (.brc c p n disp) s = .next (if (th.readP e.base p ^^ n) = true then go [] target else stay) ∧
    exec (.call c disp) s = .next (go [.s 23 (e.pc + BitVec.ofNat 64 (4 * (1 + e.exts.length)))] target) ∧
    (A.toNat % 4 = 0 → exec (.ret c a) s = .next (go [] A)) ∧
    (A.toNat % 4 ≠ 0 → exec (.ret c a) s =
      .next ((s.setThread s.cur.1 th).raise s.cur.1 { fAlign A with pc := e.pc, q := s.cur.2 })) ∧
    exec (.jtab c a b) s = .next (go [] (e.pc + 4 * (1 + if A.toNat < B.toNat then A else B))) ∧
    (th.spl.stop = .transfer e.seq → ∀ ws pc,
      ((go ws pc).thread s.cur.1).spl = { th.spl with pc := pc, stop := .run, resumeAt := s.tcyc + 2 } ∧
      (stay.thread s.cur.1).spl = { th.spl with stop := .run, resumeAt := s.tcyc + 2 }))
  ∧ (∀ (s : State) (c : Ctl) (e : Entry) (th : Thread) (d a : SReg) (ki rot : Bool), s.CanRun c e th →
    let A := (th.readS e.base a).toNat
    let D := (th.readS e.base d).toNat
    let ws : List RegW := [.ctl 0x028 (BitVec.ofNat 64 (A % 2 ^ 32)),
        .ctl 0x029 (BitVec.ofNat 64 (D % 256 + (if rot then 256 else 0) + if ki then 512 else 0))]
      ++ if rot then wrP e.base 4 true ++ wrP e.base 5 false ++ wrP e.base 6 false ++ wrP e.base 7 false else []
    let n := (th.write s.tcyc 1 e.seq s.cur.2 ws).passStart e.seq
    exec (.loop c d a ki rot) s = .next (s.issued (s.setThread s.cur.1 n) c {} e 0) ∧ n.spl = { th.spl with pass := 0 } ∧
    (∀ q, (n.queue q).es = ((th.queue q).es).map fun r => if e.seq < r.seq then { r with pass := 0 } else r))
  ∧ (∀ (e : Entry) (target : Word), e.inLoopBuffer target = true ↔
    target.toNat < e.pc.toNat ∧ (e.pc + BitVec.ofNat 64 (4 * (1 + e.exts.length))).toNat - target.toNat ≤ 4 * 128)
  ∧ (∀ (s : State) (c : Ctl) (e : Entry) (th : Thread) (disp : Fin 32768), s.CanRun c e th →
    th.spl.stop = .transfer e.seq →
    let LC := (th.creg 0x028).toNat
    let EC := (th.creg 0x029).toNat
    let n := EC % 256
    let target := e.pc + BitVec.ofInt 64 (4 * immS 15 disp c.imms)
    let wr (ws : List RegW) (sp : Splitter) : State :=
      s.issued (s.setThread s.cur.1 { th.write s.tcyc 1 e.seq s.cur.2 ws with spl := sp }) c {} e 0
    let put (lc k : Nat) : List RegW := [.ctl 0x028 (BitVec.ofNat 64 lc), .ctl 0x029 (BitVec.ofNat 64 (EC - n + k))]
    let turn (p4 : Bool) : List RegW :=
      if EC / 256 % 2 = 1 then [wrRrb ((th.spl.base + 1) % 8), .p (physP ((th.spl.base + 1) % 8) 4) p4] else []
    let base' := if EC / 256 % 2 = 1 then (th.spl.base + 1) % 8 else th.spl.base
    let back : Splitter :=
      if e.inLoopBuffer target then { th.spl with pc := target, base := base', pass := th.spl.pass + 1, stop := .run, resumeAt := s.tcyc }
      else { th.spl with pc := target, base := base', pass := th.spl.pass + 1 }
    (LC ≠ 0 → exec (.loopend c disp) s = .next (wr (put (LC - 1) n ++ turn true) back)) ∧
    (LC = 0 → 1 < n → exec (.loopend c disp) s = .next (wr (put LC (n - 1) ++ turn false) back)) ∧
    (LC = 0 → n ≤ 1 → exec (.loopend c disp) s = .next (wr (put LC 0) { th.spl with pass := 0 })))

/-- R89, R297, R306, R308, R335: BRK, which lets a tap word under way complete first, YIELD without a request, SYSCALL and TRAP. A SYSCALL or TRAP leaves the splitter at a word whose
fate is the fault with its cause and code, reported at the word.
R100, R297, R308, R309: RETIRE, and YIELD with a request that it sees, drain the thread: the splitter places no more words,
the request is answered, no register changes. -/
def Obligations.TrapWords : Prop :=
  (∀ (s : State) (c : Ctl) (e : Entry) (th : Thread) (k : Fin 16) (i : Fin 512), s.CanRun c e th →
    let enter (cause : Nat) : State := s.issued (s.setThread s.cur.1
      { th with spl := { th.spl with stop := .bad { cause := cause, code := i.val, pc := e.pc } } }) c {} e 0
    let dbg := (s.cb s.cur.1.st 0x1A90).getLsbD th.ctx
    let busy : Prop := (∃ x ∈ (s.core s.cur.1.st s.cur.1.co).xs, x.t = s.cur.1) ∨ th.status = .freezing
    (th.ctx < 16 → dbg = true → ¬ busy → exec (.brk c k) s =
      .next (s.issued (s.setThread s.cur.1 { th with halted := true, halting := false, haltCyc := s.cyc }) c {} e 0)) ∧
    (th.ctx < 16 → dbg = true → busy → exec (.brk c k) s = .next (s.issued (s.setThread s.cur.1 { th with halting := true }) c {} e 0)) ∧
    (th.ctx < 16 → dbg = false → exec (.brk c k) s =
      .next ((s.setThread s.cur.1 th).raise s.cur.1 { cause := 0x09, code := k.val, pc := e.pc, q := s.cur.2 })) ∧
    exec (.syscall c i) s = .next (enter 0x0B) ∧ exec (.trap c i) s = .next (enter 0x0C) ∧
    ((∀ r, th.preq = some r → s.cyc < r.seen) → exec (.yield_ c) s = .next (s.issued (s.setThread s.cur.1 th) c {} e 0)))
  ∧ (∀ (s : State) (c : Ctl) (e : Entry) (th : Thread) (r : Preq), s.CanRun c e th →
    let goes (i : Instr) (d : Drain) : Prop := ∃ t, exec i s = .next t ∧
      let n := t.thread s.cur.1
      n.drain = some d ∧ (∃ e', n.drainE = some (s.cur.2, e') ∧ e'.pc = e.pc) ∧ n.spl = { th.spl with stop := .done } ∧ n.preq = none ∧
      (n.queue s.cur.2).es = ((th.queue s.cur.2).es).tail ∧ n.creg 0x013 = th.creg 0x013 ||| c.issueFlags {} ∧
      n.s = th.s ∧ n.p = th.p ∧ n.k = th.k ∧ n.l = th.l ∧ n.z = th.z ∧ n.g = th.g ∧ n.tok = th.tok ∧ n.slots = th.slots ∧
      t.cores = s.cores
    goes (.retire c) .retire ∧
    (th.preq = some r → r.seen ≤ s.cyc → goes (.yield_ c) .yield_ ∧
      ∀ t, exec (.yield_ c) s = .next t → (t.thread s.cur.1).saveRec = r.recd ∧ t.mem = s.mem))

/-- R296, R300, R301: SEGWAIT and TIMEWAIT issue once their cycle or time has come, wait unissued before that, and take their
faults. The register that names the byte or the time is the one latched when the word first stood at the head.
R90 (issue), R193 to R195: POST of every engine adds a token one thread cycle later once its condition holds and its counter
is below 15, WAIT takes the oldest token (log 9, DEDUCED), both wait otherwise; a counter that the fragment does not declare is an overreach. RDV
issues once every word placed before it has. -/
def Obligations.TimeWords : Prop :=
  (∀ (s : State) (c : Ctl) (e : Entry) (th : Thread) (a : SReg) (late : Bool), s.CanRun c e th →
    let v := if e.latched then e.latch.getD 0 0 else th.readS e.base a
    let s0 := s.setThread s.cur.1 th
    let goes : Outcome State Fault Refusal := .next (s.issued s0 c {} e 0)
    let stops (f : FRec) : Outcome State Fault Refusal := .next (s0.raise s.cur.1 { f with pc := e.pc, q := s.cur.2 })
    let waits (i : Instr) : Prop := ∃ n e', exec i s = .next (s.setThread s.cur.1 n) ∧ n = th.setHead s.cur.2 e' ∧
      e'.pc = e.pc ∧ e'.seq = e.seq ∧ e'.word = e.word ∧ e'.latched = true ∧ e'.latch.getD 0 0 = v
    let inSeg := th.segExp ≠ 0 ∧ v.toNat < 256 + th.segLen
    let ready := (Cells.get th.slate 7).toNat + 8 + v.toNat / 6400
    let slip := late = true ∧ e.stage = 0 ∧ v.toNat + s.tbskew.toNat < s.tb
    (inSeg → ready ≤ s.cyc → exec (.segwait c a) s = goes) ∧ (inSeg → s.cyc < ready → waits (.segwait c a)) ∧
    (¬ inSeg → exec (.segwait c a) s = stops fFormat) ∧
    (¬ slip → v.toNat ≤ s.tb → exec (.timewait c a late) s = goes) ∧
    (¬ slip → s.tb < v.toNat → waits (.timewait c a late)) ∧
    (slip → exec (.timewait c a late) s = stops { cause := 0x08, sub := 1, va := BitVec.ofNat 64 s.tb }))
  ∧ (∀ (s : State) (c : Ctl) (e : Entry) (th : Thread) (w : Token), s.CanRun c e th →
    let s0 := s.setThread s.cur.1 th
    let stops : Outcome State Fault Refusal := .next (s0.raise s.cur.1 { fOver 4 with pc := e.pc, q := s.cur.2 })
    let posts (i : Instr) : Prop :=
      (w.val < th.tokenCount → s0.postReady s.cur.1 s.cur.2 e.seq = true → th.tokensHeld w.val < 15 →
        exec i s = .next (s.wrote c e th 1 0 [.tok w.val (postCover s.cur.2 e.seq)])) ∧
      (w.val < th.tokenCount → s0.postReady s.cur.1 s.cur.2 e.seq = false ∨ 15 ≤ th.tokensHeld w.val → exec i s = .next s0) ∧
      (th.tokenCount ≤ w.val → exec i s = stops)
    let waits (i : Instr) : Prop :=
      (w.val < th.tokenCount → th.tokens w.val ≠ [] → exec i s =
        .next (s.issued (s.setThread s.cur.1 (th.consume s.cur.2 w.val)) c {} e 0)) ∧
      (w.val < th.tokenCount → th.tokens w.val = [] → exec i s = .next s0) ∧ (th.tokenCount ≤ w.val → exec i s = stops)
    (posts (.postS c w) ∧ posts (.postV c w) ∧ posts (.postM c w) ∧ posts (.postC c w) ∧ posts (.postX c w)) ∧
    (waits (.waitS c w) ∧ waits (.waitV c w) ∧ waits (.waitM c w) ∧ waits (.waitC c w) ∧ waits (.waitX c w)) ∧
    ((∀ x ∈ th.entries, e.seq ≤ x.seq) → exec (.rdv c) s = .next (s.issued s0 c {} e 0)) ∧
    ((∃ x ∈ th.entries, x.seq < e.seq) → exec (.rdv c) s = .next s0))

/-! Core store, memory words, fences. -/

/-- R102 to R104: LDS, STS and LDP, their address, their value, their latency and their faults in order.
R103, R149: a queue that has waited for every Vat word reads core store as it stands, little-endian; one that has not reads of each
byte the old or the new value. Of the fault of a misaligned LDS or STS the spec names no address: the model reports the effective one (log 29,
DEDUCED). LDS claims its banks (log 18). -/
def Obligations.CoreStoreWords : Prop :=
  (∀ (s : State) (c : Ctl) (e : Entry) (th : Thread) (sz : Size) (m a : SReg) (off : Fin 512) (w : Fin 8) (o6 : Fin 64) (sc : Scope)
    (o : Order) (t : State), s.CanRun c e th →
    let x := s.ctx c e
    let s0 := s.setThread s.cur.1 th
    let n := sz.bytes
    let A := th.readS e.base a + BitVec.ofInt 64 (immS 9 off c.imms * n)
    let B := th.readS e.base a + BitVec.ofInt 64 (sext o6 6 * n)
    let stops (f : FRec) : Outcome State Fault Refusal := .next (s0.raise s.cur.1 { f with pc := e.pc, q := s.cur.2 })
    let goes (u : State) : Outcome State Fault Refusal := .next (s.issued u c { order := true } e 0)
    let inside := A.toNat % n = 0 ∧ A.toNat + n ≤ th.csBytes
    let win := Tab.get th.pw w.val
    (A.toNat % n ≠ 0 → exec (.lds c sz m a off) s = stops (fAlign A) ∧ exec (.sts c sz m a off) s = stops (fAlign A)) ∧
    (A.toNat % n = 0 → th.csBytes < A.toNat + n →
      exec (.lds c sz m a off) s = stops (fOver 2) ∧ exec (.sts c sz m a off) s = stops (fOver 2)) ∧
    (inside → x.Passes s0 .load .station sc o t → exec (.lds c sz m a off) s = goes (x.acquireAfter
      (x.write (t.claimBanks s.cur.1 [(t.thread s.cur.1).csBase + A.toNat]) 3 (wrS e.base m (BitVec.ofNat 64 (t.csReadQ s.cur.1 s.cur.2 A.toNat n)))) sc o)) ∧
    (inside → x.Passes s0 .store .station sc o t → exec (.sts c sz m a off) s = goes
      (x.write t 1 ((List.range n).map fun i => .cs ((t.thread s.cur.1).csBase + A.toNat + i)
        (BitVec.ofNat 8 ((x.s t m).toNat / 256 ^ i))))) ∧
    (Tab.has th.pw w.val = false → exec (.ldp c sz m a w o6) s = stops { cause := 0x05, sub := w.val }) ∧
    (Tab.has th.pw w.val = true → B.toNat % n ≠ 0 → exec (.ldp c sz m a w o6) s = stops (fAlign B)) ∧
    (Tab.has th.pw w.val = true → B.toNat % n = 0 → x.Passes s0 .load .thread sc o t → exec (.ldp c sz m a w o6) s = goes
      (x.write t 2 (if B.toNat + n ≤ win.length then wrS e.base m (BitVec.ofNat 64 (leNat ((win.drop B.toNat).take n)))
        else wrS e.base m 0 ++ [.flags flPWBOUND]))))
  ∧ (∀ (s : State) (t : Tid) (q : QName) (a n : Nat), (∀ f ∈ (s.thread t).soft, q ∈ f.seen) →
    s.csReadQ t q a n = Memory.readN (s.core t.st t.co).cs ((s.thread t).csBase + a) n)
  ∧ (∀ (s : State) (t : Tid) (q : QName) (a : Nat),
    let k := (s.thread t).csBase + a
    s.csByte t q a = Cells.get (s.core t.st t.co).cs k ∨
      ∃ f ∈ (s.thread t).soft, q ∉ f.seen ∧ f.a ≤ k ∧ k < f.a + f.old.length ∧ s.csByte t q a = f.old.getD (k - f.a) 0)

/-- R196 to R199, R204: LD, ST and PREF: alignment, translation, a full store buffer, and the operation that each leaves behind.
The model caches no leaf whose translation of an access faults (`dropLeaf`: log 88, DEDUCED). -/
def Obligations.MemoryWords : Prop :=
  ∀ (s : State) (c : Ctl) (e : Entry) (th : Thread) (sz : Size) (m a : SReg) (off : Fin 512) (wr : Bool) (sc : Scope) (o : Order)
    (t : State) (pa : Nat) (nc : Bool), s.CanRun c e th →
    let x := s.ctx c e
    let s0 := s.setThread s.cur.1 th
    let n := sz.bytes
    let A := th.readS e.base a + BitVec.ofInt 64 (immS 9 off c.imms * n)
    let P := th.readS e.base a + BitVec.ofInt 64 (immS 9 off c.imms * 128)
    let t1 : State := { t with nextId := t.nextId + 1 }
    let stops (f : FRec) : Outcome State Fault Refusal := .next (s0.raise s.cur.1 { f with pc := e.pc, q := s.cur.2 })
    let drops (f : FRec) : Outcome State Fault Refusal :=
      .next ((s0.dropLeaf s.cur.1 (x.th s0).ctx A.toNat).raise s.cur.1 { f with pc := e.pc, q := s.cur.2 })
    let goes (u : State) : Outcome State Fault Refusal := .next (s.issued u c { order := true } e 0)
    (A.toNat % n ≠ 0 → exec (.ld c sz m a off) s = stops (fAlign A) ∧ exec (.st c sz m a off) s = stops (fAlign A)) ∧
    (A.toNat % n = 0 → ∀ f, x.target s0 A .read n = .fault f → exec (.ld c sz m a off) s = drops f) ∧
    (A.toNat % n = 0 → ∀ f, x.target s0 A .write n = .fault f → exec (.st c sz m a off) s = drops f) ∧
    (A.toNat % n = 0 → (x.target s0 A .read n).ok → x.Passes s0 .load (if inSegRegion A.toNat then .thread else .system) sc o t →
      exec (.ld c sz m a off) s = goes (x.inFlight t (x.target s0 A .read n)
        { id := 0, kind := .load, e := x.e, va := A, size := n, nc := o.acquires, dst := dstOf e.base m
          acq := if o.acquires then some sc else none } o.acquires)) ∧
    (A.toNat % n = 0 → (x.target s0 A .write n).ok → 16 ≤ th.sb.length → exec (.st c sz m a off) s = .next s0) ∧
    (A.toNat % n = 0 → x.target s0 A .write n = .at_ pa nc → th.sb.length < 16 → x.Passes s0 .store .system sc o t →
      exec (.st c sz m a off) s = goes ((t1.useLeaf s.cur.1 (x.th t).ctx A.toNat).modThread s.cur.1 fun n' => { n' with sb := n'.sb ++
        [{ id := t.nextId, e := x.e, va := A, size := n, v := x.s t m, pa := some pa, nc := nc, past := o.releases || nc }] })) ∧
    (A.toNat % n = 0 → x.target s0 A .write n = .walk → th.sb.length < 16 → x.Passes s0 .store .system sc o t →
      exec (.st c sz m a off) s = goes (t1.modThread s.cur.1 fun n' => { n' with sb := n'.sb ++
        [{ id := t.nextId, e := x.e, va := A, size := n, v := x.s t m, past := o.releases }] })) ∧
    (let u := x.flag s0 (flagIf (c.ordering .load (if inSegRegion P.toNat then .thread else .system)).2.2 flMODWARN)
     match x.target u P .read 128 with
     | .fault _ => exec (.pref c wr a off) s = goes u
     | .at_ pa nc => exec (.pref c wr a off) s = goes (if isSegPa pa || nc || u.paKind pa == .gone then u else
        (x.start u (.at_ pa nc) { id := 0, kind := .pref, e := x.e, va := P, v1 := if wr then 1 else 0 }).2)
     | .walk => exec (.pref c wr a off) s = goes
        (x.start u .walk { id := 0, kind := .pref, e := x.e, va := P, v1 := if wr then 1 else 0 }).2)

/-- R205 to R208: AMO, CAS, ENQ and DEQ: natural alignment, the rights of an atomic, the wait for the thread's own overlapping
stores, and the operation left in flight.
R198, R206: an operation put in flight is appended with its address once translated; one that executes at the home slice
first makes the issuing L1 write back the dirty bytes of its line and drop the line. The model caches no leaf whose translation of an access
faults (`dropLeaf`: log 88, DEDUCED). -/
def Obligations.AtomicWords : Prop :=
  (∀ (s : State) (c : Ctl) (e : Entry) (th : Thread) (dbl : Bool) (d a b : SReg) (op : AmoOp) (sc : Scope) (o : Order) (t : State),
    s.CanRun c e th →
    let x := s.ctx c e
    let s0 := s.setThread s.cur.1 th
    let A := th.readS e.base a
    let B := th.readS e.base b
    let dst := dstOf e.base d
    let forms : List (Instr × Nat × MemOp) :=
      [(.amo c dbl d a b op, if dbl then 8 else 4, { id := 0, kind := .amo op, e := x.e, v1 := B, dst := dst }),
       (.cas c dbl d a b, if dbl then 8 else 4, { id := 0, kind := .cas, e := x.e, v1 := B, v2 := th.readS e.base d, dst := dst }),
       (.enq c d a b, 64, { id := 0, kind := .enq, e := x.e, v1 := B, dst := dst }),
       (.deq c d a b, 64, { id := 0, kind := .deq, e := x.e, dst := dst, dst2 := dstOf e.base b })]
    ∀ f ∈ forms,
      (A.toNat % f.2.1 ≠ 0 → exec f.1 s = .next (s0.raise s.cur.1 { fAlign A with pc := e.pc, q := s.cur.2 })) ∧
      (A.toNat % f.2.1 = 0 → ∀ r, x.target s0 A .atomic f.2.1 = .fault r → exec f.1 s =
        .next ((s0.dropLeaf s.cur.1 (x.th s0).ctx A.toNat).raise s.cur.1 { r with pc := e.pc, q := s.cur.2 })) ∧
      (A.toNat % f.2.1 = 0 → (x.target s0 A .atomic f.2.1).ok → (∃ y ∈ th.sb, y.meets (x.target s0 A .atomic f.2.1).pa? A f.2.1 = true) → exec f.1 s = .next s0) ∧
      (A.toNat % f.2.1 = 0 → (x.target s0 A .atomic f.2.1).ok → (∀ y ∈ th.sb, y.meets (x.target s0 A .atomic f.2.1).pa? A f.2.1 = false) → x.Passes s0 .both .system sc o t →
        exec f.1 s = .next (s.issued (x.inFlight t (x.target s0 A .atomic f.2.1)
          { f.2.2 with va := A, size := f.2.1, acq := if o.acquires then some sc else none } o.acquires) c { order := true } e 0)))
  ∧ (∀ (x : Ctx) (s : State) (tg : Target) (o : MemOp) (pa : Nat) (nc : Bool),
    (x.start s tg o).1 = s.nextId ∧
    (let s1 : State := { s with nextId := s.nextId + 1 }
     (x.start s .walk o).2 = s1.modThread x.t fun th =>
      { th with ops := th.ops ++ [{ o with id := s.nextId, e := x.e, q := x.q, since := s.cyc, seg := s.segSeen x.t.st o }] }) ∧
    (((x.start s (.at_ pa nc) o).2).thread x.t).ops = (s.thread x.t).ops ++
      [{ o with id := s.nextId, e := x.e, q := x.q, since := s.cyc, pa := some pa, nc := o.nc || nc, stage := .send, seg := s.segSeen x.t.st { o with pa := some pa } }] ∧
    (o.kind.atHome = true → ∀ l, (s.core x.t.st x.t.co).line? (pa / 128 * 128) = some l → l.mask ≠ 0 →
      ∃ w ∈ ((x.start s (.at_ pa nc) o).2.core x.t.st x.t.co).wbs, w.pa = pa / 128 * 128 ∧
        ∀ k, k < 128 → l.mask.getLsbD k = true → (pa / 128 * 128 + k, BitVec.ofNat 8 (l.data.toNat / 2 ^ (8 * k))) ∈ w.bytes) ∧
    (o.kind.atHome = true → ∀ l ∈ ((x.start s (.at_ pa nc) o).2.core x.t.st x.t.co).lines, l.la ≠ pa / 128 * 128) ∧
    (x.start s tg o).2.mem = s.mem)

/-- R200 to R203: FENCE, XFENCE and CMO issue when what they wait for has come about, and stand at the head of their queue until then: a
releasing fence once its scope is released, an acquiring one once earlier loads are done and the invalidation has run, an XFENCE with the core-store writes landed;
a CMO of no bytes at once, any other once its write-backs are on their way, holding the S queue until they are acknowledged; while its walk waits for a page under migration it stands at the head. A fence of both kinds
goes on to its acquire in the step that ends its release. The stages in which the entry at the head (`keep`) records how far the fence has
come are the model's. -/
def Obligations.FenceWords : Prop :=
  ∀ (s : State) (c : Ctl) (e e' : Entry) (th : Thread) (kind : FenceKind) (sc : Scope) (u v : State) (a b : SReg) (op : CmoOp) (home : Bool),
    s.CanRun c e th →
    let x := s.ctx c e
    let s0 := s.setThread s.cur.1 th
    let goes (t : State) : Outcome State Fault Refusal := .next (s.issued t c {} e 0)
    let n := (th.readS e.base b).toNat
    let keeps (t : State) (k : Entry) : Outcome State Fault Refusal := .next (x.keep t k)
    let acquires := kind = .acq ∧ e.stage < 2 ∨ kind = .acqRel ∧ e.stage = 1
    let quiet (t : State) := (∀ o ∈ (t.thread s.cur.1).ops, e.seq ≤ o.e.seq) ∧ (∀ a ∈ (t.thread s.cur.1).acq, a.q ≠ s.cur.2)
    (e.stage = 0 → x.release s0 x.e sc = (true, e', u) → (u.core s.cur.1.st s.cur.1.co).lost = false →
      exec (.fence c .rel sc) s = goes u ∧ (sc.code ≤ 2 → quiet u → exec (.fence c .acqRel sc) s = goes u) ∧
      (2 < sc.code → quiet u → exec (.fence c .acqRel sc) s = .next ((x.keep u { e' with stage := 2 }).startAcquire s.cur.1 sc s.cur.2)) ∧
      (¬ quiet u → exec (.fence c .acqRel sc) s = keeps u { e' with stage := 1 })) ∧
    (e.stage = 0 → x.release s0 x.e sc = (false, e', u) → exec (.fence c .rel sc) s = keeps u e' ∧ exec (.fence c .acqRel sc) s = keeps u e') ∧
    (e.stage = 2 → (∃ a ∈ th.acq, a.q = s.cur.2) → exec (.fence c kind sc) s = keeps s0 x.e) ∧
    (x.release s0 x.e .station = (false, e', u) ∨ (x.release s0 x.e .station).2 = (e', u) ∧ (u.thread s.cur.1).csLanded e.seq = false →
      exec (.xfence c) s = keeps u e') ∧
    (∀ (t : State) (k : Entry) (r : Entry) (rest : List Entry), ((t.thread s.cur.1).queue s.cur.2).es = r :: rest →
      (((x.keep t k).thread s.cur.1).queue s.cur.2).es = k :: rest ∧ (x.keep t k).mem = t.mem) ∧
    (acquires → sc.code ≤ 2 → quiet s0 → exec (.fence c kind sc) s = goes s0) ∧
    (acquires → ¬ quiet s0 → exec (.fence c kind sc) s = keeps s0 { x.e with stage := 1 }) ∧
    (acquires → 2 < sc.code → quiet s0 → ∃ t e2, exec (.fence c kind sc) s = .next t ∧ (t.thread s.cur.1).acq =
        th.acq ++ [⟨sc, s.cyc + 64 + s.invalCount s.cur.1.st s.cur.1.co sc, s.cur.2⟩] ∧ (t.thread s.cur.1).head s.cur.2 = some e2 ∧
        e2.stage = 2 ∧ e2.pc = e.pc ∧ e2.seq = e.seq) ∧
    (e.stage = 2 → (∀ a ∈ th.acq, a.q ≠ s.cur.2) → exec (.fence c kind sc) s = goes s0) ∧
    (x.release s0 x.e .station = (true, e', u) → (u.thread s.cur.1).csLanded e.seq = true → (u.core s.cur.1.st s.cur.1.co).lost = false →
      exec (.xfence c) s = goes u) ∧
    (n ≠ 0 → s0.cmoPages s.cur.1 th.ctx th.priv op home ((th.readS e.base a).toNat + n) (pagesOf (th.readS e.base a).toNat n) = (some fWait, v) →
      exec (.cmo c a b op home) s = .next v) ∧
    (n = 0 → exec (.cmo c a b op home) s = goes s0) ∧
    (n ≠ 0 → s0.cmoPages s.cur.1 th.ctx th.priv op home ((th.readS e.base a).toNat + n) (pagesOf (th.readS e.base a).toNat n) = (none, v) →
      ∃ t, exec (.cmo c a b op home) s = .next t ∧ ((t.thread s.cur.1).queue s.cur.2).blk = some v.nextId ∧
        ∃ k ∈ (t.thread s.cur.1).ops, k.id = v.nextId ∧ k.kind = .cmo ∧ k.stage = .away ∧
          k.wait = v.wbIds.filter (fun i => !s0.wbIds.contains i) ∧
          k.since = v.cyc + (((th.readS e.base a).toNat + n - 1) / 128 - (th.readS e.base a).toNat / 128 + 1) + if home then 256 else 0)

/-! Barriers, rows of a slate, timetable, telemetry. -/

/-- R209, R211, R212: BINIT, BARV and BEXP: the format fault of an empty BINIT, the slot's bound, the rights of an atomic, and the
update left in flight with the S queue held; each waits behind the thread's own buffered stores to the object, and BARV and BEXP release at their scope, MODULE for an object of this
module and DOMAIN otherwise (R238). The model caches no leaf whose translation of an access faults (`dropLeaf`: log 88, DEDUCED). -/
def Obligations.BarrierWords : Prop :=
  ∀ (s : State) (c : Ctl) (e : Entry) (th : Thread) (a b : SReg), s.CanRun c e th →
    let x := s.ctx c e
    let s0 := s.setThread s.cur.1 th
    let A := th.readS e.base a
    let B := th.readS e.base b
    let va := BitVec.ofNat 64 (A.toNat / 16 * 16)
    let tg := x.target s0 va .atomic 16
    let fs := c.fixedScope (match tg with
      | .at_ pa _ => if paModule pa = s.modnum then .modul else .domain
      | _ => .unset) .system
    let stops (f : FRec) : Outcome State Fault Refusal := .next (s0.raise s.cur.1 { f with pc := e.pc, q := s.cur.2 })
    let op (k : OpKind) (r : Option Rel) : MemOp :=
      { id := 0, kind := k, e := x.e, va := va, size := 16, v1 := B, slot := A.toNat % 16, rel := r }
    let runs (i : Instr) (o : MemOp) : Prop :=
      (th.barriers ≤ A.toNat % 16 → exec i s = stops (fOver 3)) ∧
      (A.toNat % 16 < th.barriers → ∀ f, tg = .fault f → exec i s =
        .next ((s0.dropLeaf s.cur.1 (x.th s0).ctx va.toNat).raise s.cur.1 { f with pc := e.pc, q := s.cur.2 })) ∧
      (A.toNat % 16 < th.barriers → tg.ok → (∃ b ∈ (x.th s0).sb, b.meets tg.pa? va 16 = true) → exec i s = .next s0) ∧
      (A.toNat % 16 < th.barriers → tg.ok → (∀ b ∈ (x.th s0).sb, b.meets tg.pa? va 16 = false) → exec i s =
        .next (s.issued (x.inFlight (x.flag s0 (flagIf fs.2 flMODWARN)) tg o true) c { order := true } e 0))
    let none_ := B.toNat % 2 ^ 16 = 0 ∧ B.toNat / 2 ^ 32 = 0
    (none_ → exec (.binit c a b) s = stops fFormat) ∧ (¬ none_ → runs (.binit c a b) (op .binit none)) ∧
    runs (.barv c a b) (op .barv (some { scope := fs.1 })) ∧ runs (.bexp c a b) (op .bexp (some { scope := fs.1 }))

/-- R210 to R212, R315: BWAIT reads the object at its home slice: it issues, records the phase and starts its acquire when the phase
differs from the slot's or a flip was replayed from the mailbox; otherwise it stands at the head of its queue, unissued; a slot with another address is bound and the word waits. That the word walks the
page table within its step is log 28 (DEDUCED).
R209, R210, R212: what one update does to a barrier object: an arrival, more expected, and the flip when both counts are met,
with OVER where a count ran over or was passed. -/
def Obligations.BarrierWait : Prop :=
  (∀ (s u : State) (c : Ctl) (e : Entry) (th : Thread) (a : SReg) (pa : Nat) (nc : Bool), s.CanRun c e th →
    let x := s.ctx c e
    let s0 := s.setThread s.cur.1 th
    let v := if e.latched then e.latch.getD 0 0 else th.readS e.base a
    let n := v.toNat % 16
    let va := BitVec.ofNat 64 (v.toNat / 16 * 16)
    let sl := th.bslot n
    let stays := x.keep u (x.latched [th.readS e.base a])
    let fs := c.fixedScope (if paModule pa = u.modnum then .modul else .domain) .system
    let goes (ph : Nat) : Outcome State Fault Refusal := .next (s.issued ((x.flag ((u.modThread s.cur.1 fun w =>
      w.setBslot n { sl with phase := ph, flipped := none }).modThread s.cur.1 fun w => w.observe fun q => q.ws.any (·.isProg pa))
        (flagIf fs.2 flMODWARN)).startAcquire s.cur.1 fs.1 s.cur.2) c { order := true } e 0)
    (th.barriers ≤ n → exec (.bwait c a) s = .next (s0.raise s.cur.1 { fOver 3 with pc := e.pc, q := s.cur.2 })) ∧
    (n < th.barriers → s0.walkWaits s.cur.1 th.ctx va.toNat = false → s0.targetFill s.cur.1 th.ctx th.priv va .atomic 16 = (.at_ pa nc, u) →
      (∀ ph, sl.bound = true → sl.addr = va.toNat → sl.flipped = some ph → exec (.bwait c a) s = goes ph) ∧
      (sl.bound = true → sl.addr = va.toNat → sl.flipped = none → (u.bobj pa).phase ≠ sl.phase →
        exec (.bwait c a) s = goes (u.bobj pa).phase) ∧
      (sl.bound = true → sl.addr = va.toNat → sl.flipped = none → (u.bobj pa).phase = sl.phase → exec (.bwait c a) s = .next stays) ∧
      (sl.bound = false ∨ sl.addr ≠ va.toNat → exec (.bwait c a) s = .next (stays.modThread s.cur.1 fun w =>
        w.setBslot n { bound := true, addr := va.toNat, phase := (u.bobj pa).phase }))) ∧
    (n < th.barriers → s0.walkWaits s.cur.1 th.ctx va.toNat = true → exec (.bwait c a) s = .next (x.keep s0 (x.latched [th.readS e.base a]))) ∧
    ((u.thread s.cur.1).head s.cur.2 ≠ none → (stays.thread s.cur.1).head s.cur.2 = some (x.latched [th.readS e.base a]) ∧ stays.mem = u.mem))
  ∧ (∀ (b : BObj) (n m : Nat) (v : Word), b.phase < 2 ^ 16 →
    let q := b.arrive n m
    q.arrived = min (b.arrived + n) 0xFFFF ∧ q.rbytes = min (b.rbytes + m) 0xFFFFFFFF ∧ q.expect = b.expect ∧ q.xbytes = b.xbytes ∧
    q.phase = b.phase ∧ (q.ovf = true ↔ b.ovf = true ∨ 0xFFFF < b.arrived + n ∨ 0xFFFFFFFF < b.rbytes + m) ∧
    (b.expect ≤ b.arrived → b.xbytes ≤ b.rbytes → (b.flip).2 = true ∧ (b.flip).1.arrived = 0 ∧ (b.flip).1.rbytes = 0 ∧
      (b.flip).1.phase = (if b.phase = 0xFFFF then 0 else b.phase + 1) ∧ (b.flip).1.expect = b.expect ∧ (b.flip).1.xbytes = b.xbytes ∧
      ((b.flip).1.ovf = true ↔ b.ovf = true ∨ b.expect < b.arrived ∨ b.xbytes < b.rbytes)) ∧
    (b.arrived < b.expect ∨ b.rbytes < b.xbytes → b.flip = (b, false)) ∧
    (b.expectMore v).xbytes = min (b.xbytes + v.toNat / 2 ^ 32) 0xFFFFFFFF ∧
    ((b.expectMore v).expect : Int) = min (max ((b.expect : Int) + (v.setWidth 16).toInt) 0) 0xFFFF ∧
    ((BObj.init v).phase = 0 ∧ (BObj.init v).expect = v.toNat % 2 ^ 16 ∧
      (BObj.init v).arrived = 0 ∧ (BObj.init v).ovf = false ∧ (BObj.init v).xbytes = v.toNat / 2 ^ 32 ∧ (BObj.init v).rbytes = 0))

/-- R303, R305: ACCEPT and COMMIT on a live row release and then update its sequence block; a row out of range is a format fault;
a dead row or one without a sequence changes nothing. COMMIT stands at the head of its queue until the C words before it are done. TTARM
writes the image's entry, after its checks: ARM, TCTX and the rest of its last doubleword too, FIRED cleared by a 1, SLIP by a 0; its queue
issues again four thread cycles later. A new arming may raise its one request: the model keeps that mark beside the block (log 58).
R307: TELM appends its record at TLHEAD and moves it on, or is dropped and counted. -/
def Obligations.RowWords : Prop :=
  (∀ (s : State) (c : Ctl) (e : Entry) (th : Thread) (a b : SReg) (w : Row), s.CanRun c e th →
    let x := s.ctx c e
    let s0 := s.setThread s.cur.1 th
    let A := th.readS e.base a
    let B := th.readS e.base b
    let v := if e.latched then e.latch.getD 0 0 else A
    let stops (f : FRec) : Outcome State Fault Refusal := .next (s0.raise s.cur.1 { f with pc := e.pc, q := s.cur.2 })
    let goes (u : State) : Outcome State Fault Refusal := .next (s.issued u c { order := true } e 0)
    let fs := c.fixedScope .station .system
    let upd (pa f : Nat) (commit : Bool) : State := x.inFlight (x.flag s0 (flagIf fs.2 flMODWARN)) (.at_ (pa + 8) true)
      { id := 0, kind := .row commit, e := x.e, v1 := BitVec.ofNat 64 f, rel := some { scope := fs.1 } } true
    (th.rows ≤ A.toNat % 64 → exec (.accept c a b) s = stops fFormat) ∧
    (A.toNat % 64 < th.rows → s0.rowBlock s.cur.1 (A.toNat % 64) = none ∨ th.rowLive (A.toNat % 64) = false →
      exec (.accept c a b) s = goes s0) ∧
    (A.toNat % 64 < th.rows → s0.rowBlock s.cur.1 (A.toNat % 64) = some w → th.rowLive (A.toNat % 64) = true →
      exec (.accept c a b) s = goes (upd w.pa (B.toNat % 64) false)) ∧
    (th.rows ≤ v.toNat % 64 → exec (.commit c a) s = stops fFormat) ∧
    (v.toNat % 64 < th.rows → s0.rowBlock s.cur.1 (v.toNat % 64) = none ∨ th.rowLive (v.toNat % 64) = false →
      exec (.commit c a) s = goes s0) ∧
    (v.toNat % 64 < th.rows → s0.rowBlock s.cur.1 (v.toNat % 64) = some w → th.rowLive (v.toNat % 64) = true →
      s0.copiesDone s.cur.1 e.seq = true →
      exec (.commit c a) s = goes (upd w.pa (if v.getLsbD 22 then v.toNat / 2 ^ 16 % 64 else 0xFFFF) true)) ∧
    (let o := B.toNat
     let bad (f : FRec) : Prop := exec (.ttarm c a b) s = stops f
     let k := A.toNat / 8 % 8
     let n := A.toNat % 8
     let d (i : Nat) : Word := BitVec.ofNat 64 (s0.csReadQ s.cur.1 s.cur.2 (o + 8 * i) 8)
     (th.priv = .user → bad fPriv) ∧ (th.priv ≠ .user → o % 32 ≠ 0 → bad (fAlign B)) ∧
     (th.priv ≠ .user → o % 32 = 0 → th.csBytes < o + 32 → bad (fOver 2)) ∧
     (th.priv ≠ .user → o % 32 = 0 → o + 32 ≤ th.csBytes → ∃ u, exec (.ttarm c a b) s = .next (s.issued u c {} e 3) ∧
       u.threads = s0.threads ∧ u.cores = s.cores ∧ u.mem = s.mem ∧
       u.cb s.cur.1.st (ttOff k n) = d 0 ∧ u.cb s.cur.1.st (ttOff k n + 8) = d 1 ∧ u.cb s.cur.1.st (ttOff k n + 0x10) = d 2 ∧
       u.cb s.cur.1.st (ttOff k n + 0x18) = BitVec.ofNat 64 ((d 3).toNat % 4 + (d 3).toNat / 16 % 32 * 16 +
         ((s.cb s.cur.1.st (ttOff k n + 0x18)).getLsbD 9 && !(d 3).getLsbD 9).toNat * 512 +
         ((s.cb s.cur.1.st (ttOff k n + 0x18)).getLsbD 10 && (d 3).getLsbD 10).toNat * 1024) ∧
       (∀ i, i ≠ ttOff k n → i ≠ ttOff k n + 8 → i ≠ ttOff k n + 0x10 → i ≠ ttOff k n + 0x18 → i ≠ 0x10000 + ttOff k n →
         u.cb s.cur.1.st i = s.cb s.cur.1.st i))) ∧
    (v.toNat % 64 < th.rows → s0.rowBlock s.cur.1 (v.toNat % 64) = some w → th.rowLive (v.toNat % 64) = true →
      s0.copiesDone s.cur.1 e.seq = false → exec (.commit c a) s = .next (x.keep s0 (x.latched [A]))) ∧
    (s0.copiesDone s.cur.1 e.seq = true ↔ (∀ k ∈ th.qc.es, e.seq ≤ k.seq) ∧
      ∀ k ∈ (s.station s.cur.1.st).copies, k.t = s.cur.1 → e.seq ≤ k.e.seq))
  ∧ (∀ (s : State) (c : Ctl) (e : Entry) (th : Thread) (a b : SReg), s.CanRun c e th →
    let s0 := s.setThread s.cur.1 th
    let st := s.cur.1.st
    let size := (s.cb st 0x1408).toNat % 2 ^ 21
    let head := (s.cb st 0x1410).toNat % 2 ^ 21
    let rate := (s.cb st 0x1418).toNat % 2 ^ 16
    let drop := size = 0 ∨ th.priv = .user ∧ rate ≤ (s.station st).telmCount th.ctx s.cyc
    (drop → exec (.telm c a b) s = .next (s.issued (s0.setCb st 0x1420 (s.cb st 0x1420 + 1)) c {} e 0)) ∧
    (¬ drop → ∃ t u, exec (.telm c a b) s = .next t ∧
      u = s0.homePut (s.pa st ((s.cb st 0x1400).toNat % 2 ^ 35 + 32 * head))
        (leBytes 8 s.cyc ++ leBytes 8 (if th.kind = .handler then 0 else (th.creg 0x01A).toNat) ++ leBytes 8 (th.readS e.base b).toNat
          ++ leBytes 2 ((th.readS e.base a).toNat % 2 ^ 16) ++ [BitVec.ofNat 8 th.ctx, BitVec.ofNat 8 (match th.priv with
            | .user => 0 | .supervisor => 1 | .firmware => 2)] ++ List.replicate 4 0) ∧
      t.mem = u.mem ∧ t.cb st 0x1410 = BitVec.ofNat 64 (if size ≤ head + 1 then 0 else head + 1) ∧
      (t.station st).telmCount th.ctx s.cyc = (s.station st).telmCount th.ctx s.cyc + 1))

/-! Frozen-state words, SQTRAP, HALTX. -/

/-- R327: the check that every word with a capability makes as it issues, and R48, R356: the privilege fault and the capability
fault of each frozen-state word, by the kinds and the right it needs; the word has no other effect. -/
def Obligations.CapabilityCheck : Prop :=
  ∀ (s : State) (c : Ctl) (e : Entry) (th : Thread) (d a b : SReg) (cls : Fin 16) (i : Nat) (en : CapE), s.CanRun c e th →
    let s0 := s.setThread s.cur.1 th
    let h := th.readS e.base a
    let forms : List (Instr × List Nat × Nat) := [(.frzinfo c d a, [1, 2], 0), (.frzrd c d a cls, [1], 0), (.frzwr c a b cls, [1], 1),
      (.frzld c d a b, [1, 2], 0), (.frzst c d a b, [1, 2], 1), (.frzarv c a b, [1], 1), (.frzres c a b, [1, 2], 2), (.frzkil c a, [1, 2], 3)]
    let stops (f : FRec) : Outcome State Fault Refusal := .next (s0.raise s.cur.1 { f with pc := e.pc, q := s.cur.2 })
    ∀ f ∈ forms,
      (th.priv = .user → exec f.1 s = stops fPriv) ∧
      (th.priv ≠ .user → s0.capCheck s.cur.1 h f.2.1 f.2.2 = none → exec f.1 s = stops fCap) ∧
      (s0.capCheck s.cur.1 h f.2.1 f.2.2 = some (i, en) ↔
        i = h.toNat % 2 ^ 12 ∧ en = Tab.get (s.station s.cur.1.st).caps i ∧
        h.toNat / 2 ^ 52 % 64 = s.cur.1.st ∧ h.toNat / 2 ^ 12 % 2 ^ 20 = 0 ∧ en.valid = true ∧ h.toNat / 2 ^ 32 % 2 ^ 20 = en.gen ∧
        h.toNat / 2 ^ 62 = en.kind ∧ en.kind ∈ f.2.1 ∧ th.ctx = en.hctx ∧ th.priv ≠ .user ∧
        h.getLsbD (58 + f.2.2) = true ∧ en.rights / 2 ^ f.2.2 % 2 = 1)

/-- R356 to R362: what each frozen-state word does once its capability is good. Each holds the S queue until its operation is
complete; a translation that fails is no fault of the issuer: ASTAT records it and FRZLD writes 0. FRZRES and FRZKIL use the
capability up. While its walk waits for a page under migration a word stands at the head of its queue.
R358: the elements that FRZRD reads and FRZWR writes, by class; R345: what a sequence's resume and kill write; R362: what a kill leaves of
a thread and of the barriers it is a member of. The model translates a member barrier's address by a walk within the step (log 28). -/
def Obligations.FrozenWords : Prop :=
  (∀ (s u : State) (c : Ctl) (e : Entry) (th : Thread) (d a b : SReg) (cls : Fin 16) (i : Nat) (en : CapE) (v : Word) (pa : Nat)
    (nc : Bool) (f : FRec), s.CanRun c e th → th.priv ≠ .user →
    let x := s.ctx c e
    let s0 := s.setThread s.cur.1 th
    let h := th.readS e.base a
    let B := th.readS e.base b
    let can (kinds : List Nat) (right : Nat) : Prop := s0.capCheck s.cur.1 h kinds right = some (i, en)
    let stops (f : FRec) : Outcome State Fault Refusal := .next (s0.raise s.cur.1 { f with pc := e.pc, q := s.cur.2 })
    let goes (t : State) (o : MemOp) (order : Bool) : Outcome State Fault Refusal :=
      .next (s.issued (x.inFlight t .walk o true) c { order := order } e 0)
    let ends (res : Word) (dst : Nat) : MemOp := { id := 0, kind := .frz, e := x.e, stage := .done, res := res, dst := dst }
    let dst := dstOf e.base d
    let astat (t : State) (n : Nat) : State := t.setAstat s.cur.1.st i n
    (can [1, 2] 0 → exec (.frzinfo c d a) s = goes s0 (ends (s0.frzInfo en) dst) false) ∧
    (can [1] 0 → s0.frzElem en.target cls.val (th.readS e.base d) = .ok v → exec (.frzrd c d a cls) s = goes s0 (ends v dst) false) ∧
    (can [1] 0 → s0.frzElem en.target cls.val (th.readS e.base d) = .error f → exec (.frzrd c d a cls) s = stops f) ∧
    (can [1] 1 → b.val % 2 = 1 ∨ b.val = 0 → exec (.frzwr c a b cls) s = stops fFormat) ∧
    (can [1] 1 → b.val % 2 = 0 → ∀ b1 : SReg, 0 < b.val → b1.val = b.val + 1 →
      (s0.frzPut en.target cls.val B (th.readS e.base b1) = .ok u → exec (.frzwr c a b cls) s = goes u (ends 0 64) false) ∧
      (s0.frzPut en.target cls.val B (th.readS e.base b1) = .error f → exec (.frzwr c a b cls) s = stops f)) ∧
    (B.toNat % 8 ≠ 0 → (can [1, 2] 0 → exec (.frzld c d a b) s = stops (fAlign B)) ∧
      (can [1, 2] 1 → exec (.frzst c d a b) s = stops (fAlign B))) ∧
    (B.toNat % 8 = 0 → can [1, 2] 0 → s0.capTarget s.cur.1 en B .read = (.at_ pa nc, u) → exec (.frzld c d a b) s =
      goes (astat u 0) { id := 0, kind := .frzld, e := x.e, va := B, pa := some pa, nc := nc || en.kind == 2, dst := dst, v2 := BitVec.ofNat 64 i, stage := .send, for_ := if en.kind = 1 then some en.target else none } false) ∧
    (B.toNat % 8 = 0 → can [1, 2] 0 → s0.capTarget s.cur.1 en B .read = (.fault f, u) → exec (.frzld c d a b) s =
      goes (astat u f.sub) (ends 0 dst) false) ∧
    (B.toNat % 8 = 0 → can [1, 2] 1 → en.kind = 2 → s0.capTarget s.cur.1 en B .write = (.at_ pa nc, u) → exec (.frzst c d a b) s =
      goes (astat u 0) { id := 0, kind := .frzst, e := x.e, va := B, pa := some pa, v1 := x.s u d, v2 := BitVec.ofNat 64 i, stage := .send } false) ∧
    (B.toNat % 8 = 0 → can [1, 2] 1 → en.kind = 1 → s0.capTarget s.cur.1 en B .write = (.at_ pa nc, u) → ∃ t, exec (.frzst c d a b) s =
        goes t { id := 0, kind := .frzst, e := x.e, va := B, stage := .away, wait := [u.nextId], for_ := some en.target } false ∧
      (t.thread en.target).sb = (u.thread en.target).sb ++
        [{ id := u.nextId, e := {}, va := B, size := 8, v := x.s u d, pa := some pa, nc := nc, past := nc }]) ∧
    (B.toNat % 8 = 0 → can [1, 2] 1 → s0.capTarget s.cur.1 en B .write = (.fault f, u) → exec (.frzst c d a b) s =
      goes (astat u f.sub) (ends 0 64) false) ∧
    (let ft := s0.thread en.target
     let va := BitVec.ofNat 64 (B.toNat / 16 * 16)
     let fs := c.fixedScope (if paModule pa = u.modnum then .modul else .domain) .system
     (can [1] 1 → ft.barriers ≤ B.toNat % 16 → exec (.frzarv c a b) s = stops fFormat) ∧
     (can [1] 1 → B.toNat % 16 < ft.barriers → s0.walkWaits en.target ft.ctx va.toNat = true → exec (.frzarv c a b) s = .next s0) ∧
     (can [1] 1 → B.toNat % 16 < ft.barriers → s0.walkWaits en.target ft.ctx va.toNat = false →
       (s0.targetFill en.target ft.ctx ft.priv va .atomic 16 = (.at_ pa nc, u) → exec (.frzarv c a b) s =
         goes (astat (x.flag u (flagIf fs.2 flMODWARN)) 0) { id := 0, kind := .frzarv, e := x.e, va := va, size := 16, pa := some pa, slot := B.toNat % 16, v2 := BitVec.ofNat 64 i, rel := some { scope := fs.1 }, stage := .send, for_ := some en.target } true) ∧
       (s0.targetFill en.target ft.ctx ft.priv va .atomic 16 = (.fault f, u) → exec (.frzarv c a b) s = goes (astat u f.sub) (ends 0 64) true))) ∧
    (can [1, 2] 2 → en.kind = 2 → exec (.frzres c a b) s = goes ((s0.capInvalid s.cur.1.st i).seqResume en) (ends 0 64) false) ∧
    (can [1, 2] 2 → en.kind ≠ 2 → exec (.frzres c a b) s = goes (s0.capInvalid s.cur.1.st i)
      { id := 0, kind := .frzres, e := x.e, v1 := x.s (s0.capInvalid s.cur.1.st i) b, rel := some { scope := .system }, stage := .send, for_ := some en.target } false) ∧
    (can [1, 2] 3 → en.kind = 2 → exec (.frzkil c a) s = goes ((s0.capInvalid s.cur.1.st i).seqKill en) (ends 0 64) false) ∧
    (can [1, 2] 3 → en.kind ≠ 2 → exec (.frzkil c a) s = goes ((s0.capInvalid s.cur.1.st i).killThread en.target)
      { id := 0, kind := .frzkil, e := x.e, stage := .away, for_ := some en.target } false))
  ∧ (∀ (s : State) (t : Tid) (i v : Word) (cls : Nat),
    let th := s.thread t
    let I := i.toNat
    let w := th.window
    let lands (ws : List RegW) : Except FRec State := .ok ((s.landWrites t ws).landTbskew ws)
    s.frzElem t 0 i = .ok (th.readS th.rrb (Fin.ofNat 32 (I % 32))) ∧ s.frzElem t 1 i = .ok (BitVec.ofNat 64 (th.pred th.rrb)) ∧
    s.frzElem t 2 i = (match CReg.ofNumber (I % 1024) with
      | some r => .ok (s.getc th th.rrb r)
      | none => .error fFormat) ∧
    s.frzElem t 3 i = .ok ((Cells.get th.k (I % 4)).zeroExtend 64) ∧ s.frzElem t 4 i = .ok (Cells.get th.l (I % 4)) ∧
    s.frzElem t 5 i = (if th.planes ≤ I / 4096 % 8 then .error fFormat else .ok ((Cells.get th.z (I % 32768)).zeroExtend 64)) ∧
    s.frzElem t 6 i = .ok (Cells.get th.g (I % 128)) ∧
    (∃ x, s.frzElem t 7 i = .ok x ∧ ∀ k, k < 8 → x.toNat / 16 ^ k % 16 = (th.tokens k).length % 16) ∧
    s.frzElem t 8 i = (if w.2 ≤ I % 2048 then .error fFormat
      else .ok ((Cells.get (s.core t.st t.co).acc (256 * (w.1 + I % 2048) + I / 2048 % 256)).zeroExtend 64)) ∧
    s.frzElem t 9 i = .ok th.firstWord ∧
    s.frzElem t 10 i = (if I % 8 ≠ 0 ∨ th.csBytes < I + 8 then .error fFormat
      else .ok (BitVec.ofNat 64 (Memory.readN (s.core t.st t.co).cs (th.csBase + I) 8))) ∧
    (10 < cls → s.frzElem t cls i = .error fFormat ∧ s.frzPut t cls i v = .error fFormat) ∧ s.frzPut t 9 i v = .error fFormat ∧
    s.frzPut t 0 i v = lands (wrS th.rrb (Fin.ofNat 32 (I % 32)) v) ∧
    s.frzPut t 1 i v = lands ((List.range 7).map fun k => .p (physP th.rrb (k + 1)) (v.getLsbD (k + 1))) ∧
    (CReg.ofNumber (I % 1024) = none → s.frzPut t 2 i v = .error fFormat) ∧
    (CReg.ofNumber (I % 1024) = some .bud → s.frzPut t 2 i v = .ok (s.setThread t (th.setCreg 0x009 (BitVec.ofNat 64 (v.toNat % 2 ^ 32))))) ∧
    (∀ r, CReg.ofNumber (I % 1024) = some r → r ≠ .bud → s.frzPut t 2 i v =
      lands (setcWrites th.rrb r v ++ if r = .rm ∧ (v.toNat % 8 = 0 ∨ 5 < v.toNat % 8) then [.flags flMODWARN] else [])) ∧
    s.frzPut t 3 i v = lands [.k (I % 4) (v.truncate 6)] ∧ s.frzPut t 4 i v = lands [.l (I % 4) v] ∧
    s.frzPut t 5 i v = (if th.planes ≤ I / 4096 % 8 then .error fFormat else lands [.z (I % 32768) (v.truncate 32)]) ∧
    (∃ u, s.frzPut t 6 i v = .ok (s.setThread t u) ∧ Tab.get u.pins (I / 8 % 16) = none ∧
      u.g = Cells.setAll th.g ((List.range 8).map (8 * (I / 8 % 16) + ·) |>.zip (cleanRecord ((th.stream (I / 8 % 16)).set (I % 8) v)).1)) ∧
    (∃ u, s.frzPut t 7 i v = .ok (s.setThread t u) ∧ ∀ k, k < 8 → (u.tokens k).length = v.toNat / 16 ^ k % 16 ∧
      (u.tokens k).take (th.tokens k).length = (th.tokens k).take (v.toNat / 16 ^ k % 16)) ∧
    s.frzPut t 8 i v = (if w.2 ≤ I % 2048 then .error fFormat
      else .ok (s.modCore t.st t.co fun k =>
        { k with acc := Cells.set k.acc (256 * (w.1 + I % 2048) + I / 2048 % 256) (v.truncate 32), accOwner := Tab.set k.accOwner (w.1 + I % 2048) (some th.ctx) })) ∧
    s.frzPut t 10 i v = (if I % 8 ≠ 0 ∨ th.csBytes < I + 8 then .error fFormat else lands (th.csPut I (leBytes 8 v.toNat))))
  ∧ (∀ (s : State) (en : CapE) (t : Tid) (b : BSlot) (pa : Nat) (nc : Bool) (o : BObj) (now : Bool),
    let th := s.thread t
    let fl := s.homeN (en.blk + 0x0D) 1
    let T := s.homeN (en.blk + 0x200) 8
    let u := s.killThread t
    (s.seqResume en = (s.homePutN (en.blk + 0x0D) 1 (fl % 16 + fl / 32 * 32 ||| 8)).homePutN (en.blk + 0x38) 8
      (T / 2 ^ 40 % 2 ^ 24 * 2 ^ 40 + (T % 2 ^ 24 + 1) % 2 ^ 24)) ∧
    (s.seqKill en = s.homePutN (en.blk + 0x0D) 1 (fl / 2 % 8 * 2 + fl / 32 * 32)) ∧
    (u.thread t).status = .frozen ∧ (u.thread t).drain = some .killed ∧ (u.thread t).slots = [] ∧ (u.thread t).spl.stop = .done ∧
    (∀ q, (u.thread t).queue q = {}) ∧ u.mem = (th.slots.foldl (fun s b => s.unbindSlot t b.2) s).mem ∧
    (b.bound = false ∨ b.member = false → s.unbindSlot t b = s) ∧
    (b.bound = true → b.member = true → s.xlateFull t th.ctx th.priv b.addr .atomic = .pa pa nc →
      s.unbindSlot t b = s.updateBar pa fun o => o.remove (b.arrived && b.arrPhase == o.phase)) ∧
    (o.remove now).expect = o.expect - 1 ∧ (o.remove now).arrived = o.arrived - now.toNat ∧ (o.remove now).phase = o.phase ∧
    (o.remove now).xbytes = o.xbytes ∧ (o.remove now).rbytes = o.rbytes)

/-- R363, R366: SQTRAP waits for every earlier word and for the thread's tap words, faults on a row out of range, has no effect on
a dead row, else performs the trap steps with cause 0x11; HALTX raises the halt line of the context that S[a] names: the model stops
every thread in the same step (log 71, DEDUCED; R367 allows 64 cycles).
R341 to R345: the trap steps of a row that no skip has taken: TRAPPED is set, the row leaves L0 for good (what lands in L0 later is
masked by it) and is complete for its own job; a duplicate is counted; else the snapshot record is written and a handler asked for; the
sequence is removed from its other jobs of the layer. -/
def Obligations.SequenceTrapAndHalt : Prop :=
  (∀ (s : State) (c : Ctl) (e : Entry) (th : Thread) (a : SReg) (code : Fin 512), s.CanRun c e th →
    let x := s.ctx c e
    let s0 := s.setThread s.cur.1 th
    let A := (th.readS e.base a).toNat
    let r := A % 64
    let stops (f : FRec) : Outcome State Fault Refusal := .next (s0.raise s.cur.1 { f with pc := e.pc, q := s.cur.2 })
    let goes (t : State) : Outcome State Fault Refusal := .next (s.issued t c {} e 0)
    let early := (∃ y ∈ th.entries, y.seq < e.seq) ∨ ∃ k ∈ (s.core s.cur.1.st s.cur.1.co).xs, k.t = s.cur.1
    let dead := th.rowLive r = false ∨ s0.rowBlock s.cur.1 r = none
    let s1 := x.issues s0
    let u := (s1.trapRow s.cur.1 r { slot := 0xFF, cross := 0, nres := 0, scores := [] } 0x11 0 code.val).2
    (early → exec (.sqtrap c a code) s = .next s0) ∧ (¬ early → th.rows ≤ r → exec (.sqtrap c a code) s = stops fFormat) ∧
    (¬ early → r < th.rows → dead → exec (.sqtrap c a code) s = goes s0) ∧
    (¬ early → r < th.rows → ¬ dead → exec (.sqtrap c a code) s = .next u) ∧ s1 = s.issued s0 c {} e 0 ∧
    (th.priv = .user → exec (.haltx c a) s = stops fPriv) ∧
    (th.priv ≠ .user → exec (.haltx c a) s = .next (s1.haltCtx s.cur.1.st (A % 16) 5)) ∧
    (th.priv ≠ .user → s1.halted s.cur.1.st (A % 16) = false → ∀ t ∈ s1.ctxThreads s.cur.1.st (A % 16),
      ((s1.haltCtx s.cur.1.st (A % 16) 5).thread t).status = .stopped) ∧
    (s1.haltCtx s.cur.1.st (A % 16) 5).halted s.cur.1.st (A % 16) = true)
  ∧ (∀ (s : State) (t : Tid) (r : Nat) (snap : Snap) (cause sub code : Nat) (w : Row), s.rowBlock t r = some w →
    let th := s.thread t
    let c := th.ctx
    let fl := s.homeN (w.pa + 0x0D) 1
    let gone := th.trapped ||| BitVec.ofNat 64 (2 ^ r)
    let s1 := (s.homePutN (w.pa + 0x0D) 1 (fl ||| 16)).modThread t fun th =>
      { th with trapped := gone, l := Cells.set th.l 0 (Cells.get th.l 0 &&& ~~~ gone) }
    let s2 := s1.modJob t.st th.job fun j => { j with rows := j.rows.mapIdx fun i w => if i = r then { w with complete := true } else w }
    let dup := tbit fl 4 || (s2.station t.st).seqCap c w.va
    let o := 0x2810 + 0x20 * c
    let snapped := [(0x200, 8, (th.creg 0x018).toNat), (0x208, 8, snap.cross), (0x210, 8, s2.cyc), (0x218, 8, (th.creg 0x01A).toNat),
      (0x228, 4, snap.nres), (0x22C, 4, snap.slot + r * 256)].foldl (fun s (x : Nat × Nat × Nat) => s.homePutN (w.pa + x.1) x.2.1 x.2.2) s2
    let scored := snap.scores.foldl (fun s x => s.homePutN (w.pa + 0x240 + 4 * x.1) 4 x.2.toNat) snapped
    let f : FRec := { cause := cause, sub := sub, code := code }
    let asks := scored.requestHandler t.st t.co c { kind := 2, rights := 15, target := t, blk := w.pa, blkVa := w.va, blkCtx := c, row := r,
                                                     hctx := scored.hctx t.st c, info := f }
      (faultRecord f (th.creg 0x01A) (th.creg 0x018) scored.cyc c t.st t.co r)
    let counts := s2.setCb t.st o (wset (s2.cb t.st o) 0 32 (s2.cbBits t.st o 0 32 + 1))
    (w.skipped = true → w.byTrap = false → s.trapRow t r snap cause sub code = (false, s)) ∧
    (w.skipped = false ∨ w.byTrap = true → s.trapRow t r snap cause sub code =
      (!dup, (if dup = true then counts else asks).removeSeq t.st c w.va (th.creg 0x018) (some th.job))))
  ∧ (∀ (th : Thread) (r : Nat) (v : Word), r < 64 → (th.trapped.getLsbD r = true ∨ th.removed.getLsbD r = true) →
    ((th.land (.l 0 v)).rowLive r) = false)

/-! Vector words. `x.line`, `x.lanes` are the elements that a plane operand selects and their bits (R95, R105 to R108), `x.mask` the
lane mask (R36, R111), `x.eachLane` the writing of the enabled lanes. -/

/-- R105 to R107, R95: the elements of a line in each direction, from the plane's physical number and the cursor's value.
R29, R75, R109, R111, R342: the writes of a lane-wise word: each enabled lane of a row that no trap has taken, and the union of
the enabled lanes' flags; nothing else of the state changes as it issues.
R108: a word that names a plane at or beyond the declared ones takes an overreach fault and changes nothing else. -/
def Obligations.PlaneLines : Prop :=
  (∀ (th : Thread) (base pass : Nat) (o : PlaneOp) (i : Nat), i < 64 →
    let k := th.cursor pass o.k
    let K := (Cells.get th.k o.k.val).toNat
    let rc : Nat × Nat := match o.dir with
      | .row => (k, i) | .col => (i, k) | .diag => (i, (i + k) % 64) | .anti => (i, (k + 64 - i) % 64)
    (th.line base pass o).length = 64 ∧
    (th.line base pass o)[i]? = some (4096 * physZ base o.z.val + 64 * rc.1 + rc.2) ∧ k < 64 ∧
    k = (if (th.creg 0x029).getLsbD 9 = true then (K + pass * ((th.creg 0x02A).toNat / 2 ^ (6 * o.k.val) % 64)) % 64 else K) ∧
    (o.z.val < 4 → physZ base o.z.val = o.z.val) ∧ (4 ≤ o.z.val → (physZ base o.z.val + base) % 4 = o.z.val % 4 ∧ 4 ≤ physZ base o.z.val ∧ physZ base o.z.val < 8))
  ∧ (∀ (x : Ctx) (s : State) (lat : Nat) (d : PlaneOp) (f : Nat → Flagged Word32),
    ∃ ws, x.eachLane s lat d f = s.setThread x.t ((s.thread x.t).write s.tcyc lat x.e.seq x.q ws) ∧
      (∀ key v, RegW.z key v ∈ ws ↔ ∃ i, i < 64 ∧ (x.line s d)[i]? = some key ∧ (x.mask s).getLsbD i = true ∧
        (s.thread x.t).trapped.getLsbD (key % 4096 / 64) = false ∧ v = (f i).1) ∧
      (∀ w ∈ ws, (∃ key v, w = .z key v) ∨ ∃ v, w = .flags v ∧ ∀ b, v.getLsbD b = true ↔
        ∃ i, i < 64 ∧ (x.mask s).getLsbD i = true ∧ (f i).2.getLsbD b = true) ∧
      ((∃ i, i < 64 ∧ (x.mask s).getLsbD i = true ∧ (f i).2 ≠ 0) → ∃ v, RegW.flags v ∈ ws))
  ∧ (∀ (s : State) (c : Ctl) (e : Entry) (th : Thread) (d a b : PlaneOp) (r t : SReg) (p : LReg) (m : Fin 4096) (y : Fin 128) (cc : Cond)
    (src : Fmt) (g : GroupFmt) (op : ScanOp) (unit : Bool), s.CanRun c e th →
    let three : List Instr := [.vadd c d a b, .vsub c d a b, .vmul c d a b, .vfma c d a b, .vfms c d a b, .vmin c d a b, .vmax c d a b,
      .viadd c d a b, .visub c d a b, .vimul c d a b, .vimac c d a b, .vimin c d a b, .vimax c d a b, .vshl c d a b, .vshr c d a b,
      .vsar c d a b, .vand c d a b, .vor c d a b, .vxor c d a b, .vsel c d a b p, .vqnt c d a b g, .vdqnt c d a b g, .vshf c d a b y]
    let two : List Instr := [.vabs c d a, .vneg c d a, .vmov c d a, .vrsum c d a, .vrmax c d a, .vrmin c d a, .vrssq c d a, .vexp2 c d a,
      .vlog2 c d a, .vrcp c d a, .vrsq c d a, .vcvt c d a src, .vscan c d a op, .vgth c d r a, .vcmp c p d a cc]
    let one : List Instr := [.vbcst c d r, .vld c d r m, .vst c d r m, .vrand c d r t unit, .vimaxIdx c r d t]
    let out (o : PlaneOp) : Prop := th.planes ≤ physZ e.base o.z.val
    let stops (i : Instr) : Prop :=
      exec i s = .next ((s.setThread s.cur.1 th).raise s.cur.1 { cause := 0x04, sub := 0, pc := e.pc, q := s.cur.2 })
    (out d ∨ out a ∨ out b → ∀ i ∈ three, stops i) ∧ (out d ∨ out a → ∀ i ∈ two, stops i) ∧ (out d → ∀ i ∈ one, stops i) ∧
    (out d ∨ out a ∨ y.val / 64 % 2 = 1 ∧ out b → stops (.vperm c d a b y)))

/-- R116, R118: the FP32 words: each lane's exact result, a special one included, is rounded once in the word's mode, with SAT.
R64, R116, R117, R119, R121: the exact words: no lane sets a flag.
The sign of a zero product and NV beside a NaN addend are log 73's and log 74's reading. -/
def Obligations.VectorFp : Prop :=
  (∀ (s : State) (c : Ctl) (e : Entry) (th : Thread) (d a b : PlaneOp), s.CanRun c e th →
    let x := s.ctx c e
    let s0 := s.setThread s.cur.1 th
    let r : Rounding := { mode := (c.plainMode th).1, sat := c.sat }
    let A (i : Nat) : Val := fp32.read (lane (x.lanes s0 a) i).toNat
    let B (i : Nat) : Val := fp32.read (lane (x.lanes s0 b) i).toNat
    let D (i : Nat) : Val := fp32.read (lane (x.lanes s0 d) i).toNat
    let goes (lat : Nat) (f : Nat → Flagged Val) : Outcome State Fault Refusal :=
      .next (s.issued (x.flag (x.eachLane s0 lat d fun i => round32 r (f i)) (c.plainMode th).2) c useFp e 0)
    ((∀ o ∈ [d, a, b], physZ e.base o.z.val < th.planes) →
      exec (.vadd c d a b) s = goes 2 (fun i => Val.add r.mode (A i) (B i)) ∧
      exec (.vsub c d a b) s = goes 2 (fun i => Val.add r.mode (A i) (B i).neg) ∧
      exec (.vmul c d a b) s = goes 2 (fun i => Val.mul (A i) (B i)) ∧
      exec (.vfma c d a b) s = goes 3 (fun i => Val.fma r.mode (A i) (B i) (D i)) ∧
      exec (.vfms c d a b) s = goes 3 (fun i => Val.fma r.mode (A i).neg (B i) (D i))) ∧
    ((∀ o ∈ [d, a], physZ e.base o.z.val < th.planes) →
      exec (.vexp2 c d a) s = goes 5 (fun i => Val.exp2 (A i)) ∧ exec (.vlog2 c d a) s = goes 5 (fun i => Val.log2 (A i)) ∧
      exec (.vrcp c d a) s = goes 5 (fun i => Val.rcp (A i)) ∧ exec (.vrsq c d a) s = goes 5 (fun i => Val.rsq (A i))))
  ∧ (∀ (s : State) (c : Ctl) (e : Entry) (th : Thread) (d a b : PlaneOp) (m : LReg), s.CanRun c e th →
    (∀ o ∈ [d, a, b], physZ e.base o.z.val < th.planes) →
    let x := s.ctx c e
    let s0 := s.setThread s.cur.1 th
    let A (i : Nat) : Word32 := lane (x.lanes s0 a) i
    let B (i : Nat) : Word32 := lane (x.lanes s0 b) i
    let D (i : Nat) : Word32 := lane (x.lanes s0 d) i
    let goes (lat : Nat) (f : Nat → Word32) : Outcome State Fault Refusal :=
      .next (s.issued (x.eachLane s0 lat d fun i => (f i, 0)) c useExact e 0)
    exec (.vmin c d a b) s = goes 2 (fun i => min32 (A i) (B i)) ∧ exec (.vmax c d a b) s = goes 2 (fun i => max32 (A i) (B i)) ∧
    exec (.vabs c d a) s = goes 2 (fun i => if isNan32 (A i) then 0x7FC00000 else A i &&& 0x7FFFFFFF) ∧
    exec (.vneg c d a) s = goes 2 (fun i => if isNan32 (A i) then 0x7FC00000 else A i ^^^ 0x80000000) ∧
    exec (.vmov c d a) s = goes 1 A ∧
    exec (.viadd c d a b) s = goes 1 (fun i => A i + B i) ∧ exec (.visub c d a b) s = goes 1 (fun i => A i - B i) ∧
    exec (.vimul c d a b) s = goes 2 (fun i => A i * B i) ∧ exec (.vimac c d a b) s = goes 2 (fun i => D i + A i * B i) ∧
    exec (.vimin c d a b) s = goes 1 (fun i => if (A i).toInt ≤ (B i).toInt then A i else B i) ∧
    exec (.vimax c d a b) s = goes 1 (fun i => if (A i).toInt ≤ (B i).toInt then B i else A i) ∧
    exec (.vshl c d a b) s = goes 1 (fun i => A i <<< ((B i).toNat % 32)) ∧
    exec (.vshr c d a b) s = goes 1 (fun i => A i >>> ((B i).toNat % 32)) ∧
    exec (.vsar c d a b) s = goes 1 (fun i => (A i).sshiftRight ((B i).toNat % 32)) ∧
    exec (.vand c d a b) s = goes 1 (fun i => A i &&& B i) ∧ exec (.vor c d a b) s = goes 1 (fun i => A i ||| B i) ∧
    exec (.vxor c d a b) s = goes 1 (fun i => A i ^^^ B i) ∧
    exec (.vsel c d a b m) s = goes 1 (fun i => if (Cells.get th.l m.val).getLsbD i then A i else B i))

/-- R109, R111, R124 to R127, R342: the reductions over the enabled lanes, written to all 64 lanes whatever the mask, those of trapped rows
aside; VIMAX.IDX's lane and value; VBCST.
NV beside a NaN lane, one register for lane and value, and that VSCAN.MAX and VSCAN.MIN ignore RND and SAT are the readings of logs 74, 84
and 31. -/
def Obligations.VectorReductions : Prop :=
  (∀ (x : Ctx) (s : State) (lat : Nat) (d : PlaneOp) (r : Flagged Word32),
    ∃ ws, x.allLanes s lat d r = s.setThread x.t ((s.thread x.t).write s.tcyc lat x.e.seq x.q ws) ∧
      (∀ key v, RegW.z key v ∈ ws ↔ key ∈ x.line s d ∧ (s.thread x.t).trapped.getLsbD (key % 4096 / 64) = false ∧ v = r.1) ∧
      (∀ w ∈ ws, (∃ key v, w = .z key v) ∨ w = .flags r.2) ∧ (r.2 ≠ 0 → RegW.flags r.2 ∈ ws))
  ∧ ∀ (s : State) (c : Ctl) (e : Entry) (th : Thread) (d a : PlaneOp) (i v : SReg) (op : ScanOp), s.CanRun c e th →
    (∀ o ∈ [d, a], physZ e.base o.z.val < th.planes) →
    let x := s.ctx c e
    let s0 := s.setThread s.cur.1 th
    let mask := x.mask s0
    let A := x.lanes s0 a
    let on : List Word32 := ((A.zip (List.range 64)).filter fun p => mask.getLsbD p.2).map Prod.fst
    let r : Rounding := { mode := (c.plainMode th).1, sat := c.sat }
    let w := (c.plainMode th).2
    let pick (f : Word32 → Word32 → Word32) (none_ : Word32) : Word32 := match on with
      | [] => none_
      | v :: vs => vs.foldl f (canon32 v)
    let best := bestLane mask A
    let step (acc y : Word32) : Flagged Word32 := match op with
      | .sum => round32 r (Val.add r.mode (fp32.read acc.toNat) (fp32.read y.toNat))
      | .max => (max32 acc y, 0)
      | .min => (min32 acc y, 0)
    exec (.vrsum c d a) s = .next (s.issued (x.flag (x.allLanes s0 4 d (round32 r (Val.sum r.mode (on.map fun b => fp32.read b.toNat)))) w) c useFp e 0) ∧
    exec (.vrssq c d a) s = .next (s.issued (x.flag (x.allLanes s0 4 d (round32 r (Val.sum r.mode
      (on.map fun b => (Val.mul (fp32.read b.toNat) (fp32.read b.toNat)).1)))) w) c useFp e 0) ∧
    exec (.vrmax c d a) s = .next (s.issued (x.allLanes s0 3 d (pick max32 0x7FC00000, 0)) c useExact e 0) ∧
    exec (.vrmin c d a) s = .next (s.issued (x.allLanes s0 3 d (pick min32 0x7F800000, 0)) c useExact e 0) ∧
    exec (.vimaxIdx c i a v) s = .next (s.issued (x.write s0 4 (match best with
      | none => wrS e.base i 0 ++ wrS e.base v 0x7FC00000
      | some p => wrS e.base i (BitVec.ofNat 64 p.1) ++ wrS e.base v (p.2.zeroExtend 64))) c useExact e 0) ∧
    exec (.vbcst c d i) s = .next (s.issued (x.allLanes s0 1 d ((th.readS e.base i).truncate 32, 0)) c {} e 0) ∧
    exec (.vscan c d a op) s = .next (s.issued (x.flag (x.eachLane s0 6 d fun i => (scanLanes mask A step).getD i (0, 0))
      (if op = .sum then w else 0)) c (if op = .sum then useFp else useExact) e 0)

/-- R125, R126: what the best lane and a scan are. The best lane is enabled, no NaN, none is higher, and the first of its equals; a
scan's lane is 0 and sets no flag where disabled, the first enabled one is the lane itself.
R120, R133, R134: VCMP, cursors and masks. -/
def Obligations.LaneSearches : Prop :=
  (∀ (mask : Word) (vs : List Word32) (f : Word32 → Word32 → Flagged Word32),
    (∀ i v, bestLane mask vs = some (i, v) → i < 64 ∧ v = lane vs i ∧ mask.getLsbD i = true ∧ isNan32 v = false ∧
      ∀ j, j < 64 → mask.getLsbD j = true → isNan32 (lane vs j) = false → key32 (lane vs j) ≤ key32 v ∧ (key32 (lane vs j) = key32 v → i ≤ j)) ∧
    (bestLane mask vs = none → ∀ j, j < 64 → mask.getLsbD j = true → isNan32 (lane vs j) = true) ∧
    (scanLanes mask vs f).length = 64 ∧
    (∀ i, i < 64 → mask.getLsbD i = false → (scanLanes mask vs f)[i]? = some (0, 0)) ∧
    (∀ i, i < 64 → mask.getLsbD i = true → (∀ j, j < i → mask.getLsbD j = false) → (scanLanes mask vs f)[i]? = some (canon32 (lane vs i), 0)) ∧
    (∀ i j a, i < j → j < 64 → mask.getLsbD i = true → mask.getLsbD j = true → (∀ k, i < k → k < j → mask.getLsbD k = false) →
      (scanLanes mask vs f)[i]? = some a → (scanLanes mask vs f)[j]? = some (f a.1 (lane vs j))))
  ∧ (∀ (s : State) (c : Ctl) (e : Entry) (th : Thread) (k : KReg) (r : SReg) (n : Fin 1024) (p q l : LReg) (a b : PlaneOp) (cc : Cond),
    s.CanRun c e th →
    let x := s.ctx c e
    let s0 := s.setThread s.cur.1 th
    let L (i : LReg) : Word := Cells.get th.l i.val
    let put (ws : List RegW) : Outcome State Fault Refusal := .next (s.wrote c e th 1 0 ws)
    exec (.vkset c k r n) s = put [.k k.val (BitVec.ofNat 6 ((th.readS e.base r).toNat + n.val))] ∧
    exec (.vkadd c k r n) s = put [.k k.val (BitVec.ofNat 6 ((Cells.get th.k k.val).toNat + (th.readS e.base r).toNat + n.val))] ∧
    exec (.mskand c p q l) s = put [.l p.val (L q &&& L l)] ∧ exec (.mskor c p q l) s = put [.l p.val (L q ||| L l)] ∧
    exec (.mskxor c p q l) s = put [.l p.val (L q ^^^ L l)] ∧ exec (.msknot c p q) s = put [.l p.val (~~~ L q)] ∧
    exec (.mskmov c p r) s = put [.l p.val (th.readS e.base r)] ∧ exec (.mskget c r p) s = put (wrS e.base r (L p)) ∧
    ((∀ o ∈ [a, b], physZ e.base o.z.val < th.planes) → ∃ v : Word, exec (.vcmp c p a b cc) s =
        .next (s.issued (x.write s0 2 [.l p.val v]) c { useExact with type := c.type == .dflt || c.type == .fp32 || c.type == .i32 } e 0) ∧
      ∀ i, i < 64 → v.getLsbD i = ((x.mask s0).getLsbD i && (if c.type = .i32 then cc.int32 (lane (x.lanes s0 a) i) (lane (x.lanes s0 b) i)
        else cc.fp (lane (x.lanes s0 a) i) (lane (x.lanes s0 b) i)))))

/-- R122, R123, R128, R129, R135: conversions, group formats, permutations and random numbers. A DTH conversion takes one dither phase.
VCVT's RND and SAT are log 30's reading, the sign of a zero that VDQNT gives log 73's. -/
def Obligations.VectorLaneForms : Prop :=
  ∀ (s : State) (c : Ctl) (e : Entry) (th : Thread) (d a b : PlaneOp) (src : Fmt) (g : GroupFmt) (y : Fin 128) (key ctr : SReg) (unit : Bool),
    s.CanRun c e th → (∀ o ∈ [d, a, b], physZ e.base o.z.val < th.planes) →
    let x := s.ctx c e
    let s0 := s.setThread s.cur.1 th
    let A (i : Nat) : Word32 := lane (x.lanes s0 a) i
    let B (i : Nat) : Word32 := lane (x.lanes s0 b) i
    let grp (f : Nat → Nat → Word32 → Val → Flagged Word32) (i : Nat) : Flagged Word32 :=
      let rcd := (B (i / g.fmt.group)).toNat
      let sc := fp16.input (c.fin th) (rcd % 65536)
      let r := f g.fmt.width (rcd / 65536 % 2 ^ (if g.fmt.width = 4 then 4 else 8)) (A i) sc.1
      (r.1, sc.2 ||| r.2)
    let goes (t : State) (u : ModUse) (lat : Nat) (f : Nat → Flagged Word32) : Outcome State Fault Refusal :=
      .next (s.issued (x.eachLane t lat d f) c u e 0)
    let mode := if c.type.isFp then c.convMode th c.type src else .rne
    let ph := if mode = .dth then x.takePhase s0 else (0, s0)
    (c.type.admitsDither src = false → mode ≠ .dth) ∧
    (∀ m, c.mods = some m → c.type.isFp = true →
      (m.rnd = .dth → mode = if c.type.admitsDither src then .dth else .rne) ∧
      (c.type.precision < src.precision → (m.rnd = .rne → mode = .rne) ∧ (m.rnd = .rtz → mode = .rtz) ∧ (m.rnd = .rup → mode = .rup) ∧ (m.rnd = .rdn → mode = .rdn))) ∧
    exec (.vcvt c d a src) s = .next (s.issued (x.eachLane ph.2 2 d fun i =>
        let v := readAs src (c.fin th) (A i).toNat
        let k := (x.line s0 d).getD i 0
        let w := writeAs c.type { mode := mode, d := ditherD (keyRow k % 16) (keyCol k % 16) ph.1, fout := c.fout th, sat := c.sat } v.1
        (w.1, v.2 ||| w.2)) c
      { type := true, rnd := c.takesRnd c.type src, sat := c.type.isFp, mask := true, flush := c.type.narrow || src.narrow } e 0) ∧
    exec (.vqnt c d a b g) s = goes s0 { mask := true, flush := true } 3
      (grp fun w zp v sc => (BitVec.ofNat 32 (quant w zp (fp32.read v.toNat) sc).1, (quant w zp (fp32.read v.toNat) sc).2)) ∧
    exec (.vdqnt c d a b g) s = goes s0 { mask := true, flush := true } 2
      (grp fun w zp v sc => round32 {} (dequant (v.toNat % 2 ^ w) zp sc)) ∧
    exec (.vperm c d a b y) s = goes s0 useExact 2
      (fun i => (A ((if y.val / 64 % 2 = 1 then (B i).toNat % 64 else i) ^^^ (y.val % 64)), 0)) ∧
    exec (.vshf c d a b y) s = goes s0 useExact 2
      (fun i => (lane (x.lanes s0 a ++ x.lanes s0 b) ((i + y.val) % 128), 0)) ∧
    exec (.vrand c d key ctr unit) s = goes s0 useExact 3 (fun i =>
      let h := randHash (th.readS e.base key) (th.readS e.base ctr) i
      (if unit then randUnit h else h, 0))

/-- R110, R114, R130 to R132: VLD, VST and VGTH: alignment first, then the bound over the enabled lanes, then the lanes' elements, sign-extended
for an integer type, two to a byte in a 4-bit one. A VST leaves out lanes of rows that a trap has taken. A read claims the banks of its bytes
(R142). -/
def Obligations.VectorMemory : Prop :=
  ∀ (s t : State) (c : Ctl) (e : Entry) (th : Thread) (d b : PlaneOp) (a : SReg) (off : Fin 4096) (sc : Scope) (o : Order), s.CanRun c e th →
    (∀ o ∈ [d, b], physZ e.base o.z.val < th.planes) →
    let x := s.ctx c e
    let s0 := s.setThread s.cur.1 th
    let A := th.readS e.base a + BitVec.ofInt 64 (immS 12 off c.imms * 64)
    let G := th.readS e.base a
    let n := max 1 (c.type.width / 8)
    let at_ (a j : Nat) : Nat := if c.type.width = 4 then a + j / 2 else a + j * n
    let U (i : Nat) : Nat := (lane (x.lanes s0 b) i).toNat
    let on := onLanes (x.mask s0)
    let stops (f : FRec) : Outcome State Fault Refusal := .next (s0.raise s.cur.1 { f with pc := e.pc, q := s.cur.2 })
    let goes (u : State) : Outcome State Fault Refusal := .next (s.issued u c useMem e 0)
    (∀ f, th.vcsCheck c.type A on = some f → exec (.vld c d a off) s = stops f ∧ exec (.vst c d a off) s = stops f) ∧
    (∀ f, th.vcsCheck c.type G (on.map U) = some f → exec (.vgth c d a b) s = stops f) ∧
    (th.vcsCheck c.type A on = none → x.Passes s0 .load .station sc o t → exec (.vld c d a off) s =
      goes (x.acquireAfter (x.eachLane (x.touch t (on.map (at_ A.toNat))) 4 d fun i => (t.csElem s.cur.1 c.type A.toNat i, 0)) sc o)) ∧
    (th.vcsCheck c.type A on = none → x.Passes s0 .store .station sc o t → exec (.vst c d a off) s =
      goes (x.write t 2 ((on.filter fun i => !(t.thread s.cur.1).trapped.getLsbD ((x.line t d).getD i 0 % 4096 / 64)).flatMap fun i =>
        (t.thread s.cur.1).csElemPut c.type A.toNat i (lane (x.lanes t d) i)))) ∧
    (th.vcsCheck c.type G (on.map U) = none → x.Passes s0 .load .station sc o t → exec (.vgth c d a b) s =
      goes (x.acquireAfter (x.eachLane (x.touch t (on.map fun i => at_ G.toNat (U i))) 8 d fun i => (t.csElem s.cur.1 c.type G.toNat (U i), 0)) sc o)) ∧
    (∀ (v : Word) (js : List Nat),
      (v.toNat % n ≠ 0 → th.vcsCheck c.type v js = some (fAlign v)) ∧
      (v.toNat % n = 0 → (∃ j ∈ js, th.csBytes < at_ v.toNat j + n) → th.vcsCheck c.type v js = some (fOver 2)) ∧
      (v.toNat % n = 0 → (∀ j ∈ js, at_ v.toNat j + n ≤ th.csBytes) → th.vcsCheck c.type v js = none)) ∧
    (∀ (f j : Nat) (v : Word32),
      let raw := leNat ((List.range n).map fun i => t.csByte s.cur.1 .v (at_ f j + i)) / 2 ^ (if c.type.width = 4 then 4 * (j % 2) else 0) % 2 ^ c.type.width
      t.csElem s.cur.1 c.type f j = (match c.type.kind with
        | .int w true => BitVec.ofInt 32 (sext raw w)
        | _ => BitVec.ofNat 32 raw) ∧
      th.csElemPut c.type f j v = if c.type.width = 4 then [.cn (th.csBase + at_ f j) (j % 2 == 1) (v.truncate 4)]
        else (List.range n).map fun i => .cs (th.csBase + at_ f j + i) (BitVec.ofNat 8 (v.toNat / 2 ^ (8 * i))))

/-! The Vat. -/


/-- R136, R140, R157, R264, R266: the reserved bits that a stream register drops; which records can be pinned, and what a pin is: a frame
that is empty or past its expiry, and the bytes of a marker beyond its header, are a page fault.
R150, R157, R163, R167, R168: MLEASE, MFREE, MCHK, MWAIT and the stream and nest words, each with its checks in order. A
stream register changes only where its new record has been pinned, or where MSTRF writes BCC.
A pin whose walk meets a page of tables under migration waits. Which fault comes first, and which streams' records the footprint takes
in, are log 86's and log 87's reading; that MNEST leaves FLAGS alone whatever its reserved bits is log 38's. -/
def Obligations.StreamPins : Prop :=
  (∀ (s : State) (t : Tid) (ws : List Word), ws.length = 8 →
    let r := Stream.of ws
    let th := s.thread t
    let lo := r.span.1
    let hi := r.span.2
    let va : Word := BitVec.ofInt 64 lo
    let f := (va.toNat - segBase) / 2 ^ 22
    let frame := s.frame t.st f
    (∀ i, i = 2 ∨ i = 3 ∨ i = 4 ∨ i = 5 ∨ i = 6 → (cleanRecord ws).1.getD i 0 = ws.getD i 0) ∧
    (∀ b, ((cleanRecord ws).1.getD 0 0).getLsbD b = ((ws.getD 0 0).getLsbD b && decide (b < if r.space = 0 then 22 else 57))) ∧
    (∀ b, ((cleanRecord ws).1.getD 1 0).getLsbD b = ((ws.getD 1 0).getLsbD b && decide (b < 8))) ∧
    ((cleanRecord ws).2 = true ↔ (cleanRecord ws).1.getD 0 0 ≠ ws.getD 0 0 ∨ (cleanRecord ws).1.getD 1 0 ≠ ws.getD 1 0) ∧
    (r.space = 0 → lo < 0 ∨ (th.csBytes : Int) < hi → s.pin t ws = (.error (fOver 2), s)) ∧
    (r.space = 0 → 0 ≤ lo → hi ≤ (th.csBytes : Int) → s.pin t ws = (.ok none, s)) ∧
    (2 ≤ r.space → s.pin t ws = (.error { cause := 0x03 }, s)) ∧
    (r.space = 1 → inSegRegion va.toNat = true → f < 64 → hi ≤ (segBase + f * 2 ^ 22 + 2304000 : Nat) → s.hasFrame t.st f = true → s.cyc < frame.expiry →
      frame.marker = false ∨ hi ≤ (segBase + f * 2 ^ 22 + 256 : Nat) → s.pin t ws = (.ok (some (.seg f frame.tag frame.arriveSlot)), s)) ∧
    (r.space = 1 → inSegRegion va.toNat = true → f < 64 → hi ≤ (segBase + f * 2 ^ 22 + 2304000 : Nat) → s.hasFrame t.st f = false ∨
      frame.expiry ≤ s.cyc ∨ frame.marker = true ∧ (segBase + f * 2 ^ 22 + 256 : Nat) < hi → s.pin t ws = (.error (fXlate 0x1 0 va), s)) ∧
    (r.space = 1 → inSegRegion va.toNat = true → f < 64 → (segBase + f * 2 ^ 22 + 2304000 : Nat) < hi →
      s.pin t ws = (.error (fXlate 0x7 0 va), s)))
  ∧ (∀ (s u : State) (c : Ctl) (e : Entry) (th : Thread) (g : GReg) (a : SReg) (f k : Fin 32) (w : Token) (p : Option Pin) (fr : FRec),
    s.CanRun c e th →
    let x := s.ctx c e
    let me := s.cur.1
    let s0 := s.setThread me th
    let A := th.readS e.base a
    let n := A.toNat
    let dw (i : Nat) : Word := BitVec.ofNat 64 (s0.csReadQ me .m (n + 8 * i) 8)
    let stops (t : State) (f : FRec) : Outcome State Fault Refusal := .next (t.raise me { f with pc := e.pc, q := s.cur.2 })
    let goes (t : State) (extra : Nat) : Outcome State Fault Refusal := .next (s.issued t c {} e extra)
    let V := s.vat me.st me.co
    let old := th.stream g.val
    let field := ([(0, 0, 64), (1, 0, 64), (2, 0, 64), (3, 0, 32), (3, 32, 32), (4, 0, 16), (4, 16, 16), (4, 32, 16), (4, 48, 16),
      (5, 0, 32), (5, 32, 32), (6, 0, 32), (6, 32, 32), (7, 48, 16)] : List (Nat × Nat × Nat)).getD f.val (0, 0, 0)
    let new := old.set field.1 (wset (old.getD field.1 0) field.2.1 field.2.2 n)
    let pins (i : Instr) (ws : List Word) : Prop :=
      (s0.pinWaits me (cleanRecord ws).1 = true → exec i s = .next s0) ∧ (s0.pinWaits me (cleanRecord ws).1 = false →
        (s0.pin me (cleanRecord ws).1 = (.ok p, u) → exec i s = goes ((x.flag u (flagIf (cleanRecord ws).2 flRSVWARN)).modThread me fun y =>
          y.setStream g.val (cleanRecord ws).1 p) 1) ∧ (s0.pin me (cleanRecord ws).1 = (.error fr, u) → exec i s = stops u fr))
    (V.holder = some me ∨ (∃ y ∈ V.waiters, y.1 = me) → exec (.mlease c) s = goes s0 0) ∧
    (V.holder ≠ some me → (∀ y ∈ V.waiters, y.1 ≠ me) → exec (.mlease c) s =
      goes (s0.modVat me.st me.co fun v => { v with waiters := v.waiters ++ [(me, 0)] }) 0) ∧
    (V.holder = some me → exec (.mfree c) s = goes (s0.modVat me.st me.co fun v => { v with holder := none, scrub := 0 }) 0) ∧
    (V.holder ≠ some me → exec (.mfree c) s = goes s0 0) ∧
    (n % 64 ≠ 0 → exec (.mstrl c g a) s = stops s0 (fAlign A) ∧ exec (.mstrs c g a) s = stops s0 (fAlign A) ∧
      exec (.mnest c a) s = stops s0 (fAlign A)) ∧
    (n % 64 = 0 → th.csBytes < n + 64 → exec (.mstrl c g a) s = stops s0 (fOver 2) ∧ exec (.mstrs c g a) s = stops s0 (fOver 2)) ∧
    (n % 64 = 0 → th.csBytes < n + 128 → exec (.mnest c a) s = stops s0 (fOver 2)) ∧
    (n % 64 = 0 → n + 64 ≤ th.csBytes → pins (.mstrl c g a) ((List.range 8).map dw) ∧
      exec (.mstrs c g a) s = goes ((x.write s0 2 ((List.range 64).map fun i =>
        .cs (th.csBase + n + i) (BitVec.ofNat 8 ((old.getD (i / 8) 0).toNat / 256 ^ (i % 8))))).modThread me fun y =>
          { y with soft := y.soft ++ [⟨e.seq, y.csBase + n, (s.core me.st me.co).cs.bytes (th.csBase + n) 64, [.m]⟩] }) 1) ∧
    (13 < f.val → exec (.mstrf c g a f) s = stops s0 fFormat) ∧ (f.val < 13 → pins (.mstrf c g a f) new) ∧
    (f.val = 13 → exec (.mstrf c g a f) s = goes (s0.modThread me fun y => y.setStream g.val new (Tab.get th.pins g.val)) 1) ∧
    (n % 64 = 0 → n + 128 ≤ th.csBytes →
      ((dw 0).toNat % 8 = 0 ∨ (dw 0).toNat % 8 = 7 → exec (.mnest c a) s = stops s0 fNest) ∧
      ((dw 0).toNat % 8 ≠ 0 → (dw 0).toNat % 8 ≠ 7 → ∃ nest, (∀ i, i < 16 → Cells.get nest i = dw i) ∧
        exec (.mnest c a) s = goes (s0.modThread me fun y => { y with nest := nest }) 0)) ∧
    (k.val = 0 ∨ 4 ≤ k.val ∧ k.val ≤ 16 → exec (.mchk c k) s = goes (s0.modThread me fun y => { y with mchk := k.val }) 0) ∧
    (k.val ≠ 0 → k.val < 4 ∨ 16 < k.val → exec (.mchk c k) s = stops s0 fFormat) ∧
    (let busy := (∃ m ∈ V.cmds, m.t = me) ∨ ∃ y ∈ th.pend, y.q = .m
     (busy → exec (.mwait c false w) s = .next s0) ∧ (¬ busy → exec (.mwait c false w) s = goes s0 0) ∧
     (th.tokenCount ≤ w.val → exec (.mwait c true w) s = stops s0 (fOver 4)) ∧
     (w.val < th.tokenCount → busy ∨ 15 ≤ th.tokensHeld w.val → exec (.mwait c true w) s = .next s0) ∧
     (w.val < th.tokenCount → ¬ busy → th.tokensHeld w.val < 15 → exec (.mwait c true w) s =
       .next (s.wrote c e th 1 0 [.tok w.val (some (.m, e.seq))]))))

/-- R146, R147, R150, R151: the seven commands of the Vat, from the head of the M queue to acceptance: a thread without the lease
requests it; a handler first takes the reserve; the holder's command is planned and, where it fits the lease, accepted, with its
operands as they stand; one that does not fit ends the lease and requests another; the 16th ends the lease. The cycle in which a command leaves column 0 is
log 91's reading. -/
def Obligations.VatCommandWords : Prop :=
  ∀ (s u : State) (c : Ctl) (e : Entry) (th : Thread) (g h : GReg) (a b : SReg) (z : ZReg) (q : Fin 4) (init nest : Bool) (p : VatPlan)
    (f : FRec), s.CanRun c e th → s.cur.2 = .m →
    let me := s.cur.1
    let x := s.ctx c e
    let s0 := s.setThread me th
    let V := s.vat me.st me.co
    let res := (s.core me.st me.co).resOwner
    let handler := th.kind = .handler
    let asks : State := (x.keep s0 { x.e with stage := 1 }).nowEv (.vatAccept me.st me.co)
    let tries : State := asks.modThread me fun y => y.setHead .m { x.e with stage := 0 }
    ∀ i ∈ [Instr.mmm c g h a init nest, .mmc c g a init, .aclr c a, .ard c z q a, .awr c z q a, .acpyToCoreStore c a b, .acpyToAccumulator c a b],
      (handler → res = none → exec i s = .next (s0.nowEv (.handlerReserveClaim me))) ∧
      (∀ o, handler → res = some o → o ≠ me → exec i s = .next s0) ∧
      (¬ handler ∨ res = some me → V.holder ≠ some me → exec i s = .next (s0.requestLease me)) ∧
      (¬ handler ∨ res = some me → V.holder = some me → exec i s = .next asks ∧
        (decodeInstr e.word e.exts = .ok i → V.nextAcc ≤ s.cyc → th.vatAt ≤ s.cyc →
          (tries.vatPlan me e.base i = (.error f, u) → exec (.vatAccept me.st me.co) asks =
            .next (if f.waits then u else u.raise me { f with pc := e.pc, q := .m })) ∧
          (tries.vatPlan me e.base i = (.ok p, u) → 8192 < p.occ →
            exec (.vatAccept me.st me.co) asks = .next (u.raise me { cause := 0x07, pc := e.pc, q := .m })) ∧
          (tries.vatPlan me e.base i = (.ok p, u) → p.occ ≤ 8192 → V.granted + 8192 < s.cyc + p.occ →
            exec (.vatAccept me.st me.co) asks = .next ((u.endLease me.st me.co).requestLease me)) ∧
          (tries.vatPlan me e.base i = (.ok p, u) → p.occ ≤ 8192 → s.cyc + p.occ ≤ V.granted + 8192 → ∃ t m v,
            exec (.vatAccept me.st me.co) asks = .next t ∧ v = t.vat me.st me.co ∧
            v.cmds = V.cmds ++ [m] ∧ v.count = V.count + 1 ∧ (v.holder = if 16 ≤ V.count + 1 then none else some me) ∧
            m.t = me ∧ m.instr = i ∧ m.seq = e.seq ∧ m.acc = s.cyc ∧ m.ops = p.ops ∧ m.rows = p.rows ∧ m.z0 = th.z ∧
            m.gs = p.gs.map th.stream ∧ m.nest = th.nest ∧ s.cyc + p.occ + m.stall ≤ v.nextAcc ∧ m.done = v.nextAcc + 271 ∧
            m.stall ≤ 2 * p.occ ∧ ((t.thread me).queue .m).es = (th.queue .m).es.tail ∧ t.mem = s.mem)))

/-- R145, R147, R151, R158, R162 to R164, R166: the checks of the Vat's commands before acceptance, their occupancy and the window rows
that they name; for MMM and MMC the streams' pins are made or found again in their order, and a nest's basic products are checked in theirs.
SAT on AWR and the order of a nest's checks are log 76's and log 85's reading. -/
def Obligations.VatPlans : Prop :=
  ∀ (s : State) (t : Tid) (base : Nat) (c : Ctl) (g h : GReg) (a b : SReg) (z : ZReg) (q : Fin 4) (init : Bool),
    let th := s.thread t
    let v := (th.readS base a).toNat
    let A := th.readS base b
    let B := v % 2 ^ 11
    let n := v / 2 ^ 16 % 2 ^ 11
    let w0 := if th.kind = .handler then 1984 else th.winBase
    let size := if th.kind = .handler then 64 else th.accRows
    let fails (i : Instr) (f : FRec) : Prop := s.vatPlan t base i = (.error f, s)
    let plans (i : Instr) (occ : Nat) (rows : List (Nat × Nat)) : Prop :=
      ∃ p, s.vatPlan t base i = (.ok p, s) ∧ p.occ = occ ∧ p.rows = rows ∧ p.gs = []
    let G := Stream.of (th.stream g.val)
    let H := Stream.of (th.stream h.val)
    let nr := v / 2 ^ 32 % 2 ^ 7
    let steps (k kc : Nat) : Nat := (k + kc - 1) / kc
    let conv : Option Fmt := if c.type = .dflt ∨ c.type = .bf16 then some .bf16 else if c.type = .e4m3 then some .e4m3 else none
    let ls := nestLevels th.nest
    let num := nestNum th.nest
    let cnt (l : Nat) : Nat := (ls.map Level.cnt).getD l 1
    let stride (l : Nat) : Nat := ((ls.take l).map Level.cnt).foldl (· * ·) 1
    let total (i : Nat) (f : Level → Int) : Int :=
      ((ls.zip (List.range ls.length)).map fun x => ((i / stride x.2 % cnt x.2 : Nat) : Int) * f x.1).foldl (· + ·) 0
    let P := nestProducts ls B G H
    (n = 0 → fails (.aclr c a) fFormat) ∧ (n ≠ 0 → size < B + n → fails (.aclr c a) (fOver 1)) ∧
    (n ≠ 0 → B + n ≤ size → plans (.aclr c a) ((n + 7) / 8) [(w0 + B, n)]) ∧
    (th.planes ≤ physZ base z.val → fails (.ard c z q a) (fOver 0) ∧ fails (.awr c z q a) (fOver 0)) ∧
    (physZ base z.val < th.planes →
      (ardFmt c.type = false → fails (.ard c z q a) fFormat) ∧ (c.type.group ≠ 0 → fails (.awr c z q a) fFormat) ∧
      (ardFmt c.type = true → size < B + 64 → fails (.ard c z q a) (fOver 1)) ∧
      (c.type.group = 0 → size < B + 64 → fails (.awr c z q a) (fOver 1)) ∧
      (ardFmt c.type = true → B + 64 ≤ size → plans (.ard c z q a) 16 []) ∧
      (c.type.group = 0 → B + 64 ≤ size → plans (.awr c z q a) 16 [(w0 + B, 64)])) ∧
    (A.toNat % 4 ≠ 0 → fails (.acpyToCoreStore c a b) (fAlign A) ∧ fails (.acpyToAccumulator c a b) (fAlign A)) ∧
    (A.toNat % 4 = 0 → n = 0 → fails (.acpyToCoreStore c a b) fFormat ∧ fails (.acpyToAccumulator c a b) fFormat) ∧
    (A.toNat % 4 = 0 → n ≠ 0 → size < B + n → fails (.acpyToCoreStore c a b) (fOver 1) ∧ fails (.acpyToAccumulator c a b) (fOver 1)) ∧
    (A.toNat % 4 = 0 → n ≠ 0 → B + n ≤ size → th.csBytes < A.toNat + 1024 * n →
      fails (.acpyToCoreStore c a b) (fOver 2) ∧ fails (.acpyToAccumulator c a b) (fOver 2)) ∧
    (A.toNat % 4 = 0 → n ≠ 0 → B + n ≤ size → A.toNat + 1024 * n ≤ th.csBytes →
      plans (.acpyToCoreStore c a b) (4 * n) [] ∧ plans (.acpyToAccumulator c a b) (4 * n) [(w0 + B, n)]) ∧
    (vatKc G.fmt H.fmt = none → fails (.mmm c g h a init false) fFormat) ∧
    (∀ kc, vatKc G.fmt H.fmt = some kc →
      (G.nk ≠ H.nk ∨ 256 < G.nl ∨ kc = 32 ∧ (G.blk ≠ 0 ∨ H.blk ≠ 0) → fails (.mmm c g h a init false) fFormat) ∧
      (∀ p u, s.vatPlan t base (.mmm c g h a init false) = (.ok p, u) → G.nk = H.nk ∧ G.nl ≤ 256 ∧ B + H.nl ≤ size ∧
        p.occ = H.nl * ((G.nk + kc - 1) / kc) ∧ p.occ ≤ 8192 ∧ p.rows = [(w0 + B, H.nl)] ∧ p.gs = [g.val, h.val]) ∧
      (G.nk = H.nk → G.nl ≤ 256 → ¬ (kc = 32 ∧ (G.blk ≠ 0 ∨ H.blk ≠ 0)) → ∀ (nest : Bool) (u1 u : State) (pg ph : Option Pin) (f : FRec),
        (nest = false ∨ ls ≠ []) →
        let i := Instr.mmm c g h a init nest
        let occ := H.nl * steps G.nk kc * (if nest then (ls.map Level.cnt).foldl (· * ·) 1 else 1)
        let mk (f : Nat) : Bool := (u.frame t.st f).marker
        let fits (p : BasicProduct) : Prop := p.g.inside th mk pg = none ∧ p.h.inside th mk ph = none ∧ 0 ≤ p.row ∧ p.row + H.nl ≤ size
        (s.usePin t g.val = (.error f, u) → s.vatPlan t base i = (.error f, u)) ∧
        (s.usePin t g.val = (.ok pg, u1) → u1.usePin t h.val = (.error f, u) → s.vatPlan t base i = (.error f, u)) ∧
        (s.usePin t g.val = (.ok pg, u1) → u1.usePin t h.val = (.ok ph, u) →
          (8192 < occ → s.vatPlan t base i = (.error { cause := 0x07 }, u)) ∧
          (occ ≤ 8192 → nest = false → size < B + H.nl → s.vatPlan t base i = (.error (fOver 1), u)) ∧
          (occ ≤ 8192 → nest = false → B + H.nl ≤ size → ∃ p, s.vatPlan t base i = (.ok p, u) ∧ p.occ = occ ∧ p.rows = [(w0 + B, H.nl)] ∧
            p.gs = [g.val, h.val]) ∧
          (occ ≤ 8192 → nest = true → ∀ (j : Nat) (p : BasicProduct), P[j]? = some p →
            (∀ (k : Nat) (q : BasicProduct), k < j → P[k]? = some q → fits q) →
            (p.g.inside th mk pg = some f → s.vatPlan t base i = (.error f, u)) ∧
            (p.g.inside th mk pg = none → p.h.inside th mk ph = some f → s.vatPlan t base i = (.error f, u)) ∧
            (p.g.inside th mk pg = none → p.h.inside th mk ph = none → p.row < 0 ∨ size < p.row + H.nl →
              s.vatPlan t base i = (.error (fOver 1), u))) ∧
          (occ ≤ 8192 → nest = true → (∀ p ∈ P, fits p) → ∃ p, s.vatPlan t base i = (.ok p, u) ∧ p.occ = occ ∧
            p.rows = P.map (fun q => (w0 + q.row.toNat, H.nl)) ∧ p.gs = [g.val, h.val])))) ∧
    (ls = [] → fails (.mmm c g h a init true) fNest) ∧
    (ls.length = (Cells.get th.nest 0).toNat % 8 ∧ ∀ (l : Nat) (x : Level), ls[l]? = some x →
      let o := 64 + 160 * l
      x.cnt = (if bits num o 16 = 0 then 1 else bits num o 16) ∧ x.ainc = sext (bits num (o + 16) 16) 16 ∧
      x.ginc = sext (bits num (o + 32) 32) 32 ∧ x.gsinc = sext (bits num (o + 64) 32) 32 ∧ x.hinc = sext (bits num (o + 96) 32) 32 ∧
      x.hsinc = sext (bits num (o + 128) 32) 32) ∧
    (P.length = (ls.map Level.cnt).foldl (· * ·) 1 ∧ ∀ (i : Nat) (p : BasicProduct), P[i]? = some p → p.row = B + total i Level.ainc ∧
      p.g = { G with p0 := total i Level.ginc, soff := total i Level.gsinc } ∧
      p.h = { H with p0 := total i Level.hinc, soff := total i Level.hsinc }) ∧
    (let i := Instr.mmc c g a init
     (conv.bind (vatKc G.fmt) = none → fails i fFormat) ∧ ∀ kc, conv.bind (vatKc G.fmt) = some kc →
      let bad := nr = 0 ∨ 64 < nr ∨ 256 < G.nk ∨ 256 < G.nl ∨ kc = 32 ∧ G.blk ≠ 0
      (bad → fails i fFormat) ∧ (¬ bad → size < B + nr ∨ size < n + nr → fails i (fOver 1)) ∧
      (¬ bad → B + nr ≤ size → n + nr ≤ size → ∀ (u : State) (f : FRec) (pin : Option Pin),
        (s.usePin t g.val = (.error f, u) → s.vatPlan t base i = (.error f, u)) ∧
        (s.usePin t g.val = (.ok pin, u) → ∃ p, s.vatPlan t base i = (.ok p, u) ∧ p.occ = nr * steps G.nk kc ∧ p.rows = [(w0 + B, nr)] ∧
          p.gs = [g.val] ∧ p.ops = [B, n, nr] ∧ p.phases = if c.mode th = .dth then (G.nk + 127) / 128 else 0))) ∧
    (∀ x y, (vatKc x y).isSome = true ↔ (y = .i8 ∨ y = .e4m3) ∧ x ∈ [Fmt.q4g32, .q4g64, .q4g128, .i4, .q8g32, .q8g64, .q8g128, .i8] ∨
      x = y ∧ (y = .bf16 ∨ y = .fp16))

/-- R146, R152: who gets the lease next and what the grant sets; a change of context costs 32 cycles. The reserve is zeroed as it
passes to a handler thread.
R147 to R149, R158 to R166, R342, R367: the oldest command completes when its time has come, and what it leaves: the elements of
the accumulator, the core-store bytes, the plane elements, its flags; nothing else of them changes. A nest's products follow each
other, each over what the one before left. A write of ARD that lands in a thread cycle in which a later-issued word's write of the same
element has landed is not made (R109). The rows of a command that a context halt cut short take free values; that ARD raises the flags
of trapped rows too is log 92's choice. -/
def Obligations.VatLeaseSteps : Prop :=
  (∀ (s : State) (st co n : Nat) (t : Tid),
    let v := s.vat st co
    let rank (w : Tid × Nat) : Nat := if 2 ≤ w.2 then 0 else if (s.thread w.1).kind = .handler then 1 else 2
    let dl (w : Tid × Nat) : Nat := ((s.thread w.1).creg 0x008).toNat
    (v.waiters ≠ [] → (s.nextLease v.waiters).isSome = true) ∧
    (∀ w, s.nextLease v.waiters = some w → w ∈ v.waiters ∧ ∀ y ∈ v.waiters, rank w ≤ rank y ∧
      (rank w = 2 → rank y = 2 → dl w ≤ dl y ∧ (dl w = dl y → w.1.tx ≤ y.1.tx))) ∧
    (v.holder = none → v.nextAcc ≤ s.cyc → s.nextLease v.waiters = some (t, n) → ∃ u w, exec (.vatLeaseGrant st co) s = .next u ∧
      w = u.vat st co ∧ w.holder = some t ∧ w.count = 0 ∧ w.cmds = v.cmds ∧ w.lastCtx = some (s.thread t).ctx ∧
      w.granted = s.cyc + (if v.lastCtx = none ∨ v.lastCtx = some (s.thread t).ctx then 0 else 32) ∧ w.nextAcc = w.granted ∧
      w.waiters = (v.waiters.filter fun y => y.1 ≠ t).map (fun y => (y.1, y.2 + 1)) ∧ u.threads = s.threads ∧ u.mem = s.mem) ∧
    ((s.core t.st t.co).resOwner = none → (s.thread t).kind = .handler → ∃ u, exec (.handlerReserveClaim t) s = .next u ∧
      (u.core t.st t.co).resOwner = some t ∧ (u.thread t).vatAt = s.cyc + 8 ∧ u.mem = s.mem ∧
      ∀ k, Cells.get (u.core t.st t.co).acc k = if 1984 * 256 ≤ k then 0 else Cells.get (s.core t.st t.co).acc k))
  ∧ (∀ (s : State) (m : VatCmd) (rest : List VatCmd) (st co : Nat) (c : Ctl) (g h : GReg) (a b : SReg) (z : ZReg) (q : Fin 4) (init : Bool)
    (r n A : Nat),
    let u := s.vatEffect m
    let me := m.t
    let old (k : Nat) : Word32 := Cells.get (s.core me.st me.co).acc k
    let new (k : Nat) : Word32 := Cells.get (u.core me.st me.co).acc k
    let cs (w : State) (k : Nat) : Byte := Cells.get (w.core me.st me.co).cs k
    let base := (s.thread me).csBase
    let after (ws : List RegW) (fl : Word) : Prop :=
      let all := (ws.filter fun w => !s.beaten m w) ++ if fl = 0 then [] else [.flags fl]
      (u.thread me).unobs = (s.thread me).unobs ++ if all.isEmpty then [] else [⟨.m, m.seq, all⟩]
    let G := Stream.of (m.gs.headD [])
    let H := Stream.of (m.gs.getD 1 [])
    let pg := m.pins.headD none
    let k0 : Calc := { acc := (s.core me.st me.co).acc, ys := (s.core me.st me.co).acc }
    let fmt : Fmt := if c.type = .e4m3 then .e4m3 else .bf16
    let rm : Rounding := { mode := rmOf m.rm, fout := m.fout, sat := c.sat }
    ((s.vat st co).cmds = m :: rest → m.done ≤ s.cyc → exec (.vatComplete st co) s =
      .next (((s.modVat st co fun v => { v with cmds := rest }).vatMarks m).vatEffect m)) ∧
    ((s.station me.st).uncorr = [] → s.vatMarks m = s) ∧
    u.mem = s.mem ∧
    (m.abandoned = true → m.rows = [(r, n)] → ∀ k, (256 * r ≤ k ∧ k < 256 * (r + n) → new k = Config.freeWord32 (m.free * 2 ^ 24 + k)) ∧
      (k < 256 * r ∨ 256 * (r + n) ≤ k → new k = old k)) ∧
    (m.abandoned = false →
      (m.instr = .aclr c a → m.rows = [(r, n)] → ∀ k, new k = if 256 * r ≤ k ∧ k < 256 * (r + n) then 0 else old k) ∧
      (m.instr = .acpyToCoreStore c a b → m.ops = [r, n, A] →
        (∀ j, j < 1024 * n → cs u (base + A + j) = BitVec.ofNat 8 ((old (256 * r + j / 4)).toNat / 256 ^ (j % 4))) ∧
        (∀ k, k < base + A ∨ base + A + 1024 * n ≤ k → cs u k = cs s k) ∧ ∀ k, new k = old k) ∧
      (m.instr = .acpyToAccumulator c a b → m.rows = [(r, n)] → m.ops = [r, n, A] →
        (∀ k, k < 256 * n → new (256 * r + k) =
          BitVec.ofNat 32 (leNat ((List.range 4).map fun i => s.vatByte m none (A + 4 * k + i : Nat) m.done))) ∧
        ∀ k, k < 256 * r ∨ 256 * (r + n) ≤ k → new k = old k) ∧
      (m.instr = .awr c z q a → m.rows = [(r, 64)] → m.ops.getD 1 0 = q.val → c.type = .dflt ∨ c.type = .fp32 → ∀ k,
        new k = if 256 * r ≤ k ∧ k < 256 * (r + 64) ∧ k / 64 % 4 = q.val ∧ m.trapped.getLsbD (k / 256 - r) = false
          then Cells.get m.z0 (zKey (physZ m.base z.val) (k / 256 - r) (k % 64)) else old k) ∧
      (m.instr = .awr c z q a → m.rows = [(r, 64)] → m.ops.getD 1 0 = q.val → c.type ≠ .dflt → c.type ≠ .fp32 →
        let conv (i j : Nat) := round32 { mode := rmOf m.rm } (readAs c.type m.fin (Cells.get m.z0 (zKey (physZ m.base z.val) i j)).toNat)
        (∀ k, new k = if 256 * r ≤ k ∧ k < 256 * (r + 64) ∧ k / 64 % 4 = q.val ∧ m.trapped.getLsbD (k / 256 - r) = false
          then (conv (k / 256 - r) (k % 64)).1 else old k) ∧
        ∃ fl, after [] fl ∧ ∀ b, fl.getLsbD b = true ↔ ∃ i j, i < 64 ∧ j < 64 ∧ m.trapped.getLsbD i = false ∧ (conv i j).2.getLsbD b = true) ∧
      (m.instr = .ard c z q a → m.ops = [A, q.val] → c.type ≠ .dflt → c.type ≠ .fp32 → (∀ k, new k = old k) ∧
        let conv (i j : Nat) := writeAs c.type { rm with
          mode := if c.type.narrow then rm.mode else .rne, d := ditherD ((A + i) % 16) ((64 * q.val + j) % 16) m.dph }
            (fp32.read (old (256 * ((s.thread me).window.1 + A + i) + 64 * q.val + j)).toNat)
        ∃ ws fl, after ws fl ∧
          (∀ key v, RegW.z key v ∈ ws ↔ ∃ i j, i < 64 ∧ j < 64 ∧ key = zKey (physZ m.base z.val) i j ∧ m.trapped.getLsbD i = false ∧
            v = (conv i j).1) ∧ (∀ w ∈ ws, ∃ key v, w = .z key v) ∧
          ∀ b, fl.getLsbD b = true ↔ ∃ i j, i < 64 ∧ j < 64 ∧ (conv i j).2.getLsbD b = true) ∧
      (∀ nest, m.instr = .mmm c g h a init nest →
        let kc := (vatKc G.fmt H.fmt).getD 1
        let unit := vatUnit G.fmt H.fmt H.blk
        let ps := if nest then nestProducts (nestLevels m.nest) 0 G H else [{ row := 0, g := G, h := H }]
        m.rows.length = ps.length → ∃ ks : Nat → Calc, ks 0 = k0 ∧ (∀ k, new k = Cells.get (ks ps.length).acc k) ∧
          after [] (ks ps.length).fl ∧ ∀ (i : Nat) (p : BasicProduct) (row : Nat × Nat), ps[i]? = some p → m.rows[i]? = some row →
            let t0 := 16 + i * (H.nl * ((G.nk + kc - 1) / kc))
            let cols := s.columns m pg p.g H.fmt unit kc H.nl t0 m.vatReads
            let rows := s.actRows m (m.pins.getD 1 none) p.h unit kc t0 m.vatReads
            let out := product (ks i) { mode := .rne, sat := c.sat } init m.chk.isSome H.fmt row.1 cols.1 rows.1
            ks (i + 1) = { out with fl := out.fl ||| cols.2 ||| rows.2 }) ∧
      (m.instr = .mmc c g a init → m.ops = [A, r, n] → c.type = .dflt ∨ c.type = .bf16 ∨ c.type = .e4m3 →
        let src := (s.thread me).window.1 + r
        let kc := (vatKc G.fmt fmt).getD 1
        let unit := vatUnit G.fmt fmt 0
        let row (i : Nat) := mmcRow fmt rm m.dph m.fin unit i ((List.range G.nk).map fun k => old (256 * (src + i) + k))
        let cols := s.columns m pg G fmt unit kc n 16 m.vatReads
        let out := product k0 { mode := .rne, sat := c.sat } init m.chk.isSome fmt (m.rows.headD (0, 0)).1 cols.1
          ((List.range n).map fun i => (row i).1)
        (∀ k, new k = Cells.get out.acc k) ∧ ∃ fl, after [] (out.fl ||| fl) ∧
          ∀ b, fl.getLsbD b = true ↔ cols.2.getLsbD b = true ∨ ∃ i, i < n ∧ (row i).2.getLsbD b = true) ∧
      (m.instr = .ard c z q a → m.ops = [A, q.val] → c.type = .dflt ∨ c.type = .fp32 → (∀ k, new k = old k) ∧
        ∃ ws, after ws 0 ∧ (∀ w ∈ ws, ∃ key v, w = .z key v) ∧
          ∀ key v, RegW.z key v ∈ ws ↔ ∃ i j, i < 64 ∧ j < 64 ∧ key = zKey (physZ m.base z.val) i j ∧ m.trapped.getLsbD i = false ∧
            v = old (256 * ((s.thread me).window.1 + A + i) + 64 * q.val + j))))

/-- R137, R138, R158 to R160, R165: the elements of one basic product, and what a unit of K adds to one: for integer and group-coded pairs two
roundings a unit, for 16-bit pairs one; the units of a weight stream's column, of an activation stream's row and of a chained product's
row, and where a stream's element and scale record lie.
The sign of a zero product and NV beside a NaN are the reading of logs 73 to 75. -/
def Obligations.VatProduct : Prop :=
  ∀ (k : Calc) (r : Rounding) (init : Bool) (h : Fmt) (row : Nat) (cols : List (List WtUnit)) (rows : List (List ActUnit)) (ex : Int)
    (start : Word32) (ws : List WtUnit) (xs : List ActUnit) (w : WtUnit) (x : ActUnit),
    cols.length ≤ 256 → ws.length = xs.length →
    let wide : Bool := decide (h = .bf16 ∨ h = .fp16)
    let out := product k r init false h row cols rows
    (∀ i c u v, rows[i]? = some u → cols[c]? = some v → Cells.get out.acc (256 * (row + i) + c) =
      (accumulate r wide (actExp h) (if init then 0 else Cells.get k.acc (256 * (row + i) + c)) v u).1) ∧
    (∀ j, (∀ i c, i < rows.length → c < cols.length → j ≠ 256 * (row + i) + c) → Cells.get out.acc j = Cells.get k.acc j) ∧
    accumulate r wide ex start [] [] = (start, 0) ∧
    (let a := accumulate r false ex start ws xs
     let G := round32 r (unitValue w x ex)
     let b := round32 r (Val.add .rne (fp32.read a.1.toNat) (fp32.read G.1.toNat))
     accumulate r false ex start (ws ++ [w]) (xs ++ [x]) = (b.1, a.2 ||| G.2 ||| b.2)) ∧
    (let a := accumulate r true ex start ws xs
     let ps := (w.vals.zip x.vals).map fun p => Val.mul p.1 p.2
     let v := Val.sum .rne (fp32.read a.1.toNat :: ps.map Prod.fst)
     let b := round32 r (v.1, ps.foldl (fun f p => f ||| p.2) v.2)
     accumulate r true ex start (ws ++ [w]) (xs ++ [x]) = (b.1, a.2 ||| b.2)) ∧
    (x.nan = true → unitValue w x ex = (.nan, 0)) ∧
    (x.nan = false → w.s.finite = true → x.bs.finite = true → w.codes.length = x.ints.length →
      let d := ((w.codes.zip x.ints).map fun p => p.1 * p.2).sum - w.zp * x.ints.sum
      unitValue w x ex = Val.mul (Val.mul w.s x.bs).1 (.num (decide (d < 0)) d.natAbs ex false)) ∧
    (∀ (s : State) (m : VatCmd) (p : Option Pin) (g : Stream) (e i c l kc nr tau : Nat) (reads : List SegRead), 0 < e → i * e < g.nk →
      let n := min g.nk (i * e + e) - i * e
      let cyc (k l : Nat) : Nat := m.readAt reads (tau + nr * (k / kc) + l)
      let raw (l j : Nat) : Nat := s.vatElem m p g (i * e + j) l (cyc (i * e + j) l)
      let rec_ (l grp n : Nat) : Nat := s.vatRec m p g (i * e / grp) l n (cyc (i * e / grp * grp) l)
      let cols := (s.columns m p g h e kc nr tau reads).1
      let rows := (s.actRows m p g e kc tau reads).1
      let rawA (j : Nat) : Nat := s.vatElem m p g (i * e + j) l (m.readAt reads (tau + g.nl * ((i * e + j) / kc) + l))
      cols.length = g.nl ∧ rows.length = g.nl ∧
      (c < g.nl → ∃ col w, cols[c]? = some col ∧ col[i]? = some w ∧
        (wide = true → w.vals = (List.range n).map fun j => (readAs g.fmt m.fin (raw c j)).1) ∧
        (wide = false → g.fmt.group = 0 → w.codes = ((List.range n).map fun j => sext (raw c j) g.fmt.width) ∧ w.s = .one ∧ w.zp = 0) ∧
        (wide = false → g.fmt.group ≠ 0 → w.codes = ((List.range n).map fun j => ((raw c j : Nat) : Int)) ∧
          w.s = (fp16.input m.fin (rec_ c g.fmt.group 3 % 65536)).1 ∧
          w.zp = bits (rec_ c g.fmt.group 3) 16 (if g.fmt.width = 4 then 4 else 8))) ∧
      (l < g.nl → ∃ row x, rows[l]? = some row ∧ row[i]? = some x ∧
        let vs := (List.range n).map fun j => (readAs g.fmt m.fin (rawA j)).1
        (g.fmt = .i8 → x.ints = ((List.range n).map fun j => sext (rawA j) 8) ∧ x.nan = false) ∧
        (g.fmt = .e4m3 → x.ints = vs.map actInt ∧ x.nan = vs.any Val.isNan) ∧ (g.fmt ≠ .i8 → g.fmt ≠ .e4m3 → x.vals = vs) ∧
        (g.fmt = .i8 ∨ g.fmt = .e4m3 → x.bs = if g.blk = 0 then .one else fp32.read (s.vatRec m p g (i * e / g.blk) l 4
          (m.readAt reads (tau + g.nl * ((i * e / g.blk * g.blk) / kc) + l))))) ∧
      (let pos := g.p0 + (c % g.e.getD 0 0 : Nat) * g.t.getD 0 0 + (l % g.e.getD 1 0 : Nat) * g.t.getD 1 0 +
          (c / g.e.getD 0 0 : Nat) * g.t.getD 2 0 + (l / g.e.getD 1 0 : Nat) * g.t.getD 3 0
       (g.fmt.width ≠ 4 → s.vatElem m p g c l nr =
         leNat ((List.range (elemBytes g.fmt)).map fun b => s.vatByte m p ((g.base : Int) + pos * elemBytes g.fmt + (b : Nat)) nr)) ∧
       (g.fmt.width = 4 → s.vatElem m p g c l nr = (s.vatByte m p ((g.base : Int) + pos.fdiv 2) nr).toNat / 16 ^ (pos.fmod 2).toNat % 16) ∧
       s.vatRec m p g c l kc nr = leNat ((List.range kc).map fun b =>
         s.vatByte m p ((g.saddr : Int) + g.soff + c * g.sks + l * g.sns + (b : Nat)) nr))) ∧
    (∀ (f : Fmt) (ph unit i j : Nat) (fin : Bool) (es : List Word32), f = .bf16 ∨ f = .e4m3 → 0 < unit → j * unit < es.length →
      ∃ y, (mmcRow f r ph fin unit i es).1[j]? = some y ∧
        let code (k : Nat) : Nat := (writeAs f { r with d := ditherD (i % 16) (k % 128 % 16) (ph + k / 128) } (fp32.read (es.getD k 0).toNat)).1.toNat
        let n := min es.length (j * unit + unit) - j * unit
        let vs := (List.range n).map fun k => (readAs f fin (code (j * unit + k))).1
        (f = .bf16 → y.vals = vs) ∧ (f = .e4m3 → y.ints = vs.map actInt ∧ y.nan = vs.any Val.isNan ∧ y.bs = .one))

/-! The copy engines. -/

/-- R202, R213, R217 to R225: the copy forms as an engine accepts them. A release waits for the earlier updates of the S queue to issue,
then drains its scope; no free engine holds the word; only as an engine takes it is its descriptor read and checked: a fault of the
descriptor, of the plan or of the barrier refuses it, and a page under migration keeps it waiting (R252); else the copy is the engine's, with its pieces.
R213: an engine takes one word a cycle and holds at most 16. -/
def Obligations.CopyWords : Prop :=
  (∀ (s t u v : State) (c : Ctl) (e : Entry) (th : Thread) (a b r : SReg) (sc : Scope) (o : Order) (n : Nat) (p : CopyPlan)
    (bar : Option Nat) (f : FRec), s.CanRun c e th →
    let x := s.ctx c e
    let me := s.cur.1
    let s0 := s.setThread me th
    let stops (t : State) (f : FRec) : Outcome State Fault Refusal := .next (if f.waits then t else t.raise me { f with pc := e.pc, q := s.cur.2 })
    let read (plan : Desc → State → Planning) (t : State) : Planning := match x.desc t (x.s t a) with
      | .error f => (.error f, t)
      | .ok d => plan d t
    let near : List (Instr × (State → Planning)) :=
      [(.cpy c a b, read x.planCpy), (.cgth c a b r, read (x.planIndexed 1 r)), (.csct c a b r, read (x.planIndexed 2 r)),
        (.cbcst c a b r, read (x.planCbcst r))]
    let far : List (Instr × (State → Planning)) := [(.xput c a b r, read (x.planXput r)), (.xget c a b, read x.planXget)]
    let seg : List (Instr × (State → Planning)) := [(.seghold c a b r, x.planSeghold a r)]
    let kv : List (Instr × (State → Planning)) :=
      [(.kvapp c a b r, fun t => t.planKvapp me (x.s t a) (x.s t r)), (.kvcmp c a b r, fun t => t.planKvcmp me (x.s t a) (x.s t r))]
    let W : Scope := match x.desc s0 (x.s s0 a) with
      | .ok d => d.widest
      | .error _ => .system
    let runs (w : Scope) (g : Instr × (State → Planning)) : Prop :=
      let early := (c.ordering .both w).2.1.releases = true ∧ ∃ y ∈ th.qs.es, y.seq < e.seq ∧ y.isUpdate = true
      (early → exec g.1 s = .next s0) ∧
      (¬ early → x.Passes s0 .both w sc o t →
        (o.releases = true → (t.thread me).csLanded e.seq = false → exec g.1 s = .next t) ∧
        (o.releases = false ∨ (t.thread me).csLanded e.seq = true →
          (t.engine me.st = none → exec g.1 s = .next t) ∧
          (t.engine me.st = some n → g.2 t = (.error f, u) → exec g.1 s = stops u f) ∧
          (t.engine me.st = some n → g.2 t = (.ok p, u) → u.copyBar me (x.s t b) = (.error f, v) → exec g.1 s = stops v f) ∧
          (t.engine me.st = some n → g.2 t = (.ok p, u) → u.copyBar me (x.s t b) = (.ok bar, v) → ∃ w j,
            exec g.1 s = .next (s.issued w c { order := true } e 0) ∧ w.mem = v.mem ∧ (w.thread me).kvRestart = false ∧
            (w.thread me).creg 0x013 = (v.thread me).creg 0x013 ||| flagIf p.rsv flRSVWARN ∧
            (w.station me.st).copies = (v.station me.st).copies ++ [j] ∧ j.t = me ∧ j.e.seq = e.seq ∧ j.engine = n ∧ j.acc = v.cyc ∧
            j.pieces = p.pieces ∧ j.bar = bar ∧ j.rbar = p.rbar ∧ j.tag = p.tag ∧ j.kv = p.kv)))
    (∀ g ∈ near, runs W g) ∧ (∀ g ∈ far, runs .system g) ∧ (∀ g ∈ seg, runs .station g) ∧ (∀ g ∈ kv, runs .system g))
  ∧ (∀ (t : State) (x : Ctx) (A : Word),
    (A.toNat % 64 ≠ 0 → x.desc t A = .error (fAlign A)) ∧
    (A.toNat % 64 = 0 → (x.th t).csBytes < A.toNat + 128 → x.desc t A = .error (fOver 2)) ∧
    (∀ d, x.desc t A = .ok d → d.ssp ≤ 1 ∧ d.dsp ≤ 1 ∧ d.esz ≤ 6 ∧ d.total ≤ 2 ^ 31))
  ∧ (∀ (s : State) (st n : Nat),
    let held (i : Nat) : List CopyJob := (s.station st).copies.filter fun k => k.engine == i
    (s.engine st = some n → n < 2 ∧ (held n).length < 16 ∧ ∀ k ∈ held n, k.acc ≠ s.cyc) ∧
    (s.engine st = none → ∀ i, i < 2 → 16 ≤ (held i).length ∨ ∃ k ∈ held i, k.acc = s.cyc))

/-- R214, R215, R218: the bytes that a descriptor's pieces move, in order: element by element, the first dimension fastest, each byte
once for each time the descriptor names it; no piece crosses a 4 KiB boundary on either side. The pieces of a descriptor are its elements,
joined to runs and cut, unless an element is misaligned. -/
def Obligations.CopyRuns : Prop :=
  ∀ (d : Desc) (idx : List Nat) (rs : List Run) (es : List (Nat × Nat)) (n i j e0 : Nat) (s0 d0 : Int) (x : List Nat),
    let bytes (r : Run) : List (Nat × Nat) := (List.range r.len).map fun i => (r.src + i, r.dst + i)
    ((cutRuns rs).flatMap bytes = rs.flatMap bytes) ∧
    (∀ r ∈ cutRuns rs, 0 < r.len ∧ r.src % 4096 + r.len ≤ 4096 ∧ r.dst % 4096 + r.len ≤ 4096) ∧
    ((copyRuns n es).flatMap bytes = es.flatMap fun p => (List.range n).map fun i => (p.1 + i, p.2 + i)) ∧
    (d.e = [e0, 1, 1, 1, 1, 1] → d.ss = [s0, 0, 0, 0, 0, 0] → d.ds = [d0, 0, 0, 0, 0, 0] → i < e0 →
      (d.elems 0 idx)[i]? = some ((d.src + BitVec.ofInt 64 (i * s0)).toNat, (d.dst + BitVec.ofInt 64 (i * d0)).toNat)) ∧
    (idx[j]? = some n → i < d.e.headD 1 →
      (d.elems 1 idx)[j * d.e.headD 1 + i]? = some ((d.src + BitVec.ofInt 64 (n * d.ss.getD 1 0 + i * d.ss.headD 0)).toNat,
        (d.dst + BitVec.ofInt 64 (j * d.ds.getD 1 0 + i * d.ds.headD 0)).toNat) ∧
      (d.elems 2 idx)[j * d.e.headD 1 + i]? = some ((d.src + BitVec.ofInt 64 (j * d.ss.getD 1 0 + i * d.ss.headD 0)).toNat,
        (d.dst + BitVec.ofInt 64 (n * d.ds.getD 1 0 + i * d.ds.headD 0)).toNat)) ∧
    (d.e.length = 6 → d.ss.length = 6 → d.ds.length = 6 → (∀ k, k < 6 → x.getD k 0 < d.e.getD k 1) →
      let far (l : List Int) : Word := BitVec.ofInt 64 ((List.range 6).map fun k => (x.getD k 0 : Int) * l.getD k 0).sum
      (d.elems 0 idx)[(List.range 6).foldr (fun k m => x.getD k 0 + d.e.getD k 1 * m) 0]? =
        some ((d.src + far d.ss).toNat, (d.dst + far d.ds).toNat)) ∧
    (∀ sel, (∀ p ∈ d.elems sel idx, p.1 % min d.bytes 8 = 0 ∧ p.2 % min d.bytes 8 = 0) →
      d.runs sel idx = .ok (cutRuns (copyRuns d.bytes (d.elems sel idx)))) ∧
    (∀ sel, (∃ p ∈ d.elems sel idx, p.1 % min d.bytes 8 ≠ 0 ∨ p.2 % min d.bytes 8 ≠ 0) ↔ ∃ f, d.runs sel idx = .error f)

/-- R213, R215, R216, R221 to R223, R225, R258: a piece that can be performed moves its bytes, takes its engine's cycles, credits its
barrier and leaves the copy, which is over with its last piece; or it is taken apart into units of at most 8 bytes; a piece of a segment
that has gone ends the copy in a fault, or short where it was held. CWAIT waits for the copies before it and takes SHORT; CCNCL ends
short the thread's copies that have something that is not begun, once what they have begun is done; the others go on to their end.
Which copies SHORT tells of is log 53's reading. -/
def Obligations.CopySteps : Prop :=
  ∀ (s u : State) (c : Ctl) (e : Entry) (th : Thread) (w : Token) (st id i : Nat) (k : CopyJob) (p : Piece) (r : KvRun) (bs : List Byte)
    (x : TPiece),
    let s0 := s.setThread s.cur.1 th
    let ctx := (s.thread k.t).ctx
    (st < 48 → s.copy? st id = some k → s.canPiece st k i = true → k.pieces[i]? = some p →
      (s.pieceStands st k p = true → s.locRead k.t p.src p.len = (bs, u) → exec (.copyPiece st id i) s =
        .next (((u.locWrite st (u.thread k.t).ctx p.dst bs).engineTakes st k p.len).afterPiece st { k with pieces := k.pieces.eraseIdx i }
          (p.creditOf (k.pieces.eraseIdx i)))) ∧
      (∀ f b, s.pieceStands st k p = false → p.src = .seg f b → k.tag = none → exec (.copyPiece st id i) s =
        .next ((s.dropCopy st k.id).opFault k.t .c k.e (fXlate 0x1 0 (BitVec.ofNat 64 (segBase + f * 2 ^ 22 + b))))) ∧
      (s.pieceStands st k p = false → k.tag ≠ none → exec (.copyPiece st id i) s = .next (s.copyShort st id))) ∧
    (st < 48 → s.copy? st id = some k → s.canPiece st k (k.pieces.length + i) = true → k.pieces ≠ [] → exec (.copyPiece st id (k.pieces.length + i)) s =
      .next (s.fresh.2.modCopy st id fun k => { k with pieces := cutAt k.pieces i (s.fresh.1 + 1) })) ∧
    (((p.units i).map Piece.len).sum = p.len ∧ (∀ q ∈ p.units i, q.len ≤ 8 ∧ q.grp = i ∧ q.whole = p.len) ∧
      (p.grp = 0 → p.creditOf k.pieces = p.len) ∧ (p.grp ≠ 0 → (∃ q ∈ k.pieces, q.grp = p.grp) → p.creditOf k.pieces = 0) ∧
      (p.grp ≠ 0 → (∀ q ∈ k.pieces, q.grp ≠ p.grp) → p.creditOf k.pieces = p.whole)) ∧
    (k.kv = none → k.pieces = [] → ∃ t, t = s.afterPiece st k i ∧
      (k.cancel = true → s.copy? st k.id = some k → (t.thread k.t).short.isSome = true) ∧
      ∀ j ∈ (t.station st).copies, j.id ≠ k.id) ∧
    (∀ pa a, (∀ n, ∀ q ∈ (s.station n).qres, q.bytes.length = 64) → (s.locWrite st ctx (.mem pa) bs).homeByte a =
      if pa ≤ a ∧ a < pa + bs.length then bs.getD (a - pa) 0 else s.homeByte a) ∧
    (∀ co a j, (∀ i, i < bs.length → Cells.get ((s.locWrite st ctx (.cs co a) bs).core st co).cs (a + i) = bs.getD i 0) ∧
      (j < a ∨ a + bs.length ≤ j → Cells.get ((s.locWrite st ctx (.cs co a) bs).core st co).cs j = Cells.get (s.core st co).cs j)) ∧
    (st < 48 → s.copy? st id = some k → s.canPiece st k 0 = true → k.pieces = [] → k.kv = some r → r.total ≤ r.next →
      exec (.copyPiece st id 0) s = .next (s.kvSwap st k r 0)) ∧
    (48 ≤ st → s.canTile (st - 48) i = true → ((s.engineOf (st - 48)).pieces)[i]? = some x →
      s.locRead (dispTid (s.engineOf (st - 48)).stn) x.p.src x.p.len = (bs, u) →
      let rest := (s.engineOf (st - 48)).pieces.eraseIdx i
      let v := (u.locWrite (u.engineOf (st - 48)).stn 0 x.p.dst bs).creditSome x.bar (x.p.creditOf (rest.map TPiece.p))
      exec (.copyPiece st id i) s = .next (v.modEngine (st - 48) fun w => { w with pieces := rest })) ∧
    (s.CanRun c e th →
      let me := s.cur.1
      let mine := (s.station me.st).copies.filter fun j => j.t == me
      (s0.copiesDone me e.seq = false → exec (.cwait c false w) s = .next s0) ∧
      (s0.copiesDone me e.seq = true → ∃ t, exec (.cwait c false w) s = .next (s.issued t c {} e 0) ∧ t.mem = s.mem ∧
        ((t.thread me).creg 0x01B).getLsbD 63 = th.shortBefore e.seq) ∧
      (th.tokenCount ≤ w.val → exec (.cwait c true w) s = .next (s0.raise me { fOver 4 with pc := e.pc, q := s.cur.2 })) ∧
      (w.val < th.tokenCount → s0.copiesDone me e.seq = false ∨ 15 ≤ th.tokensHeld w.val → exec (.cwait c true w) s = .next s0) ∧
      (w.val < th.tokenCount → s0.copiesDone me e.seq = true → th.tokensHeld w.val < 15 → ∃ (t : State) (n : Thread),
        exec (.cwait c true w) s = .next (s.issued (t.setThread me n) c {} e 0) ∧
        n = (t.thread me).write s.tcyc 1 e.seq s.cur.2 [.tok w.val (some (.c, e.seq + 1))] ∧
        ⟨.c, e.seq, [.short (th.shortBefore e.seq)]⟩ ∈ n.unobs) ∧
      let drops (j : CopyJob) : Bool := j.t == me && j.unbegun && j.begun.isEmpty
      ∃ t, t.mem = s.mem ∧
        exec (.ccncl c) s = .next (if mine.all drops then s.issued t c {} e 0 else t) ∧
        (t.station me.st).copies = ((s.station me.st).copies.filter fun j => !drops j).map (fun j =>
          if j.t == me && j.unbegun then { j with pieces := j.begun, cancel := true } else j) ∧
        (∀ j ∈ mine, drops j = true → ∃ n, (t.thread me).short = some n ∧ n ≤ j.e.seq) ∧
        ((∀ j ∈ mine, drops j = false) → (t.thread me).short = th.short))

/-! The memory system's own steps. -/

/-- R182, R226, R229, R241, R249: an operation of a thread under way. A walk's answer sends it on, ends it in a fault, or drops a
prefetch. Once no earlier access of the thread to its line and no write-back of the line is under way, a load reads through the
L1, past it for an NC leaf or an acquire once the line's dirty bytes are written back, or from a segment, with the thread's earlier
buffered stores merged over what it reads.
R30, R201, R229, R296: what the end of an operation leaves: its result waits to be observed, its queue goes on, or the acquire's
invalidation begins; and its end in a fault, which puts the word back at the head of its queue.
A segment's bytes are those of the segment that stood in the frame as the load left the core, be it gone since (R265).
The dirty bytes that go before such a load, and the own stores over it, are log 13's reading. -/
def Obligations.LoadSteps : Prop :=
  (∀ (s u : State) (t : Tid) (id pa : Nat) (nc : Bool) (o : MemOp) (f : FRec) (l : Line) (r : Resident), s.op? t id = some o →
    let th := s.thread t
    let c := s.core t.st t.co
    let acc : Access := if o.kind.atHome then .atomic else .read
    let answer (g : Target) : Prop := o.stage = .walk ∧ s.walkWaits t th.ctx o.va.toNat = false ∧
      s.targetFill t th.ctx th.priv o.va acc o.size = (g, u)
    let first : Prop := ∀ p ∈ th.ops, p.id < o.id → p.kind.access = true → p.stage ≠ .done → sameLine p.pa o.pa p.va o.va = false
    let goes : Prop := o.kind = .load ∧ o.stage = .send ∧ o.rel = none ∧ o.pa = some pa ∧ first ∧ th.aliasWaits (some o.e.seq) pa o.va o.size = false
    let free : Prop := isSegPa pa = false ∧ (∀ w ∈ c.wbs, w.pa / 128 ≠ pa / 128) ∧ s.pageHeld pa = false ∧ s.paKind pa = .own
    let frame := (pa - 2 ^ 52) / 2 ^ 22
    let b := (pa - 2 ^ 52) % 2 ^ 22
    let merged (v : State) (n : Nat) : Word := BitVec.ofNat 64 ((v.thread t).mergeStores (some o.e.seq) pa o.size n)
    (answer (.at_ pa nc) → o.kind = .load → exec (.pageWalk t id) s = .next (u.modOp t id fun p =>
      { p with pa := some pa, nc := p.nc || nc, stage := .send, since := u.cyc, rel := p.rel.map fun r => if r.scope = .unset then { r with scope := u.barScope pa } else r })) ∧
    (answer (.fault f) → o.kind ≠ .pref → exec (.pageWalk t id) s = .next (u.failOp t o f)) ∧
    (answer (.fault f) → o.kind = .pref → exec (.pageWalk t id) s = .next (u.dropOp t id)) ∧
    (goes → free → o.nc = false → c.line? (pa / 128 * 128) = some l → l.serves (pa % 128) o.size = true →
      exec (.loadComplete t id) s = .next ((s.modCore t.st t.co fun c => c.touch (pa / 128 * 128)).finishOp t
        { o with res := merged s (l.data.toNat / 2 ^ (8 * (pa % 128)) % 2 ^ (8 * o.size)) })) ∧
    (goes → free → o.nc = false → s.l1Serves t o pa = false → exec (.homeSliceRead (.thr t id)) s =
      .next ((s.readMarks (pa / 128 * 128) 128).fillLine t.st t.co (pa / 128 * 128))) ∧
    (goes → free → o.nc = true → (c.line? (pa / 128 * 128) = none ∨ c.line? (pa / 128 * 128) = some l ∧ l.mask = 0) →
      ∃ v w, v = s.readMarks pa o.size ∧ w = v.modCore t.st t.co (fun c => c.staleLine pa) ∧ exec (.homeSliceRead (.thr t id)) s =
        .next (w.modOp t id fun p => { p with res := merged w (v.homeN pa o.size), stage := .done })) ∧
    (goes → isSegPa pa = false → o.nc = true → c.line? (pa / 128 * 128) = some l → l.mask ≠ 0 → t ∈ s.tids →
      exec (.dirtyLineWriteback t.st t.co (pa / 128 * 128)) s = .next (s.writeBack t.st t.co (pa / 128 * 128) true)) ∧
    (o.stage = .walk → s.walkWaits t th.ctx o.va.toNat = true → exec (.pageWalk t id) s = .next s) ∧
    (goes → isSegPa pa = true → o.seg = some r → r.arrive + 8 + (b + o.size - 1) / 6400 ≤ s.cyc → o.since + 32 ≤ r.expiry →
      (s.hasFrame t.st frame = true → (s.frame t.st frame).arriveSlot = r.arriveSlot → exec (.loadComplete t id) s =
        .next ((s.readSegMarks t.st frame b o.size).finishOp t { o with res := BitVec.ofNat 64 (leNat ((s.frame t.st frame).bytes.bytes b o.size)) })) ∧
      (s.hasFrame t.st frame = false ∨ (s.frame t.st frame).arriveSlot ≠ r.arriveSlot → exec (.loadComplete t id) s =
        .next (s.finishOp t { o with res := BitVec.ofNat 64 (leNat (r.bytes.bytes b o.size)) }))) ∧
    (goes → isSegPa pa = true → o.seg = some r → s.cyc < r.arrive + 8 + (b + o.size - 1) / 6400 → exec (.loadComplete t id) s = .next s) ∧
    (goes → isSegPa pa = true → o.seg = none → s.frameHas t.st frame b o.size = false ∨ o.since + 32 ≤ (s.frame t.st frame).arrive → exec (.loadComplete t id) s = .next (s.failOp t o (fXlate 0x1 0 o.va))) ∧
    (o.stage = .done → exec (.loadComplete t id) s = .next (s.finishOp t o)) ∧
    (goes → s.paKind pa = .gone → isSegPa pa = false → o.since + 65536 ≤ s.cyc → t.st < 48 →
      exec (.accessUndeliverable (.thr t id)) s = .next (s.failOp t o (fXlate 0x5 (s.leafLevel t th.ctx o.va.toNat) o.va))))
  ∧ (∀ (s : State) (t : Tid) (o : MemOp) (f : FRec) (scope : Scope),
    let th := s.thread t
    let u := s.finishOp t o
    let v := s.failOp t o f
    let left := th.ops.filter fun p => p.id ≠ o.id
    (u.thread t).ops = left ∧ u.mem = s.mem ∧ u.cores = s.cores ∧ u.stations = s.stations ∧ (∀ w : Tid, Tid.key w ≠ Tid.key t → u.thread w = s.thread w) ∧
    (u.thread t).s = th.s ∧
    (u.thread t).unobs = th.unobs ++ (if o.dst < 64 ∨ o.kind = .deq ∧ o.dst2 < 64 then [⟨o.q, o.e.seq,
      (if o.dst < 64 then [RegW.s o.dst o.res] else []) ++ (if o.kind = .deq ∧ o.dst2 < 64 then [RegW.s o.dst2 o.res2] else [])⟩] else []) ∧
    (o.acq = none ∨ o.acq = some .thread ∨ o.acq = some .core → (u.thread t).acq = th.acq ∧
      ((th.queue o.q).blk = some o.id → ((u.thread t).queue o.q).blk = none)) ∧
    (o.acq = some scope → scope ∈ [Scope.station, .modul, .domain, .system] → (u.thread t).acq = th.acq ++
        [⟨scope, s.cyc + 64 + s.invalCount t.st t.co scope, o.q⟩] ∧ ((u.thread t).queue o.q).blk = (th.queue o.q).blk) ∧
    v.mem = s.mem ∧ (v.thread t).ops = left ∧ (v.thread t).unobs = th.unobs ∧ (v.thread t).s = th.s ∧
    (th.status = .running → th.newFault = none → th.drain = none → (v.thread t).newFault = some { f with pc := o.e.pc, q := o.q, cyc := s.cyc } ∧
      ∃ e, ((v.thread t).queue o.q).es = e :: (th.queue o.q).es ∧ e.word = o.e.word ∧ e.pc = o.e.pc ∧ e.seq = o.e.seq))

/-- R191, R197, R198, R206, R228, R376: a buffered store leaves for the L1, whose line takes its bytes and no others, or past the L1; the oldest
dirty line leaves as one write of its dirty bytes; a marker leaves once every write-back made before it is acknowledged; a write
arrives and changes its own bytes alone. -/
def Obligations.StoreSteps : Prop :=
  ∀ (s : State) (t : Tid) (b : SbEntry) (rest : List SbEntry) (pa : Nat) (st co id : Nat) (l : Line) (w : Wb) (la ord : Nat),
    let th := s.thread t
    let c := s.core t.st t.co
    let k := s.core st co
    let old : Prop := th.sb = b :: rest ∧ b.pa = some pa ∧ ∀ o ∈ th.ops, o.e.seq < b.e.seq → o.kind.access = true → o.stage ≠ .done → sameLine o.pa b.pa o.va b.va = false
    let calm : Prop := ∀ n, ∀ q ∈ (s.station n).qres, q.bytes.length = 64
    (old → b.past = false → c.line? (pa / 128 * 128) = some l → l.la = pa / 128 * 128 → c.fifoLines < 2048 → pa % 128 + b.size ≤ 128 → 0 < b.size → b.size ≤ 8 →
      ∃ (u : State) (m : Line), exec (.storeBufferDrain t) s = .next u ∧ (u.thread t).sb = rest ∧ u.mem = s.mem ∧
        (u.core t.st t.co).line? (pa / 128 * 128) = some m ∧ m.clean = l.clean ∧
        (∀ i, i < 128 → m.byte i = (if pa % 128 ≤ i ∧ i < pa % 128 + b.size then BitVec.ofNat 8 (b.v.toNat / 256 ^ (i - pa % 128)) else l.byte i) ∧
          (m.mask.getLsbD i = true ↔ l.mask.getLsbD i = true ∨ pa % 128 ≤ i ∧ i < pa % 128 + b.size)) ∧
        (u.core t.st t.co).fifo = c.fifo ++ (if l.mask = 0 then [.line (pa / 128 * 128)] else [])) ∧
    (old → b.past = true → ∃ (u : State) (x : Wb), exec (.storeBufferDrain t) s = .next u ∧ (u.thread t).sb = rest ∧ u.mem = s.mem ∧
      x ∈ (u.core t.st t.co).wbs ∧ x.pa = pa ∧ x.by_ = some t ∧ x.bytes = bytesAt pa b.size b.v.toNat ∧
      (u.core t.st t.co).line? (pa / 128 * 128) = none) ∧
    (s.nextBack st co = some la → k.line? la = some l → l.la = la → l.mask ≠ 0 → ∃ (u : State) (x : Wb), exec (.dirtyLineWriteback st co la) s = .next u ∧ u.mem = s.mem ∧
      (u.core st co).wbs = k.wbs ++ [x] ∧ x.pa = la ∧ x.by_ = none ∧ (∀ a v, (a, v) ∈ x.bytes ↔ ∃ o, o < 128 ∧ a = la + o ∧ v = l.byte o ∧ l.mask.getLsbD o = true) ∧
      (FifoE.line la ∉ (u.core st co).fifo) ∧ (u.core st co).line? la = (if l.clean then some { l with mask := 0 } else none)) ∧
    (k.fifo.head? = some (.mark id ord) → (∀ x ∈ k.wbs, x.by_ = none → ord ≤ x.ord) → exec (.releaseMarkerLeave st co) s =
      .next (s.modCore st co fun c => { c with fifo := c.fifo.tail })) ∧
    (k.fifo.head? = some (.mark id ord) → (∃ x ∈ k.wbs, x.by_ = none ∧ x.ord < ord) → exec (.releaseMarkerLeave st co) s = .next s) ∧
    (k.wbs.find? (fun x => x.id == id) = some w → w.away = false → s.pageHeld w.pa = false → (k.wbs.takeWhile fun x => x.id ≠ id).all (fun x => x.pa / 128 ≠ w.pa / 128) = true →
      s.paKind w.pa = .own → ∃ u, exec (.homeSliceWrite (.wb st co id)) s = .next u ∧ (u.core st co).wbs = k.wbs.filter (fun x => x.id ≠ id) ∧
        (calm → (w.bytes.map Prod.fst).Nodup → ∀ a, (∀ v, (a, v) ∈ w.bytes → u.homeByte a = v) ∧ ((∀ v, (a, v) ∉ w.bytes) → u.homeByte a = s.homeByte a)))

/-- R205 to R212, R303, R360: the operations that execute at the home slice: AMO and CAS answer the old value and write the new one, in one step;
ENQ and DEQ move one entry or answer full, empty or bad; a barrier word updates its object and the issuing thread's slot; ACCEPT and
COMMIT write FIDX and PEND. -/
def Obligations.HomeUpdates : Prop :=
  ∀ (s : State) (t : Tid) (id pa a : Nat) (o : MemOp) (op : AmoOp) (commit : Bool) (nc : Bool), s.op? t id = some o → o.stage = .send → o.rel = none → o.pa = some pa →
    (∀ p ∈ (s.thread t).ops, p.id < o.id → p.kind.access = true → p.stage ≠ .done → sameLine p.pa o.pa p.va o.va = false) →
    isSegPa pa = false → (∀ w ∈ (s.core t.st t.co).wbs, w.pa / 128 ≠ pa / 128) → s.migrOf pa = none → s.pageHeld pa = false → s.paKind pa = .own →
    let th := s.thread t
    let m := s.readMarks pa o.size
    let old := m.homeN pa o.size
    let bits := 8 * o.size
    let x : BitVec bits := BitVec.ofNat bits old
    let y : BitVec bits := o.v1.setWidth bits
    let new : BitVec bits := match op with
      | .add => x + y | .and => x &&& y | .or => x ||| y | .xor => x ^^^ y | .xchg => y
      | .min => if x.toInt ≤ y.toInt then x else y
      | .max => if x.toInt ≤ y.toInt then y else x
      | .minn => if x.toNat ≤ y.toNat then x else y
      | .maxn => if x.toNat ≤ y.toNat then y else x
    let done (u : State) (r1 r2 : Word) : Outcome State Fault Refusal := .next ((u.staleAt t pa).modOp t id fun p => { p with res := r1, res2 := r2, stage := .done })
    (o.kind = .amo op → o.size = 4 ∨ o.size = 8 → exec (.homeAtomic (.thr t id)) s =
      .next ((((m.plainPut (bytesAt pa o.size new.toNat)).dropContend pa).staleAt t pa).modOp t id fun p => { p with res := BitVec.ofNat 64 old, stage := .done })) ∧
    (o.kind = .cas → o.size = 4 ∨ o.size = 8 → exec (.homeAtomic (.thr t id)) s =
      .next ((((if old = o.v2.toNat % 2 ^ bits then m.plainPut (bytesAt pa o.size (o.v1.toNat % 2 ^ bits)) else m).dropContend pa).staleAt t pa).modOp t id fun p =>
        { p with res := BitVec.ofNat 64 old, stage := .done })) ∧
    (let q := (s.readMarks pa 64).queueMiss (paStation pa) th.ctx pa
     let B := q.homeN pa 8
     let cap := q.homeN (pa + 8) 8 % 32
     let head := q.homeN (pa + 16) 8
     let tail := q.homeN (pa + 24) 8
     let n := (BitVec.ofNat 64 tail - BitVec.ofNat 64 head).toNat
     let at_ (i : Nat) : Xl × State := q.xlateTo t th.ctx th.priv ((B + 8 * (i % 2 ^ cap)) % 2 ^ 64) 8 .atomic
     let bad : Prop := 20 < cap ∨ 2 ^ cap < n
     (o.kind = .enq → (bad → exec (.homeQueueOp (.thr t id)) s = done q 2 0) ∧
       (¬ bad → n = 2 ^ cap → exec (.homeQueueOp (.thr t id)) s = done q 1 0) ∧
       (¬ bad → n ≠ 2 ^ cap → (at_ tail).1 = .pa a nc → (at_ tail).2.paKind a = .own → paStation a = paStation pa → paModule a = paModule pa →
         exec (.homeQueueOp (.thr t id)) s = done (((at_ tail).2.plainPut (bytesAt a 8 o.v1.toNat)).homePutN (pa + 24) 8 (tail + 1)) 0 0)) ∧
     (o.kind = .deq → (bad → exec (.homeQueueOp (.thr t id)) s = done q 0 2) ∧
       (¬ bad → n = 0 → exec (.homeQueueOp (.thr t id)) s = done q 0 1) ∧
       (¬ bad → n ≠ 0 → (at_ head).1 = .pa a nc → (at_ head).2.paKind a = .own → paStation a = paStation pa → paModule a = paModule pa →
         exec (.homeQueueOp (.thr t id)) s =
           done (((at_ head).2.readMarks a 8).homePutN (pa + 16) 8 (head + 1)) (BitVec.ofNat 64 ((at_ head).2.homeN a 8)) 0))) ∧
    (let ph := (s.bobj pa).phase
     let b := ((th.bslot o.slot).bind o.va.toNat)
     let r := s.readMarks pa 16
     let ends (u : State) (b : BSlot) : Outcome State Fault Refusal := .next (((u.modThread t fun th => th.setBslot o.slot b).staleAt t pa).finishOp t o)
     (o.kind = .barv → exec (.homeBarrierUpdate (.thr t id)) s = ends (r.updateBar pa fun k => k.arrive 1 (o.v1.toNat % 2 ^ 32))
       { b with phase := ph, member := true, arrived := true, arrPhase := ph }) ∧
     (o.kind = .bexp → exec (.homeBarrierUpdate (.thr t id)) s = ends (r.updateBar pa fun k => k.expectMore o.v1) b) ∧
     (o.kind = .binit → exec (.homeBarrierUpdate (.thr t id)) s =
       ends (({ r with bars := (pa, false) :: r.bars.filter fun x => x.1 ≠ pa } : State).putBobj pa (BObj.init o.v1))
         { b with phase := 0, member := true, arrived := false })) ∧
    (o.kind = .row commit → exec (.homeSliceWrite (.thr t id)) s = .next ((((s.homePutN (pa + 6) 2 o.v1.toNat).homePutN (pa + 5) 1
      (setBits (s.homeN (pa + 5) 1) 1 1 (if commit then 0 else 1))).staleAt t pa).finishOp t o))

/-! A thread's own steps. -/

/-- R26, R27, R32, R35, R48: the splitter takes words only for a running thread that is not stopped; it places a word with its EXT words
at the tail of its queue and goes on, unless it is a control transfer; it stops at a full queue, at a word it cannot fetch, at a word
that is no instruction and at a privileged word without a guard at user privilege. A word comes from memory or from a block of the
instruction cache. R252: a word whose page, or a table of it, is under migration waits.
What the instruction cache holds is the model's choice (log 83). -/
def Obligations.SplitterWords : Prop :=
  ∀ (s u v : State) (t : Tid) (w n blk : Nat) (exts : List Nat) (i : Instr) (f : FRec) (r : DecErr) (c : Ctl),
    let th := s.thread t
    let pc := th.spl.pc.toNat
    let runs : Prop := th.status = .running ∧ th.slotHeld = true ∧ th.halted = false ∧ th.drain = none ∧ th.resumeFrom ≤ s.cyc ∧ th.restoring = none ∧
      th.spl.stop = .run ∧ th.spl.resumeAt ≤ s.tcyc
    let q := queueOf w
    let barred : Prop := th.priv = .user ∧ ∃ c, i.privileged = some c ∧ c.guarded = false
    let stopped (x : State) (f : FRec) : State := x.modThread t fun y => { y with spl := { y.spl with stop := .bad { f with pc := y.spl.pc } } }
    let here : Prop := s.fetchWaits t pc = false
    let got : Prop := here ∧ s.fetch t pc = (.ok w, v) ∧ isExt w = false ∧ v.fetchExts t 2 (pc + 4) = (exts, u)
    (runs → exec (.splitterFetch t) s = .next (s.splitBlock t (pc / 64) 16)) ∧ (¬ runs → exec (.splitterFetch t) s = .next s) ∧
    (pc / 64 = blk → s.splitBlock t blk (n + 1) = if (s.splitWord t).1 then (s.splitWord t).2.splitBlock t blk n else (s.splitWord t).2) ∧
    (pc / 64 ≠ blk → s.splitBlock t blk (n + 1) = s) ∧
    (¬ here → s.splitWord t = (false, s)) ∧
    (here → s.fetch t pc = (.error f, v) → s.splitWord t = (false, stopped v f)) ∧
    (here → s.fetch t pc = (.ok w, v) → isExt w = true → s.splitWord t = (false, stopped v { cause := 0x03 })) ∧
    (got → decodeInstr w exts = .error r → s.splitWord t = (false, stopped u (if r.isEncoding then { cause := 0x03 } else { cause := 0x02, sub := 0 }))) ∧
    (got → decodeInstr w exts = .ok i → barred → s.splitWord t = (false, stopped u { cause := 0x02, sub := 1 })) ∧
    (got → decodeInstr w exts = .ok i → ¬ barred → 32 ≤ (th.queue q).es.length → s.splitWord t = (false, u)) ∧
    (got → decodeInstr w exts = .ok i → ¬ barred → (th.queue q).es.length < 32 → ∃ (x : State) (e : Entry), s.splitWord t = (!i.transfers, x) ∧
      e.word = w ∧ e.exts = exts ∧ e.pc = th.spl.pc ∧ e.seq = th.seq ∧ e.base = th.spl.base ∧ e.pass = th.spl.pass ∧ e.placed = s.tcyc + 1 ∧
      ((x.thread t).queue q).es = (th.queue q).es ++ [e] ∧ (x.thread t).seq = th.seq + 1 ∧ (∀ p, p ≠ q → (x.thread t).queue p = th.queue p) ∧
      (x.thread t).spl = { th.spl with
        pc := th.spl.pc + BitVec.ofNat 64 (4 * (1 + exts.length)), pass := if i.startsLoop then 0 else th.spl.pass,
        stop := if i.transfers then .transfer th.seq else .run } ∧ x.mem = s.mem) ∧
    (∀ pa, (s.codeWord t pa).1 = s.homeN pa 4 ∨ ∃ y ∈ (s.core t.st t.co).icache, y.1 = pa / 64 ∧ (s.codeWord t pa).1 = leNat ((y.2.drop (pa % 64)).take 4)) ∧
    (∀ (d a b : SReg) (cl k : Fin 16), ∀ i ∈ ([.ttarm c a b, .haltx c a, .frzinfo c d a, .frzrd c d a cl, .frzwr c a b cl, .frzld c d a b, .frzst c d a b,
        .frzarv c a b, .frzres c a b, .frzkil c a, .tapprb c k a b, .tapstv c a b, .setc c a .tbskew, .setc c a .dl, .setc c a .ywin] : List Instr), i.privileged = some c)

/-- R8, R29, R66, R72, R97, R98: the register writes of a thread whose time has come land in the order of their landing cycle, their issue
cycle and the stream; the last one to a register is the one that stands; registers that none names keep their values.
R72, R76, R299: a SETC to DPH wins over an advance that lands with it; an event and a SETC to FLAGS in one cycle leave the event's bit set; a
BUDG lands before the charges of its cycle are subtracted, and at user privilege it can only shorten. -/
def Obligations.WritesLand : Prop :=
  (∀ (s : State) (t : Tid) (i : Nat) (v : Word) (x : Word32) (b : Bool) (k : BitVec 6),
    let th := s.thread t
    let due := sortPW (th.pend.filter fun w => decide (w.land ≤ s.tcyc))
    let ws := due.flatMap PWrite.ws
    let u := s.landDue t
    let r := u.thread t
    let last (w : RegW) (names : RegW → Prop) : Prop := ∃ a z, ws = a ++ w :: z ∧ ∀ y ∈ z, ¬ names y
    (ws.any RegW.isBud = false → exec (.fixedLatencyWriteLand t) s = .next u) ∧
    (∀ p, p ∈ due ↔ p ∈ th.pend ∧ p.land ≤ s.tcyc) ∧ r.pend = th.pend.filter (fun p => s.tcyc < p.land) ∧
    due.Pairwise (fun p q => p.land < q.land ∨ p.land = q.land ∧ (p.issued < q.issued ∨ p.issued = q.issued ∧ p.seq ≤ q.seq)) ∧
    (last (.s i v) (fun y => ∃ n, y = .s i n) → Cells.get r.s i = v) ∧ ((∀ n, RegW.s i n ∉ ws) → Cells.get r.s i = Cells.get th.s i) ∧
    (i < 8 → last (.p i b) (fun y => ∃ n, y = .p i n) → r.p.getLsbD i = b) ∧
    ((∀ n, RegW.p i n ∉ ws) → (∀ j n, RegW.p j n ∈ ws → j < 8) → r.p.getLsbD i = th.p.getLsbD i) ∧
    (last (.k i k) (fun y => ∃ n, y = .k i n) → Cells.get r.k i = k) ∧ ((∀ n, RegW.k i n ∉ ws) → Cells.get r.k i = Cells.get th.k i) ∧
    (last (.l i v) (fun y => ∃ n, y = .l i n) → Cells.get r.l i = if i = 0 then v &&& ~~~ (th.trapped ||| th.removed) else v) ∧
    ((∀ n, RegW.l i n ∉ ws) → Cells.get r.l i = Cells.get th.l i) ∧
    (last (.z i x) (fun y => ∃ n, y = .z i n) → Cells.get r.z i = x) ∧ ((∀ n, RegW.z i n ∉ ws) → Cells.get r.z i = Cells.get th.z i) ∧
    (last (.g i v) (fun y => ∃ n, y = .g i n) → Cells.get r.g i = v) ∧ ((∀ n, RegW.g i n ∉ ws) → Cells.get r.g i = Cells.get th.g i) ∧
    u.mem = s.mem ∧ u.stations = s.stations ∧ (∀ w : Tid, Tid.key w ≠ Tid.key t → ((csWrites ws = [] → u.thread w = s.thread w) ∧
      u.thread w = { s.thread w with soft := (u.thread w).soft })) ∧
    (∀ n, ((th.landCtl n v).creg n = if n = 0x010 then (if v.toNat % 8 ∈ [1, 2, 3, 4, 5] then BitVec.ofNat 64 (v.toNat % 8) else 1)
        else if n = 0x011 then v &&& 3 else if n = 0x012 then v &&& 0xFF else if n = 0x013 then th.creg n &&& v
        else if n ∈ [0x020, 0x021, 0x022, 0x023] then v &&& 0xFF else if n = 0x028 then v &&& 0xFFFFFFFF else if n = 0x029 then v &&& 0x3FF
        else if n = 0x02A then v &&& 0xFFFFFF
        else if n = 0x00A then BitVec.ofNat 64 (min (max (v.toNat % 2 ^ 17) 256) 65536)
        else if n = 0x008 then (if th.segExp ≠ 0 ∧ th.segExp < v.toNat then BitVec.ofNat 64 th.segExp else v) else th.creg n) ∧
      ∀ m, m ≠ n → (th.landCtl n v).creg m = th.creg m))
  ∧ (∀ (s : State) (t : Tid) (v f : Word) (n k : Nat) (up : Bool),
    let th := s.thread t
    let r (ws : List RegW) : Thread := (s.landWrites t ws).thread t
    (∀ ws, ws = [.dph n, .ctl 0x012 v] ∨ ws = [.ctl 0x012 v, .dph n] → (r ws).creg 0x012 = v &&& 0xFF) ∧
    ((r [.dph n, .dph k]).creg 0x012 = BitVec.ofNat 64 (((th.creg 0x012).toNat + n + k) % 256)) ∧
    (∀ ws, ws = [.flags f, .ctl 0x013 v] ∨ ws = [.ctl 0x013 v, .flags f] → (r ws).creg 0x013 = (th.creg 0x013 &&& v) ||| f) ∧
    (∀ p : PWrite, th.pend = [p] → p.land ≤ s.tcyc → p.ws = [.bud up k] → (th.creg 0x009).toNat < 2 ^ 32 → k < 2 ^ 32 →
      let charge := s.chargeOf t
      let b := if up then k else min ((th.creg 0x009).toNat + charge) k
      ∃ u, exec (.fixedLatencyWriteLand t) s = .next u ∧ (u.thread t).creg 0x009 = BitVec.ofNat 64 (b - charge) ∧ u.mem = s.mem))

/-- R201: an acquire's invalidation, when its cycles are over, drops the clean data of the lines under its scope and no dirty byte, and the
thread goes on.
R168, R171, R186: an invalidation is done once its 64 cycles are over and what a dropped translation still served is done; a checked command's
entry joins the deviation log at its head. -/
def Obligations.InvalidateEnds : Prop :=
  (∀ (s : State) (t : Tid) (scope : Scope) (due : Nat) (q : QName) (before after : List Acq), (∀ a ∈ before, s.cyc < a.due) →
    ((s.thread t).acq = before → exec (.l1InvalidateComplete t) s = .next s) ∧
    ((s.thread t).acq = before ++ ⟨scope, due, q⟩ :: after → due ≤ s.cyc →
      ∃ u, exec (.l1InvalidateComplete t) s = .next u ∧ u.mem = s.mem ∧ (u.thread t).acq = before ++ after ∧ (u.thread t).s = (s.thread t).s ∧
      (∀ l, l ∈ (u.core t.st t.co).lines ↔ (l ∈ (s.core t.st t.co).lines ∧ s.scopeCovers t.st scope l.la = false) ∨
        ∃ m ∈ (s.core t.st t.co).lines, s.scopeCovers t.st scope m.la = true ∧ m.mask ≠ 0 ∧ l = { m with clean := false }) ∧
      (u.core t.st t.co).fifo = (s.core t.st t.co).fifo ∧ ((u.thread t).qs.blk = if q = .s then none else (s.thread t).qs.blk)))
  ∧ (∀ (s : State) (st co d : Nat) (x : Shadow),
    let y := s.station st
    let size := (s.cb st 0x08).toNat % 2 ^ 21
    let head := (s.cb st 0x10).toNat % 2 ^ 21
    (y.tiDone = some d → d ≤ s.cyc → (∀ a ∈ y.tiWait, s.invBusy st a = false) → exec (.tlbInvalidateDone st) s =
      .next (s.modStation st fun x => { x with tiDone := none, tiWait := [] })) ∧
    (y.tiDone = none ∨ (∃ a ∈ y.tiWait, s.invBusy st a = true) ∨ (y.tiDone = some d ∧ s.cyc < d) → exec (.tlbInvalidateDone st) s = .next s) ∧
    ((s.core st co).shadow = some x → x.due = some d → d ≤ s.cyc → size ≠ 0 → ∃ u, exec (.deviationLogAppend st co) s = .next u ∧
      u.mem = (s.homePut (s.pa st ((s.cb st 0x00).toNat % 2 ^ 35 + 32 * head)) x.entry).mem ∧
      u.cb st 0x10 = BitVec.ofNat 64 (if size ≤ head + 1 then 0 else head + 1) ∧ (u.core st co).shadow = none) ∧
    ((s.core st co).shadow = some x → x.due = some d → s.cyc < d → exec (.deviationLogAppend st co) s = .next s))

/-- R284, R309, R350 to R353: a fault stops the thread, which leaves its slot and answers a standing request; it is frozen once all it had
issued is done, and asks for its handler; a RETIRE or YIELD that drains stands at the head of its queue again; a budget that is used up faults at the head of the S queue.
That the holding word is put back is log 51's reading. -/
def Obligations.FaultSteps : Prop :=
  ∀ (s : State) (t : Tid) (f : FRec) (e : Entry),
    let th := s.thread t
    let frozen (g : FRec) : Prop := ∃ u, exec (.faultDetect t) s = .next u ∧ (u.thread t).status = .freezing ∧ (u.thread t).fault = some g ∧
      (u.thread t).newFault = none ∧ (u.thread t).slotHeld = false ∧ (u.thread t).preq = none ∧ (u.thread t).more = false ∧
      (th.drain ≠ some .retire → th.drain ≠ some .yield_ → ∀ q, (u.thread t).queue q = th.queue q) ∧
      (∀ q, th.drain = some .retire ∨ th.drain = some .yield_ → th.drainE = some (q, e) → (u.thread t).spl.stop = .transfer e.seq ∧
        ∃ y, ((u.thread t).queue q).es = y :: (th.queue q).es ∧ y.word = e.word ∧ y.pc = e.pc ∧ y.seq = e.seq) ∧
      (u.thread t).s = th.s ∧ (th.preq = none → th.drain = none → u.mem = s.mem)
    let runs : Prop := (th.status = .running ∨ th.status = .waiting) ∧ th.drain ≠ some .ended ∧ th.drain ≠ some .killed
    (runs → th.newFault = some f → frozen f) ∧
    (runs → th.newFault = none → th.spl.stop = .bad f → th.entries = [] → frozen { f with cyc := s.cyc }) ∧
    (runs → th.newFault = none → th.spl.stop = .bad f → th.entries ≠ [] → exec (.faultDetect t) s = .next s) ∧
    (¬ runs → exec (.faultDetect t) s = .next s) ∧
    (th.status = .freezing → s.quiet t = true → ∃ v : State, exec (.freezeComplete t) s =
        .next (if th.halted || th.halting then v.modThread t fun y => { y with needHandler := true } else v.askHandler t) ∧
      (v.thread t).halted = (th.halted || th.halting) ∧ (v.thread t).status = .frozen ∧ (v.thread t).pend = [] ∧ (v.thread t).unobs = [] ∧ (v.thread t).fault = th.fault ∧ (v.vat t.st t.co).holder ≠ some t ∧
      ∀ q, (((v.thread t).queue q).es.map fun y => (y.word, y.pc, y.seq)) = (th.queue q).es.map fun y => (y.word, y.pc, y.seq)) ∧
    (th.status ≠ .freezing ∨ s.quiet t = false → exec (.freezeComplete t) s = .next s) ∧
    (th.kind = .handler → s.askHandler t = s.haltCtx t.st th.forCtx 3) ∧
    (th.kind ≠ .handler → s.askHandler t = s.requestHandler t.st t.co th.ctx
      { kind := 1, rights := 15, target := t, hctx := (s.cb t.st (0x2008 + 0x40 * th.ctx)).toNat / 2 ^ 58 % 16 } (s.threadRecord t)) ∧
    (th.fault = some f → s.threadRecord t = leBytes 8 0 ++ leBytes 8 f.pc.toNat ++ leBytes 8 f.va.toNat ++
      [BitVec.ofNat 8 f.cause, BitVec.ofNat 8 f.sub, BitVec.ofNat 8 f.level, 0] ++ leBytes 2 f.code ++ leBytes 2 0 ++
      leBytes 8 (if th.kind = .handler then 0 else (th.creg 0x01A).toNat) ++ leBytes 8 (th.creg 0x018).toNat ++ leBytes 8 f.cyc ++
      [BitVec.ofNat 8 th.ctx, BitVec.ofNat 8 t.st, BitVec.ofNat 8 t.co, BitVec.ofNat 8 t.tx] ++ leBytes 4 0) ∧
    (th.status = .running → th.creg 0x009 = 0 → th.notBefore ≤ s.cyc → s.jobDeclared t = false →
      th.drain = none ∧ th.head .s = some e ∨ (∃ q, th.drain = some .yield_ ∧ th.drainE = some (q, e)) →
      exec (.budgetExhausted t) s = .next (s.raise t { cause := 0x06, pc := e.pc, q := .s })) ∧
    (th.creg 0x009 ≠ 0 ∨ th.drain = some .retire ∨ s.jobDeclared t = true ∨ s.cyc < th.notBefore → exec (.budgetExhausted t) s = .next s)

/-- R100, R249, R270, R297, R309 to R315, R362: a drained thread releases at SYSTEM scope and then, after RETIRE, frees its context and
reports its job; ended and killed ones free it too. At a save it waits while its record is written, writes it as the thread stands, releases,
frees all it held, the Vat's lease once it has drained, and posts its job again. A release that is not complete is tried again; one that
meets a lost write faults at the word that drains. A forced save begins at the forcing cycle.
That CYC is the cycle in which the record begins to be written is log 44's reading. -/
def Obligations.DrainSteps : Prop :=
  ∀ (s v w : State) (t : Tid) (j : Job) (rl : Rel) (p : Preq) (dr : Drain) (q : QName) (e : Entry) (due : Nat),
    let th := s.thread t
    let rel (u : State) : Bool × Rel × State := u.release t (u.thread t).seq ((u.thread t).rel.getD { scope := .system })
    let kept (u : State) : State := u.modThread t fun y => { y with rel := some rl }
    let ends : Prop := dr = .retire ∨ dr = .ended ∨ dr = .killed
    let saves : Prop := dr = .yield_ ∨ dr = .forced ∨ dr = .debug
    let lost (u : State) : State := u.modCore t.st t.co fun c => { c with lost := false }
    let size := 16384 + 16384 * th.planes + 1024 * th.accRows + th.csBytes
    let cycles := 64 + (size + 255) / 256
    let s1 := s.dropLease t
    let image := (((s1.observeAll t).modThread t Thread.imagesAfresh).modThread t fun y => { y with acq := [] }).bindSaved t
    let s2 := if th.rel.isSome then s1 else image.writeRecord t (match dr with
        | .forced => 1
        | .debug => 2
        | _ => 0) (due - cycles) (s.pa t.st (s.recOff t.st th.ctx th.saveRec))
    (s.drained t = false → exec (.jobComplete t) s = .next s ∧ exec (.saveRecordWrite t) s = .next s) ∧
    (s.drained t = true → th.drain = some dr → ends →
      (rel s = (false, rl, v) → exec (.jobComplete t) s = .next (kept v)) ∧
      (rel s = (true, rl, v) → dr ≠ .retire ∨ (v.core t.st t.co).lost = false → exec (.jobComplete t) s = .next ((kept v).threadOver t)) ∧
      (rel s = (true, rl, v) → dr = .retire → (v.core t.st t.co).lost = true → th.drainE = some (q, e) → w = lost (kept v) → exec (.jobComplete t) s =
        .next ((w.setThread t { w.thread t with rel := none, saveAt := none }).raise t { cause := 0x01, sub := 5, pc := e.pc, q := q }))) ∧
    (th.restoring = none → th.drain = some .retire → th.kind = .job → s.jobOf t = some j → j.core = t.co → ∃ u, u = s.threadOver t ∧
      u.thread t = {} ∧ (∀ k ∈ (u.station t.st).jobs, k.id ≠ j.id) ∧ u.cb t.st 0x318 = s.cb t.st 0x318 + 1 ∧ u.mem = s.mem ∧
      (∀ a ∈ (u.core t.st t.co).wins ++ (u.core t.st t.co).allot, a.1 ≠ j.id) ∧ j.id ∉ (u.core t.st t.co).posted ∧ (u.vat t.st t.co).holder ≠ some t) ∧
    (s.drained t = true → th.drain = some dr → saves →
      (th.saveAt = none → exec (.saveRecordWrite t) s = .next (s1.modThread t fun y => { y with saveAt := some (s.cyc + cycles), rel := none })) ∧
      (th.saveAt = some due → s.cyc < due → exec (.saveRecordWrite t) s = .next s1) ∧
      (th.saveAt = some due → due ≤ s.cyc → rel s2 = (false, rl, v) → exec (.saveRecordWrite t) s = .next (kept v)) ∧
      (th.saveAt = some due → due ≤ s.cyc → rel s2 = (true, rl, v) → (v.core t.st t.co).lost = true → dr = .yield_ → th.drainE = some (q, e) →
        w = lost (kept v) → exec (.saveRecordWrite t) s =
          .next ((w.setThread t { w.thread t with rel := none, saveAt := none }).raise t { cause := 0x01, sub := 5, pc := e.pc, q := q })) ∧
      (th.saveAt = some due → due ≤ s.cyc → rel s2 = (true, rl, v) → (v.core t.st t.co).lost = false → ∃ u, exec (.saveRecordWrite t) s = .next u ∧
        u.mem = v.mem ∧ u.thread t = {} ∧ (u.core t.st t.co).posted = (v.core t.st t.co).posted ++ [th.job] ∧
        (∀ a ∈ (u.core t.st t.co).wins ++ (u.core t.st t.co).allot, a.1 ≠ th.job) ∧
        ∀ k ∈ (u.station t.st).jobs, k.id = th.job → k.st = .saved th.saveRec ∧ k.dl = ((v.thread t).creg 0x008).toNat ∧ k.places = (v.thread t).places)) ∧
    ((s1.vat t.st t.co).holder ≠ some t ∧ (image.thread t).pend = [] ∧ (image.thread t).unobs = [] ∧ image.mem = s.mem) ∧
    (th.preq = some p → p.f ≤ s.cyc → th.status = .running ∨ th.status = .waiting → th.restoring = none → th.halted = false → th.drain = none → th.newFault = none →
      ∃ u, exec (.forcedSave t) s = .next u ∧ (u.thread t).drain = some .forced ∧ (u.thread t).saveRec = p.recd ∧ (u.thread t).preq = none ∧
        u.cb t.st 0x1A80 = s.cb t.st 0x1A80 + 1 ∧ u.mem = s.mem) ∧
    (th.preq = some p → s.cyc < p.f → exec (.forcedSave t) s = .next s) ∧ (th.preq = none → exec (.forcedSave t) s = .next s)

/-! The ring and the dispatcher. -/

/-- R260 to R265, R271, R272: in a ring slot a station passes on what arrives there; its successor receives it with the checks of HCRC
and PCRC, its bytes in a slot of the transit store, and the origin advances its rotation; after its share of slots it arrives in its frame, until 48 slots later it expires.
R368: with it the sequences that a halted context has missed are skipped.
R377 to R380, R393, R395: a station that no longer hears its predecessor starts the repair: two placeholders, which the host is told to
reload, and the failed station loses what its intake and completion engine hold; a bad key-value page of a sequence that a rebuild already
has waiting puts more of its tokens back to process; a replayed flit of the skip link is counted.
Which slot of the transit store and the hoop a segment takes is the model's choice (log 82); what a failure loses and when it is refused
are log 60's reading, that of a rebuild log 61's. -/
def Obligations.RingSteps : Prop :=
  (∀ (s : State) (st frame : Nat) (g : Resident),
    let x := s.station st
    let n := s.rsn st
    let r := g.parse
    let open_ : Prop := x.share ≠ 0 ∧ (∀ y ∈ x.segs, y.recvSlot ≠ n) ∧ x.spoil = [] ∧ s.passes (s.pred st) n = some g
    let takes (u : State) (y : Resident) (v : State) : Prop := exec (.segmentReceive st) s = .next u ∧ y.recvSlot = n ∧ y.arriveSlot = n + x.share ∧
      (u.station st).segs = x.segs ++ [y] ∧ u.mem = (v.fillTransit st y).mem
    let fix (y : Resident) : Resident := { (if s.origin st = st ∧ y.tag ≠ BitVec.allOnes 64 then y.setRot (y.rot + 1) else y) with recvSlot := n, arriveSlot := n + x.share }
    let lost : Resident := ((r.write 0 8 (BitVec.allOnes 64 : Word).toNat).write 16 1 (setBits (r.bytes.readN 16 1) 1 1 1)).seal
    let good : Prop := r.hcrcOk = true ∧ (r.poison = true ∨ r.pcrcOk = true)
    let l := (s.stations.map Prod.fst).filter s.slotBegins
    let f := s.frame st frame
    let reads (k : CopyJob) : Prop := k.tag = some f.tag ∧ ∃ p ∈ k.pieces, ∃ b, p.src = .seg frame b
    (open_ → good → s.origin st ≠ st → ∃ u, takes u { r with recvSlot := n, arriveSlot := n + x.share } s) ∧
    (open_ → good → s.origin st = st → r.tag ≠ BitVec.allOnes 64 → ∃ u y, takes u y s ∧ y = fix r ∧ tagRot y.tag = (tagRot r.tag + 1) % 2 ^ 24 ∧
      tagModel y.tag = tagModel r.tag ∧ tagLayer y.tag = tagLayer r.tag ∧ tagPart y.tag = tagPart r.tag ∧ y.hcrcOk = true ∧ y.poison = r.poison) ∧
    (open_ → r.hcrcOk = true → r.poison = false → r.pcrcOk = false → ∃ u y, takes u y (s.setCb st 0x240 (s.cb st 0x240 + 1)) ∧ y = fix (r.setPoison true) ∧ y.poison = true ∧ y.hcrcOk = true ∧
      u.cb st 0x240 = s.cb st 0x240 + 1) ∧
    (open_ → r.hcrcOk = false → ∃ u y, takes u y ((s.setCb st 0x240 (s.cb st 0x240 + 1)).send 0x30 st (leBytes 4 r.pos)) ∧ y = fix lost ∧ y.poison = true ∧ y.tag = BitVec.allOnes 64 ∧ y.hcrcOk = true ∧ u.cb st 0x240 = s.cb st 0x240 + 1) ∧
    (x.share = 0 ∨ (∃ y ∈ x.segs, y.recvSlot = n) → exec (.segmentReceive st) s = .next s) ∧
    (s.repair = none → l.Nodup → st ∈ l → s.shareReg st = x.share → x.uncorr = [] → ∀ y, x.segs.find? (fun q => q.arriveSlot == n) = some y → y.poison = false →
      ∃ u, exec .ringSlotStart s = .next u ∧ ((∀ j ∈ l, (s.station j).hoopHi ≤ (s.station j).hoopLo ∧ (s.station j).uncorr = []) → u.mem = s.mem) ∧ u.frame st (n % 64) = { y with
        arrive := (s.cb st 0x200).toNat + 360 * n, expiry := (s.cb st 0x200).toNat + 360 * n + 17280 } ∧
        (x.share ≠ 0 → Action.ev (.segmentReceive st) ∈ u.agenda)) ∧
    (s.hasFrame st frame = true → f.expiry = s.cyc → ∃ u, exec (.segmentExpire st frame) s = .next u ∧
      ∀ k ∈ x.copies, reads k → k ∉ (u.station st).copies ∧ ((∀ m ∈ x.missed, m.2.1 ≠ frame) → (∀ a ∈ x.copies, ∀ b ∈ x.copies, a.id = b.id → a = b) →
        ∃ m, (u.thread k.t).short = some m ∧ m ≤ k.e.seq)) ∧
    (s.hasFrame st frame = true → f.expiry = s.cyc → (∀ k ∈ x.copies, ¬ reads k) → exec (.segmentExpire st frame) s =
      .next ((x.missed.filter fun m => m.2.1 == frame).foldl (fun u m => if u.rejoins st m.1 m.2.2 then u else u.skip st m.1 m.2.2 f.tag)
        (s.modStation st fun y => { y with missed := y.missed.filter fun m => m.2.1 != frame }))) ∧
    (∀ lo hi slot, hi < lo + Config.segmentBytes → s.fillSlot st lo hi slot g = s) ∧
    (∀ lo hi slot, lo + Config.segmentBytes ≤ hi → s.fillSlot st lo hi slot g =
      s.homePut (s.pa st (lo + slot % ((hi - lo) / Config.segmentBytes) * Config.segmentBytes)) (g.bytes.bytes 0 Config.segmentBytes)) ∧
    (s.hasFrame st frame = false ∨ f.expiry ≠ s.cyc → exec (.segmentExpire st frame) s = .next s))
  ∧ (∀ (s : State) (st c p0 pa : Nat) (va : Word) (rest : List Input) (x : Station) (r : Resident),
    let s0 : State := { s with inputs := rest }
    let f := s.pred st
    let y := s.station st
    let n := s.rsn st
    let S := max 1 (s.stageSize st)
    let h (i : Nat) : Resident := s.placeholder ((r.pos + 1 + i) % S) (Tab.get y.lastRot ((r.pos + 1 + i) % S) + 1)
    let s1 := s.modStation st fun z => { z with bad := z.bad.drop 1 }
    let len := s1.homeN (pa + 0x48) 4
    let waits : Bool := (s1.homeN (pa + 0x0D) 1).testBit 3 && (s1.station st).rebuilding.contains (c, va)
    (s.inputs = .syncLoss st false :: rest → s.stageSize st ≤ 87608 → (∀ j, j < 48 → (s.station j).lost = false ∧ (s.station j).share ≠ 0) → st < 48 →
      ∃ u, exec .ringSyncLoss s = .next u ∧ u.repair = some (f, n + 2) ∧ (u.station f).lost = true ∧ (u.station f).intake = [] ∧
        (u.station f).compl = [] ∧ u.inputs = rest ∧ (y.transitHi ≤ y.transitLo → u.mem = s.mem ∧ u.threads = s.threads) ∧
        (r ∈ y.segs → (∀ q ∈ y.segs, q.recvSlot < n) → (∀ q ∈ y.segs ++ y.frames.map Prod.snd, q = r ∨ q.recvSlot < r.recvSlot) →
          u.reloads = s.reloads ++ [(h 0).pos, (h 1).pos] ∧ (u.station st).segs = y.segs ++
            [{ h 0 with recvSlot := n, arriveSlot := n + y.share }, { h 1 with recvSlot := n + 1, arriveSlot := n + 1 + y.share }])) ∧
    (s.inputs = .syncLoss st false :: rest → 87608 < s.stageSize st → exec .ringSyncLoss s =
      .next ((List.range 48).foldl State.haltAll ((s0.send 0x31 st [BitVec.ofNat 8 f]).modStation f Station.fail))) ∧
    ((∀ z ∈ s.stations, z.2.bad = []) → exec .kvRebuild s = .next s) ∧
    (s.stations.find? (fun z => !z.2.bad.isEmpty) = some (st, x) →
      (s1.kvOwner st (x.bad.headD 0) = none → exec .kvRebuild s = .next s1) ∧
      (s1.kvOwner st (x.bad.headD 0) = some (c, va, p0) → s1.seqBlock st c va = some pa → waits = true →
        (exec .kvRebuild s =
          .next ((((s1.homePutN (pa + 0x48) 4 p0).homePutN (pa + 0x4C) 4 p0).homePutN (pa + 0x20) 4 (s1.homeN (pa + 0x20) 4 + (len - p0))).count st 0x3030))) ∧
      (s1.kvOwner st (x.bad.headD 0) = some (c, va, p0) → s1.seqBlock st c va = some pa → waits = false → ∃ u, exec .kvRebuild s = .next u ∧
        (c, va) ∈ (u.station st).rebuilding ∧ u.inputs = s.inputs ∧ ∀ e ∈ (u.station st).engaged, e.ctx = c → e.va ≠ va)) ∧
    (s.inputs = .skip st :: rest → exec .skipFlitReplay s = .next (s0.setCb st 0x3038 (s.cb st 0x3038 + 1))))

/-- R262, R267, R268, R270 to R273, R279, R281 to R284: eight cycles after its arrival a segment is matched; a slate holds at most ROWCAP
rows; a job takes its deadline from its entry or its segment and is posted, or its rows are skipped where no room is left; at its declaring
cycle its rows are skipped and it is discarded, ended or detached.
A segment that a halted context would dispatch is noted for its expiry (R368); a poisoned one skips the sequences that it would dispatch.
The part that the tag of a lost segment names, and rows that leave the slates of later cores, are log 27's and log 90's reading, the
number that a post gives is log 56's, and that a full queue is tested before the slate records is log 45's choice. -/
def Obligations.SlateSteps : Prop :=
  ∀ (s : State) (st frame cap core c fr tier id d0 d1 n pa : Nat) (isOpen : Bool) (es : List Engaged) (d : DEntry) (j : Job) (t : Tid) (at_ : Nat),
    let r := s.frame st frame
    let x := s.station st
    let due : Prop := s.hasFrame st frame = true ∧ r.arrive + 8 = s.cyc
    let p := pack cap isOpen es
    let J := jobFor c fr d r frame tier core es
    let rec_ := s.cb st (0x6100 + 0x10 * j.ctx) + BitVec.ofNat 64 (1024 * n)
    (¬ due → exec (.slateForm st frame) s = .next s) ∧
    (due → r.tag = BitVec.allOnes 64 → exec (.slateForm st frame) s =
      .next (x.engaged.foldl (fun s e => s.skip st e.ctx e.va (s.nextTag st frame e)) s)) ∧
    (∀ e ∈ s.engagedFor st c r.tag, e.ctx = c ∧ e.model = tagModel r.tag ∧ e.layer = tagLayer r.tag ∧ e.rot = tagRot r.tag ∧
      (s.homeN (e.pa + 0x0D) 1).testBit 3 = false) ∧
    (due → r.tag ≠ BitVec.allOnes 64 → s.modelOn st (tagModel r.tag) = false → exec (.slateForm st frame) s = .next (s.setCb st 0x248 (s.cb st 0x248 + 1))) ∧
    (due → r.tag ≠ BitVec.allOnes 64 → s.modelOn st (tagModel r.tag) = true → ¬ (r.marker = true ∧ r.mkind = 2) →
      exec (.slateForm st frame) s = .next ((List.range 16).foldl (fun s c => s.slateCtx st c frame r) s)) ∧
    (s.dispatches st c = false → s.slateCtx st c frame r = s) ∧
    (s.dispatches st c = true → ¬ (r.marker = true ∧ r.mkind = 1) → s.findEntry st c r 1024 0 = (some d, 0) →
      let v := s.virtMarks st c .supervisor (s.disp st c 0).toNat (32 * s.entriesRead st c r 1024 0)
      (v.halted st c = true → s.slateCtx st c frame r = v.modStation st fun y => { y with missed := y.missed ++ (v.wanted st c r d).map fun e => (c, frame, e.va) }) ∧
      (v.halted st c = false → r.poison = true → s.slateCtx st c frame r = (v.wanted st c r d).foldl (fun u e => u.skip st c e.va r.tag) v) ∧
      (v.halted st c = false → r.poison = false → s.slateCtx st c frame r = v.slates st c frame r d)) ∧
    (∀ e, e ∈ s.wanted st c r d ↔ e ∈ s.engagedFor st c r.tag ∧ (e.rows ≠ 0 ∨ s.fragOf st d e = none)) ∧
    (entryMatches d0 d1 r = true ↔ d0.testBit 63 = true ∧ d0.testBit 62 = r.marker ∧ d0 / 2 ^ 50 % 2 ^ 12 = tagModel r.tag ∧
      tagLayer r.tag &&& (d0 / 2 ^ 26 % 2 ^ 12) = d0 / 2 ^ 38 % 2 ^ 12 ∧ tagPart r.tag &&& (d1 / 2 ^ 32 % 2 ^ 16) = d1 / 2 ^ 48 % 2 ^ 16 ∧
      (r.marker = true → d0 / 2 ^ 18 % 2 ^ 8 = 0 ∨ d0 / 2 ^ 18 % 2 ^ 8 = r.mkind)) ∧
    (∀ l ∈ p.full ++ [p.cur], slateRows l ≤ cap) ∧
    (J.dl = (if 1 ≤ d.dloff ∧ d.dloff ≤ 47 then r.arrive + 360 * d.dloff else r.expiry) ∧ J.tier = tier ∧ J.bud = d.budget ∧ J.core = core ∧ J.ctx = c ∧
      J.rows.length = slateRows es ∧ (r.marker = false → J.stripe = core ∧ J.segwin = BitVec.ofNat 64 (segBase + frame * 2 ^ 22 + 256 + 286720 * core))) ∧
    (256 ≤ (s.core st j.core).posted.length → s.post st j = (s.skipRows st j).count st 0x310) ∧
    ((s.core st j.core).posted.length < 256 → s.freeSlate st j.ctx = none → s.post st j = (s.skipRows st j).count st 0x6200) ∧
    ((s.core st j.core).posted.length < 256 → s.freeSlate st j.ctx = some n → s.dispTarget st j.ctx rec_.toNat 1024 = some pa → ∃ (u : State) (k : Job), s.post st j = u ∧ (u.core st j.core).posted = (s.core st j.core).posted ++ [k.id] ∧
        (u.station st).jobs = x.jobs ++ [k] ∧ k = { j with id := x.nextJob, num := x.jobNum, slRec := some (st, n), slVa := rec_ } ∧
        u.mem = (s.homePut pa (slateRecord k)).mem) ∧
    ((s.core st j.core).posted.length < 256 → s.freeSlate st j.ctx = some n → s.dispTarget st j.ctx rec_.toNat 1024 = none →
      s.post st j = (s.skipRows st j).count st 0x6200) ∧
    (s.job? st id = some j → s.declareAt st j = some at_ → j.dead = false → at_ ≤ s.cyc → ∃ v : State, exec (.declaringCycle st id) s = .next (v.closeJob st id) ∧
      v = (s.modJob st id fun k => { k with dead := true }).skipRows st j) ∧
    (s.job? st id = some j → s.declareAt st j = some at_ → s.cyc < at_ ∨ j.dead = true → exec (.declaringCycle st id) s = .next s) ∧
    (s.job? st id = some j → j.tid st = none → s.closeJob st id = s.discardJob st id ∧ ∀ k ∈ ((s.closeJob st id).station st).jobs, k.id ≠ id) ∧
    (s.job? st id = some j → j.tid st = some t →
      let th := s.thread t
      let u := s.closeJob st id
      ((th.status = .frozen ∨ th.status = .freezing ∨ th.status = .stopped ∨ th.halted = true) → u = s.modThread t fun th => { th with detached := true }) ∧
      ((th.status = .running ∨ th.status = .waiting) → th.halted = false → th.drain = none → (u.thread t).drain = some .ended ∧ (u.thread t).entries = [] ∧
        (u.thread t).preq = none ∧ (u.thread t).s = th.s ∧ u.cb st 0x238 = s.cb st 0x238 + 1))

/-! Launches, requests, debug halts, handlers. -/

/-- R286, R291, R308, R309: the arbiter takes the lowest free job context and launches the job of a tier with a positive deficit that has
the earliest deadline of its tier; the timetable raises its one request and launches ahead of it; a request reserves a save record, and a
withdrawal before the forcing cycle, which stands still while a debugger halts the thread, frees it.
That the lowest free context is taken is log 49's choice; that a due start keeps its context from the arbiter is log 58's reading. -/
def Obligations.LaunchSteps : Prop :=
  ∀ (s : State) (st co e n tx : Nat) (jobs : Fin 16) (j : Job) (r : Round) (o : Option Round) (src : Nat) (t : Tid),
    let th := s.thread t
    let slot : Tid := ⟨st, co, (s.cb st (ttOff co e + 0x18)).toNat % 4⟩
    let start := (s.cb st (ttOff co e)).toNat
    let J := s.ttJob st co e
    let u := s.raisePreq t src
    let asked : Prop := th.kind ≠ .handler ∧ (th.status = .running ∨ th.status = .waiting) ∧ th.drain = none ∧ th.preq = none ∧ th.newFault = none
    (s.arbSlot st co = none → exec (.launchArbiter st co) s = .next s) ∧
    (s.arbSlot st co = some tx → s.arbitrate st co = none → exec (.launchArbiter st co) s = .next s) ∧
    (s.arbSlot st co = some tx → s.arbitrate st co = some (o, j) → exec (.launchArbiter st co) s =
      .next (((match o with
        | some r => s.setRound st co r
        | none => s).startJob ⟨st, co, tx⟩ j).nowEv (.launchArbiter st co))) ∧
    (s.arbSlot st co = some tx → tx < 4 ∧ s.ctxFree ⟨st, co, tx⟩ = true ∧ ∀ k, k < tx → s.ctxFree ⟨st, co, k⟩ = false ∨
      ∃ e, s.ttDue st co e = true ∧ s.ttSlot st co e = k) ∧
    (s.arbSlot st co = some tx → ∀ e, e < 8 → s.ttDue st co e = true → s.ttSlot st co e ≠ tx) ∧
    (s.arbitrate st co = some (some r, j) → j ∈ s.postedJobs st co ∧ j.tier = r.rp ∧ 0 < r.d.getD r.rp 0 ∧ 0 < s.weight st r.rp ∧ s.jobFits st j = true ∧
      ∀ k ∈ s.postedJobs st co, k.tier = j.tier → j.dl ≤ k.dl) ∧
    (s.arbitrate st co = some (none, j) → j ∈ s.postedJobs st co ∧ s.jobFits st j = true ∧
      ∀ k ∈ s.postedJobs st co, (k.tier < 8 → s.weight st k.tier = 0) ∧ (s.jobFits st k = true → j.dl ≤ k.dl)) ∧
    (¬ asked → u = s) ∧
    (asked → s.freeRec t.st th.ctx (recSize th.hdr) = none → u = s.setCb t.st 0x1A88 (s.cb t.st 0x1A88 + 1)) ∧
    (asked → s.freeRec t.st th.ctx (recSize th.hdr) = some n →
      (u.thread t).preq = some ⟨src, s.cyc + (th.creg 0x00A).toNat, n, s.cyc + 1⟩ ∧ (u.thread t).s = th.s ∧ (u.thread t).queue .s = th.queue .s ∧
        u.mem = (s.setRecState t.st th.ctx n 1).mem ∧ (s.recState t.st th.ctx n = 0 ∧ ∀ m, m < n → s.recState t.st th.ctx m ≠ 0)) ∧
    (exec (.preemptRaise st co jobs) s = .next { (jobsOf st co jobs).foldl (fun s t => s.raisePreq t 1) s with cbw := none }) ∧
    (∃ v, exec (.preemptWithdraw st co jobs) s = .next v ∧ v.cbw = none ∧ ∀ k, k < 4 → ∀ p, (s.thread ⟨st, co, k⟩).preq = some p →
      let at_ := if (s.thread ⟨st, co, k⟩).halted then (s.thread ⟨st, co, k⟩).haltCyc else s.cyc
      (jobs.val.testBit k = true → at_ < p.f → (v.thread ⟨st, co, k⟩).preq = none) ∧
      (jobs.val.testBit k = false ∨ p.f ≤ at_ → (v.thread ⟨st, co, k⟩).preq = some p)) ∧
    (s.ttAsks st co e = false → exec (.timetablePreq st co e) s = .next s) ∧
    (s.ttAsks st co e = true → exec (.timetablePreq st co e) s = .next ((s.setCb st (0x10000 + ttOff co e) 1).raisePreq slot 3)) ∧
    (s.ttReady st co e = false → exec (.timetableLaunch st co e) s = .next s) ∧
    (J.dl = start + 17280 ∧ J.tier = 0 ∧ J.arrive = start ∧ J.rows.length = 1 ∧ J.live = 1 ∧ J.segwin = 0 ∧ J.slRec = none ∧ J.num = (s.station st).jobNum ∧
      J.bud = (if (s.cb st (ttOff co e + 8)).toNat / 2 ^ 32 = 0 then 17280 else (s.cb st (ttOff co e + 8)).toNat / 2 ^ 32)) ∧
    (co < 8 → e < 8 → s.ttReady st co e = true → s.granted st J.ctx (s.header st J.ctx J.frag.toNat) = false → ∃ v, exec (.timetableLaunch st co e) s = .next v ∧
      (v.cb st (ttOff co e + 0x18)).getLsbD 8 = false ∧ (v.cb st (ttOff co e + 0x18)).getLsbD 10 = true ∧
      (v.cb st (ttOff co e + 0x18)).getLsbD 9 = (s.cb st (ttOff co e + 0x18)).getLsbD 9 ∧ v.threads = s.threads) ∧
    (s.ttReady st co e = true → s.granted st J.ctx (s.header st J.ctx J.frag.toNat) = true → s.jobFits st J = true →
      let slip := decide (start + (s.cb st (ttOff co e + 8)).toNat % 2 ^ 32 < s.cyc)
      ∃ (v : State) (y : Thread), exec (.timetableLaunch st co e) s = .next v ∧ y = v.thread slot ∧ y.status = .running ∧ y.kind = .timetable ∧ y.ctx = J.ctx ∧
        y.tier = 0 ∧ Cells.get y.l 0 = 1 ∧ y.spl.pc = BitVec.ofNat 64 (J.frag.toNat + 32) ∧ v.mem = s.mem ∧
        (v.cb st (ttOff co e + 0x18)).getLsbD 8 = false ∧ (v.cb st (ttOff co e + 0x18)).getLsbD 9 = true ∧
        (v.cb st (ttOff co e + 0x18)).getLsbD 10 = ((s.cb st (ttOff co e + 0x18)).getLsbD 10 || slip) ∧
        (slip = true → y.spl.stop = .bad { cause := 0x08, sub := 0, va := BitVec.ofNat 64 s.cyc, pc := y.spl.pc }))

/-- R77, R283, R284, R286, R322, R323: a job whose header its grants allow is launched in the state of R77 and goes on in the
thread's next thread cycle, halted where a debugger holds the context, its window and allotment made; one
they do not allow runs nowhere. -/
def Obligations.LaunchState : Prop :=
  ∀ (s : State) (t : Tid) (j : Job) (w a : Nat),
    let h := s.header t.st j.ctx j.frag.toNat
    let ok := s.granted t.st j.ctx h
    let u := s.startJob t j
    let th := u.thread t
    let d1 := (s.cb t.st (0x2008 + 0x40 * j.ctx)).toNat
    let cut := (s.cb t.st (0x2018 + 0x40 * j.ctx)).toNat % 2 ^ 32
    let k := s.core t.st t.co
    j.st = .posted →
    (ok = false → u = s.refuseLaunch t.st j) ∧
    (ok = true → k.rowRoom (hdrRows h) = none → u = s) ∧
    (ok = true → k.rowRoom (hdrRows h) = some w → k.csRoom (hdrUnits h) = some a →
      th.status = .running ∧ th.slotHeld = true ∧ th.halted = s.dbgHeld t j.ctx ∧ th.spl.resumeAt = (s.cyc + 4 - t.tx % 4) / 4 ∧ th.ctx = j.ctx ∧ th.kind = j.kind ∧ th.job = j.id ∧ th.hdr = h ∧ th.tier = j.tier ∧
      Cells.get th.slate 2 = (if j.slRec.isNone then 0 else j.slVa + 64) ∧
      (∀ i, Cells.get th.s i = 0 ∧ Cells.get th.z i = 0 ∧ Cells.get th.k i = 0 ∧ Cells.get th.l i = if i = 0 then j.live else 0) ∧ th.p = 0 ∧ th.tok = [] ∧
      th.creg 0x013 &&& ~~~ flRSVWARN = 0 ∧ th.creg 0x028 = 0 ∧ th.creg 0x029 = 0 ∧ th.creg 0x02A = 0 ∧ th.creg 0x02C = 0 ∧ (∀ i, i < 4 → th.creg (0x020 + i) = 0) ∧
      th.creg 0x010 = BitVec.ofNat 64 (if d1 / 2 ^ 18 % 8 = 0 ∨ 5 < d1 / 2 ^ 18 % 8 then 1 else d1 / 2 ^ 18 % 8) ∧
      th.creg 0x011 = BitVec.ofNat 64 (d1 / 2 ^ 21 % 4) ∧ th.creg 0x012 = BitVec.ofNat 64 (d1 / 2 ^ 23 % 256) ∧
      th.creg 0x00A = BitVec.ofNat 64 (if d1 / 2 ^ 31 % 2 ^ 17 = 0 then 4096 else min (max (d1 / 2 ^ 31 % 2 ^ 17) 256) 65536) ∧
      th.creg 0x009 = BitVec.ofNat 64 (if cut = 0 then j.bud else min j.bud cut) ∧ th.creg 0x018 = j.tag ∧ th.creg 0x019 = j.slVa ∧
      th.creg 0x01A = BitVec.ofNat 64 (t.st * 2 ^ 58 + t.co * 2 ^ 55 + t.tx * 2 ^ 52 + j.num % 2 ^ 32) ∧
      th.spl.pc = BitVec.ofNat 64 (j.frag.toNat + 32) ∧ th.entries = [] ∧ th.winBase = w ∧ th.csBase = a ∧ u.mem = s.mem ∧
      j.id ∉ (u.core t.st t.co).posted ∧ ∀ i ∈ (u.station t.st).jobs, i.id = j.id → i.st = .launched t.tx)

/-- R310, R314, R316, R317, R335, R351: a debugger halts and releases thread contexts and cores, moves the forcing cycle by the length of a halt, saves a halted
job, and moves saved records between cores and stations. A halt waits for a tap word under way and for a freeze to end (R335, R351).
That a move within the own station needs a free record too, and that a SAVE without a record counts in SAVEREF, is log 59's reading. -/
def Obligations.DebugSteps : Prop :=
  ∀ (s : State) (t : Tid) (st co : Nat) (p : Preq) (w : CbWrite) (j : Job) (m : Nat) (mv : Moving),
    let th := s.thread t
    let dbg := s.cb t.st (0x1B00 + 0x10 * t.co)
    let live : Prop := th.status ≠ .free ∧ th.status ≠ .stopped ∧ th.halted = false ∧ (s.cb t.st 0x1A90).toNat.testBit th.ctx = true
    let busy (t : Tid) : Prop := (∃ x ∈ (s.core t.st t.co).xs, x.t = t) ∨ (s.thread t).status = .freezing
    let may : Prop := th.halted = true ∧ th.restoring = none ∧ th.kind ≠ .handler ∧ (th.status = .running ∨ th.status = .waiting) ∧ th.drain = none ∧ th.newFault = none
    let saves (n : Nat) : Prop := ∃ u, exec (.dbgSave t) s = .next u ∧ (u.thread t).drain = some .debug ∧ (u.thread t).saveRec = n ∧ (u.thread t).preq = none ∧
      u.mem = (s.setRecState t.st th.ctx n 1).mem
    let s1 := ({ s with cbw := none } : State).regWrite w
    let r := (s1.cb w.st 0x1A98).toNat
    let stn := r / 2 ^ 24 % 64
    let c := r / 2 ^ 16 % 16
    let k := r / 2 ^ 20 % 8
    let n := r % 2 ^ 16
    let refuses (u : State) : Prop := u = s1.setCb w.st 0x1A98 (s1.cb w.st 0x1A98 ||| BitVec.ofNat 64 (2 ^ 61))
    (live → ¬ busy t → exec (.dbgHaltThread t) s = .next (s.setThread t { th with halted := true, halting := false, haltCyc := s.cyc })) ∧
    (live → busy t → exec (.dbgHaltThread t) s = .next (s.setThread t { th with halting := true })) ∧
    (¬ live → exec (.dbgHaltThread t) s = .next s) ∧
    (dbg.getLsbD 20 = true → exec (.dbgReleaseThread t) s = .next s) ∧
    (dbg.getLsbD 20 = false → th.halted = false → exec (.dbgReleaseThread t) s =
      .next (if th.halting then s.setThread t { th with halting := false } else s)) ∧
    (dbg.getLsbD 20 = false → th.halted = true → th.needHandler = false ∨ th.status ≠ .frozen → ∃ u, exec (.dbgReleaseThread t) s = .next u ∧ (u.thread t).halted = false ∧ u.mem = s.mem ∧
      (∀ p, th.preq = some p → (u.thread t).preq = some { p with f := p.f + (s.cyc - th.haltCyc) }) ∧ (u.thread t).s = th.s ∧
      (∀ q, (u.thread t).queue q = th.queue q)) ∧
    (dbg.getLsbD 20 = false → th.halted = true → th.needHandler = true → th.status = .frozen → ∃ u : State, exec (.dbgReleaseThread t) s = .next (u.askHandler t) ∧
      (u.thread t).halted = false) ∧
    (∃ u, exec (.dbgHaltCore st co) s = .next u ∧ (u.core st co).coreHalt = true ∧ (u.core st co).copyq = false ∧ u.mem = s.mem ∧
      ∀ i, i < 6 →
        let x : Tid := ⟨st, co, i⟩
        let y := s.thread x
        let z := u.thread x
        let hit : Prop := y.status ≠ .free ∧ y.status ≠ .stopped ∧ y.halted = false ∧ (s.cb st 0x1A90).toNat.testBit y.ctx = true
        (¬ hit → z.halted = y.halted ∧ z.halting = y.halting) ∧ (hit → busy x → z.halted = false ∧ z.halting = true) ∧
          (hit → ¬ busy x → z.halted = true ∧ z.halting = false ∧ z.haltCyc = s.cyc)) ∧
    (∃ u, exec (.dbgReleaseCore st co) s = .next u ∧ (u.core st co).coreHalt = false ∧ (u.core st co).copyq = false ∧
      ((∀ i, i < 6 → (s.thread ⟨st, co, i⟩).needHandler = false ∨ (s.thread ⟨st, co, i⟩).status ≠ .frozen) → ∀ i, i < 6 →
        (u.thread ⟨st, co, i⟩).halted = ((s.thread ⟨st, co, i⟩).halted && (s.cb st (0x1B00 + 0x10 * co)).getLsbD (14 + i)))) ∧
    (may → th.preq = some p → saves p.recd) ∧ (may → th.preq = none → s.freeRec t.st th.ctx (recSize th.hdr) = some m → saves m) ∧
    (may → th.preq = none → s.freeRec t.st th.ctx (recSize th.hdr) = none → exec (.dbgSave t) s = .next (s.setCb t.st 0x1A88 (s.cb t.st 0x1A88 + 1))) ∧
    (¬ may → exec (.dbgSave t) s = .next s) ∧
    ((s.core st co).coreHalt = true → s.coreQuiet st co = true → exec (.copyqSettle st co) s = .next (s.modCore st co fun k => { k with copyq := true })) ∧
    ((s.core st co).coreHalt = false ∨ s.coreQuiet st co = false → exec (.copyqSettle st co) s = .next s) ∧
    (s.cbw = some w → (s.station w.st).moving = none →
      (s1.savedJob w.st c n = none → ∃ u, exec .recordMove s = .next u ∧ refuses u) ∧
      (s1.savedJob w.st c n = some j → s1.recState w.st c n ≠ 2 ∨ 47 < stn ∨ (stn ≠ w.st ∧ j.segwin ≠ 0) ∨ s1.freeRec stn c (recSize j.hdr) = none →
        ∃ u, exec .recordMove s = .next u ∧ refuses u) ∧
      (s1.savedJob w.st c n = some j → s1.recState w.st c n = 2 → stn = w.st → stn < 48 → s1.freeRec stn c (recSize j.hdr) = some m →
        ∃ u, exec .recordMove s = .next u ∧ (u.core w.st k).posted = ((s1.core w.st k).posted.filter fun i => k ≠ j.core ∨ i ≠ j.id) ++ [j.id] ∧
          (k ≠ j.core → j.id ∉ (u.core w.st j.core).posted) ∧
          (∀ i ∈ (u.station w.st).jobs, i.id = j.id → i.core = k) ∧ u.mem = s1.mem) ∧
      (s1.savedJob w.st c n = some j → s1.recState w.st c n = 2 → stn ≠ w.st → stn < 48 → j.segwin = 0 → s1.freeRec stn c (recSize j.hdr) = some m →
        ∃ u, exec .recordMove s = .next u ∧ (u.station w.st).moving =
          some { job := j.id, ctx := c, recd := n, stn := stn, core := k, dest := m, due := s.cyc + (recSize j.hdr + 255) / 256 } ∧
          u.mem = (s1.setRecState stn c m 1).mem ∧ j.id ∉ (u.core w.st j.core).posted)) ∧
    ((s.station st).moving = some mv → mv.due ≤ s.cyc → s.job? st mv.job = some j → mv.stn ≠ st → ∃ u, exec (.recordMoveDone st) s = .next u ∧
      u.mem = ((s.homePut (s.pa mv.stn (s.recOff mv.stn mv.ctx mv.dest)) (s.homeBytes (s.pa st (s.recOff st mv.ctx mv.recd)) (recSize j.hdr))).setRecState
        st mv.ctx mv.recd 0).mem ∧ (u.station st).moving = none ∧ (∀ i ∈ (u.station st).jobs, i.id ≠ j.id) ∧
      (u.core mv.stn mv.core).posted = (s.core mv.stn mv.core).posted ++ [(s.station mv.stn).nextJob] ∧
      ∃ i ∈ (u.station mv.stn).jobs, i.id = (s.station mv.stn).nextJob ∧ i.st = .saved mv.dest ∧ i.slRec = j.slRec ∧ i.tier = j.tier ∧ i.dl = j.dl ∧ i.core = mv.core)

/-- R285, R293, R353 to R355: a free handler context takes the next request, with its capability and its fault record; the handler borrows the
lowest idle slot or asks for one, and asks again once there is a save record; the activity forecast.
Which thread is asked, and that it is asked again, is log 57's reading. -/
def Obligations.HandlerSteps : Prop :=
  ∀ (s : State) (st co tx i j a k : Nat) (r : HReq) (t v : Tid),
    let th := s.thread t
    let hc := s.hctx st r.ctx
    let frag := s.desc st r.ctx 4 0 64
    let h := s.header st hc frag
    let me : Tid := ⟨st, co, tx⟩
    let idle (n : Nat) : Prop := s.slotIdle t.st t.co n = true
    let buds := (s.station st).jobs.filterMap fun j => (j.tid st).map fun t => ((s.thread t).creg 0x009).toNat
    let posted := ((List.range 8).map fun co => (s.core st co).posted.length).sum
    (s.freeHandler st co = none ∨ s.nextRequest st co = none → exec (.handlerSpawn st co) s = .next s) ∧
    (s.freeHandler st co = some tx → (tx = 4 ∨ tx = 5) ∧ (s.thread me).status = .free ∧ (tx = 5 → (s.thread ⟨st, co, 4⟩).status ≠ .free)) ∧
    (s.freeHandler st co = some tx → s.nextRequest st co = some r → r.cap = some i → s.granted st hc h = true → (s.core st co).csRoom (hdrUnits h) = some a →
      ∃ (u : State) (n : Thread), exec (.handlerSpawn st co) s = .next u ∧ n = u.thread me ∧ n.status = .waiting ∧ n.kind = .handler ∧ n.priv = .supervisor ∧
        n.job = (s.station st).nextJob ∧ (u.station st).nextJob = n.job + 1 ∧ n.ctx = hc ∧ n.forCtx = r.ctx ∧ n.csBase = a ∧ n.winBase = 1984 ∧ n.slotHeld = false ∧ n.spl.pc = BitVec.ofNat 64 (frag + 32) ∧
        Tab.get n.pw 0 = leBytes 8 ((Tab.get (s.station st).caps i).handle st i).toNat ++ r.rcd.drop 8 ∧ Cells.get n.l 0 = 1 ∧
        n.creg 0x009 = BitVec.ofNat 64 (if s.desc st hc 3 0 32 = 0 then 262144 else s.desc st hc 3 0 32) ∧ n.creg 0x008 = BitVec.allOnes 64 ∧
        u.cb st 0x2C08 = s.cb st 0x2C08 + 1 ∧ u.mem = s.mem ∧ (u.station st).reqs = (s.station st).reqs.erase r) ∧
    (th.kind ≠ .handler ∨ th.status ≠ .waiting → exec (.handlerSlotTake t) s = .next s) ∧
    (th.kind = .handler → th.status = .waiting → j < 4 → idle j → (∀ n, n < j → ¬ idle n) → ∃ u, exec (.handlerSlotTake t) s = .next u ∧
      (u.thread t).status = .running ∧ (u.thread t).slotHeld = true ∧ (u.thread t).slot = j ∧ (u.thread t).needHandler = false ∧
      (u.thread t).halted = s.dbgHeld t th.ctx ∧ (u.thread t).spl.resumeAt = s.cyc / 4 + 1 ∧ (u.thread t).s = th.s ∧ u.mem = s.mem) ∧
    (th.kind = .handler → th.status = .waiting → (∀ n, n < 4 → ¬ idle n) → s.coreRequested t.st t.co = true → exec (.handlerSlotTake t) s = .next s) ∧
    (th.kind = .handler → th.status = .waiting → (∀ n, n < 4 → ¬ idle n) → s.coreRequested t.st t.co = false →
      let full : Prop := s.freeRec v.st (s.thread v).ctx (recSize (s.thread v).hdr) = none
      let w := s.raisePreq v 2
      (s.latestJob t.st t.co = none → exec (.handlerSlotTake t) s = .next s) ∧
      (s.latestJob t.st t.co = some v → th.needHandler = true → full → exec (.handlerSlotTake t) s = .next s) ∧
      (s.latestJob t.st t.co = some v → th.needHandler = false ∨ ¬ full →
        exec (.handlerSlotTake t) s = .next (w.modThread t fun th => { th with needHandler := (w.thread v).preq.isNone }))) ∧
    (∃ u, exec (.afrUpdate st) s = .next u ∧ u.mem = s.mem ∧ u.threads = s.threads ∧ (k < 8 → (u.cb st 0x3C8).toNat / 2 ^ (8 * k) % 2 ^ 8 =
      min 32 (buds.countP (fun b => decide (1250 * k < b)) + posted)))

/-! The control block, the host link, the fabric's and the firmware's steps. -/

/-- R8, R171, R186, R256, R291, R307, R322, R328, R361, R368, R394, R410: what a write of each kind of control-block register does: the fields
of the register take what their access codes let them take, no other register changes, and the registers with a step of their own act. The
lease's requests of one cycle are served by ascending station. -/
def Obligations.ControlBlockWrites : Prop :=
  ∀ (s : State) (w : CbWrite) (i : Nat), s.cbw = some w →
    let st := w.st
    let s0 : State := { s with cbw := none }
    let o := w.off / 8 * 8
    let u := s0.regWrite w
    let bitAt (v : Word) : Bool := v.getLsbD i
    let written : Prop := 8 * (w.off % 8) ≤ i ∧ i < 8 * (w.off % 8) + 8 * w.size
    let sent := (w.val.toNat * 2 ^ (8 * (w.off % 8))).testBit i
    let f := regF o
    let m := regMerge f w (s.cb st o)
    let x := s.station st
    let v := u.invSel st (u.cb st 0x48)
    let idx := w.val.toNat % 2 ^ 12
    let cap := Tab.get x.caps idx
    let takes : Bool := !s.leaseHeld || decide (s.leaseExp ≤ s.tb) || decide (s.leaseHolder = st)
    let fresh : Bool := !s.leaseHeld || decide (s.leaseHolder ≠ st)
    let whole : Prop := w.off % 8 = 0 ∧ w.size = 8
    let busy : Prop := ∃ d, x.tiDone = some d ∧ d < s.cyc + 65
    (exec .registerWrite s = .next u) ∧
    (w.off % 8 + w.size ≤ 8 → i < 64 → bitAt m = if (f.rw.testBit i = true ∨ (f.fw.testBit i = true ∧ w.priv = .firmware)) ∧ written then
        sent && !(f.st.testBit i && !sent) && !(f.w1c.testBit i && sent)
      else if f.st.testBit i = true ∧ written then bitAt (s.cb st o) && sent && !(f.w1c.testBit i && sent)
      else if f.w1c.testBit i = true ∧ written then bitAt (s.cb st o) && !sent else bitAt (s.cb st o)) ∧
    (regShared o = false → ¬ (busy ∧ (o = 0x40 ∨ o = 0x48)) → x.moving = none → u.cb st o = regNorm o m ∧ ∀ q, q ≠ o → u.cb st q = s.cb st q) ∧
    (u.mem = s.mem ∧ u.threads = s.threads ∧ u.cores = s.cores) ∧
    (exec .devlogSizeWrite s = .next (if w.touches 0 21 then u.setCb st 0x10 0 else s0)) ∧
    (exec .telemetrySizeWrite s = .next (if w.touches 0 21 then u.setCb st 0x1410 0 else s0)) ∧
    (whole → cap.valid = true → cap.kind = 1 → exec .capRevoke s = .next ((s0.capInvalid st idx).killThread cap.target)) ∧
    (whole → cap.valid = true → cap.kind ≠ 1 → exec .capRevoke s = .next (s0.capInvalid st idx)) ∧
    (cap.valid = true → Tab.get ((s.capInvalid st idx).station st).caps idx = { cap with valid := false, gen := (cap.gen + 1) % 2 ^ 20 }) ∧
    (∃ t, exec .contextTeardown s = .next t ∧ ∀ c, c < 16 → (whole → w.val.getLsbD c = true → s.halted st c = true →
      t.resident st c = false ∧ t.halted st c = false) ∧ (s.halted st c = false → t.halted st c = false)) ∧
    (o % 0x40 / 8 < 8 → 0x2000 ≤ o → o < 0x2400 → s.hasJobs st ((o - 0x2000) / 0x40) = false → exec .descriptorWrite s = .next u) ∧
    (exec .timetableWrite s = .next (if o % 0x20 = 0x18 ∧ w.touches 8 1 = true then u.setCb st (0x10000 + (o - 0x18)) 0 else u)) ∧
    (exec .tileWalkStopClear s = .next u) ∧
    (o = 0x100 → (∀ y ∈ s.stations, ∀ m ∈ y.2.migr, m.home = false ∨ m.st ≠ .away) → exec .migenClear s = .next u) ∧
    (s.leaseNow = none → takes = true → ∃ t, exec .moduleLeaseAcquire s = .next t ∧ t.leaseHeld = true ∧ t.leaseHolder = st ∧ t.leaseExp = s.tb + 8000000 ∧
      t.leaseEpoch = (if fresh then (s.leaseEpoch + 1) % 2 ^ 32 else s.leaseEpoch) ∧ t.cb st 0x13818 = 1 ∧ t.mem = s.mem) ∧
    (s.leaseNow = none → takes = false → ∃ t, exec .moduleLeaseAcquire s = .next t ∧ t.leaseHeld = s.leaseHeld ∧ t.leaseHolder = s.leaseHolder ∧ t.leaseExp = s.leaseExp ∧
      t.leaseEpoch = s.leaseEpoch ∧ t.cb st 0x13818 = 0) ∧
    (s.leaseNow = none → ∃ t, exec .moduleLeaseRelease s = .next t ∧ t.leaseHeld = (s.leaseHeld && decide (s.leaseHolder ≠ st)) ∧
      t.leaseHolder = s.leaseHolder ∧ t.leaseExp = s.leaseExp ∧ t.leaseEpoch = s.leaseEpoch ∧ t.stations = s.stations ∧ t.mem = s.mem) ∧
    (∀ c rs, s.leaseNow = some (c, rs) →
      let serve (r : Nat × Bool) : State := { (insertReq r rs).foldl State.leaseServe (s0.putLease c) with leaseNow := some (c, insertReq r rs) }
      exec .moduleLeaseAcquire s = .next (serve (st, true)) ∧ exec .moduleLeaseRelease s = .next (serve (st, false)) ∧
      (rs.Pairwise (fun a b => a.1 ≤ b.1) → (insertReq (st, true) rs).Pairwise fun a b => a.1 ≤ b.1)) ∧
    (¬ busy → v.scope ≠ 3 → ∃ t, exec .tlbInvalidate s = .next t ∧ (t.station st).tiDone = some (s.cyc + 65) ∧ t.mem = s.mem ∧
      (∀ l, l ∈ (t.station st).tlb ↔ l ∈ x.tlb ∧ v.hits l.ctx l.va l.span = false) ∧
      ∀ co, co < 8 → ∀ l, l ∈ (t.core st co).mutlb ↔ l ∈ (s.core st co).mutlb ∧ v.hits l.ctx l.va l.span = false) ∧
    (¬ busy → v.scope = 3 → exec .tlbInvalidate s = .next u) ∧ (busy → exec .tlbInvalidate s = .next s0)

/-- R242, R289 to R292, R387 to R392: what the host link brings and takes: writes and reads of station memory and of the register page, refusals,
acknowledgements, timing messages, submissions and their delivery, completion records. R393: a station that has failed takes nothing.
When a delivery is tried again is log 62's reading, that an entry waits for room in its ring, one at a time, is log 63's. -/
def Obligations.HostSteps : Prop :=
  ∀ (s : State) (qp st off len co id tier ctx q mtu pa : Nat) (rc : Bool) (op : RoceOp) (data entry : List Byte) (port : Fin 4) (rest : List Input) (e : InEntry) (l : List InEntry) (a : Word) (v : State),
    let s0 : State := { s with inputs := rest }
    let d0 := leNat (entry.take 8)
    let c := d0 / 2 ^ 32 % 16
    let t := d0 / 2 ^ 36 % 8
    let next := (s.hreg st c 0).toNat % 2 ^ 32
    let x := s.station st
    let fits : Prop := entry.length = 64 ∧ off % 64 = 0 ∧ off < 4096 ∧ x.lost = false
    let dups (u : State) : Nat := (u.hreg st c 0x10).toNat / 2 ^ 16 % 2 ^ 16
    let h := s.handleQueue st ctx ((s.hreg st ctx 0x18).toNat / 2 ^ 32 % 2 ^ 12)
    let deq := s.queueStep (dispTid st) ctx .supervisor q none
    let keeps (u : State) : State := u.modStation st fun y => { y with compl := Tab.set y.compl ctx (some deq.1.1) }
    let sized : Prop := mtu = 1024 ∨ mtu = 2048 ∨ mtu = 4096
    (s.inputs = .roce qp true mtu st (.write off data) :: rest → sized → exec .hostRdmaWrite s = .next (s0.rdmaPut st off data)) ∧
    (s.inputs = .roce qp true mtu st (.writeImm off data) :: rest → sized → exec .hostRdmaWriteImm s = .next (s0.rdmaPut st off data)) ∧
    ((∀ n, ∀ r ∈ (s.station n).qres, r.bytes.length = 64) → off + data.length ≤ 2 ^ 34 → ∀ b, (s0.rdmaPut st off data).homeByte b =
      if s.pa st off ≤ b ∧ b < s.pa st off + data.length then data.getD (b - s.pa st off) 0 else s.homeByte b) ∧
    (s.inputs = .roce qp true mtu st (.read off len) :: rest → sized → off < 2 ^ 35 → ∃ u, exec .hostRdmaRead s = .next u ∧
      u.msgs = s.msgs ++ [⟨0x42, qp, (s0.readMarks (s.pa st off) len).homeBytes (s.pa st off) len⟩] ∧ u.mem = s.mem) ∧
    (s.inputs = .roce qp rc mtu st op :: rest → rc = false ∨ ¬ sized ∨ op = .other → exec .roceUnsupportedRequest s = .next (s0.send 0x43 qp []) ∧
      exec .hostRdmaWrite s = .next s0 ∧ exec .hostRdmaWriteImm s = .next s0 ∧ exec .hostRdmaRead s = .next s0) ∧
    (s.inputs = .hostAck st co id :: rest → ∃ u, exec .hostLinkAcknowledge s = .next u ∧ u.mem = s.mem ∧
      (u.core st co).wbs = (s.core st co).wbs.filter fun w => ¬ (w.id = id ∧ w.away = true)) ∧
    (s.inputs = .stamp port :: rest → exec .ieee1588Timestamp s = .next { s0 with stamps := s.stamps ++ [(port.val, s.tb)] }) ∧
    (s.inputs = .submit st off entry :: rest →
      (¬ fits → exec .intakeSubmit s = .next s0) ∧
      (fits → s.resident st c = false → exec .intakeSubmit s = .next (s0.nak st c 3 t)) ∧
      (fits → s.resident st c = true → d0 % 2 ^ 32 ≠ next → (BitVec.ofNat 32 d0 - BitVec.ofNat 32 next).msb = false →
        exec .intakeSubmit s = .next (s0.nak st c 2 t)) ∧
      (fits → s.resident st c = true → (BitVec.ofNat 32 d0 - BitVec.ofNat 32 next).msb = true → ∃ u, exec .intakeSubmit s = .next u ∧
        dups u = min 65535 (dups s + 1) ∧ (u.station st).intake = x.intake ∧ u.hreg st c 0 = s.hreg st c 0 ∧ u.mem = s.mem) ∧
      (fits → s.resident st c = true → d0 % 2 ^ 32 = next → 512 ≤ (x.tierQueue t).length → exec .intakeSubmit s = .next (s0.nak st c 1 t)) ∧
      (fits → s.resident st c = true → d0 % 2 ^ 32 = next → (x.tierQueue t).length < 512 → ∃ u, exec .intakeSubmit s = .next u ∧
        (∃ k, k.bytes = entry ∧ k.tier = t ∧ k.ctx = c ∧ k.deadl = leNat ((entry.drop 8).take 8) ∧ k ∈ (u.station st).intake ∧
          ((u.station st).intake).Perm (k :: x.intake)) ∧ (u.hreg st c 0).toNat = (next + 1) % 2 ^ 32)) ∧
    (s.resident st c = false ∨ s.halted st c = true ∨ (s.cb st (0x438 + 0x40 * c)).getLsbD 0 = false → s.deliver st c e = (false, s)) ∧
    (s.resident st ctx = true → s.halted st ctx = false → (s.cb st (0x438 + 0x40 * ctx)).getLsbD 0 = true → s.dispTarget st ctx (s.inSlotVa st ctx).toNat 64 = some pa →
      s.handleQueue st ctx ((s.cb st (0x430 + 0x40 * ctx)).toNat % 2 ^ 12) = some q → s.pageHeld q = false →
      let bytes := leBytes 8 (setBits (leNat (e.bytes.take 8)) 39 1 (decide (e.deadl < s.tb)).toNat) ++ e.bytes.drop 8
      let w := ((s.plainPut (((List.range 64).map (pa + ·)).zip bytes)).hostStore st pa bytes).queueStep (dispTid st) ctx .supervisor q (some (s.inSlotVa st ctx))
      s.deliver st ctx e = (w.1.1 == 0, w.2)) ∧
    (s.inTurn st tier = false → exec (.intakeDeliver st tier) s = .next s) ∧
    (s.inTurn st tier = true → x.tierQueue tier = e :: l → s.deliver st e.ctx e = (false, v) → exec (.intakeDeliver st tier) s =
      .next (v.modStation st fun x => { x with inRetry := Tab.set x.inRetry tier (v.cyc + 64) })) ∧
    (s.inTurn st tier = true → x.tierQueue tier = e :: l → s.deliver st e.ctx e = (true, v) → ∃ u, exec (.intakeDeliver st tier) s = .next u ∧ u.mem = v.mem ∧
      (u.station st).intake = (v.station st).intake.erase e ∧ Tab.get (u.station st).inSlot e.ctx = Tab.get (v.station st).inSlot e.ctx + 1) ∧
    (x.lost = true → exec (.completionRecord st ctx) s = .next s) ∧
    (x.lost = false → Tab.get x.compl ctx = some a → s.complRoom st ctx = false → exec (.completionRecord st ctx) s = .next s) ∧
    (x.lost = false → Tab.get x.compl ctx = some a → s.complRoom st ctx = true → exec (.completionRecord st ctx) s = .next (s.complWrite st ctx a)) ∧
    (Tab.get x.compl ctx = none → h = none → exec (.completionRecord st ctx) s = .next s) ∧
    (x.lost = false → Tab.get x.compl ctx = none → h = some q →
      (s.pageHeld q = true → exec (.completionRecord st ctx) s = .next s) ∧
      (s.pageHeld q = false → deq.1.2 ≠ 0 → exec (.completionRecord st ctx) s = .next deq.2) ∧
      (s.pageHeld q = false → deq.1.2 = 0 → (keeps deq.2).complRoom st ctx = false → exec (.completionRecord st ctx) s = .next (keeps deq.2)) ∧
      (s.pageHeld q = false → deq.1.2 = 0 → (keeps deq.2).complRoom st ctx = true →
        exec (.completionRecord st ctx) s = .next ((keeps deq.2).complWrite st ctx deq.1.1)))

/-- R251 to R255: the moves of a page whose atomics another module takes over, and its return.
That a returning page brings only the bytes that others changed is log 25's choice, that MIGEN is asked in all 48 stations log 80's reading.
R247, R249, R252, R254, R376: a flit carries the acknowledgements that wait for its module; a request for a page this module does not hold is passed on; in the order
of arrival; an acknowledgement that no flit has carried for 64 cycles leaves in its own flit; a write-back that no module takes for 65,536
cycles is lost and counted (log 81); the oldest write of the mirrored region is
performed at the same offset at the mirror station. -/
def Obligations.MigrationSteps : Prop :=
  (∀ (s : State) (page from_ : Nat) (data : List Byte) (own : List (Nat × Byte)) (ok : Bool) (m : Migr) (rest : List Input),
    let s0 : State := { s with inputs := rest }
    let a := 4096 * page
    let st := paStation a
    let x := s.station st
    let calm : Prop := ∀ n, ∀ q ∈ (s.station n).qres, q.bytes.length = 64
    let here (u : State) : Prop := ∀ b, (u.station st).rems.map (fun r => (r.id, r.held)) = x.rems.map (fun r => (r.id, r.held && decide (r.pa / 4096 ≠ page))) ∧
      (a ≤ b → b < a + 4096 → u.homeByte b = s.homeByte b)
    (s.inputs = .page page from_ data :: rest → 8 ≤ x.framesUsed page → exec .delegateInstall s = .next (s0.sendTo 0x25 from_ (leBytes 8 page))) ∧
    (s.inputs = .page page from_ data :: rest → x.framesUsed page < 8 → data.length = 4096 → calm → ∃ u, exec .delegateInstall s = .next u ∧
      (∀ b, u.homeByte b = if a ≤ b ∧ b < a + 4096 then data.getD (b - a) 0 else s.homeByte b) ∧
      (u.station st).migr = x.migr ++ [{ page := page, st := .away, module_ := from_, home := false }] ∧
      ⟨0x24, from_, leBytes 8 page⟩ ∈ u.msgs) ∧
    (s.inputs = .ready page true :: rest → s.migrOf a = some m → m.home = true → m.st = .leaving → (∀ i, i < 48 → (s.cb i 0x100).getLsbD 48 = true) →
      ∃ u, exec .migrationReady s = .next u ∧ here u ∧ (∀ k ∈ (u.station st).migr, k.page = page → k.st = .away) ∧
        (u.cb st 0x100).toNat % 2 ^ 32 = ((s.cb st 0x100).toNat + 1) % 2 ^ 32) ∧
    (s.inputs = .ready page false :: rest → s.migrOf a = some m → m.home = true → m.st = .leaving → ∃ u, exec .migrationReady s = .next u ∧ here u ∧
      (∀ k ∈ (u.station st).migr, k.page ≠ page) ∧ (∀ k ∈ (u.station st).contend, k.page ≠ page) ∧
      (u.cb st 0x100).toNat / 2 ^ 32 % 2 ^ 16 = min 65535 ((s.cb st 0x100).toNat / 2 ^ 32 % 2 ^ 16 + 1)) ∧
    (s.inputs = .ready page ok :: rest → s.migrOf a = none → exec .migrationReady s = .next s0) ∧
    (s.inputs = .pageBack page own :: rest → s.migrOf a = some m → m.home = true → m.st = .away → (own.map Prod.fst).Nodup → calm →
      ∃ u, exec .returnPageReceive s = .next u ∧ (∀ d ∈ own, d.1 < 4096 → u.homeByte (a + d.1) = d.2) ∧
        (∀ b, (∀ d ∈ own, d.1 < 4096 → a + d.1 ≠ b) → u.homeByte b = s.homeByte b) ∧
        (∀ k ∈ (u.station st).migr, k.page = page → k.st = .closing) ∧ ⟨0x26, m.module_, leBytes 8 page⟩ ∈ u.msgs) ∧
    (s.inputs = .closing page :: rest → s.migrOf a = some m → m.home = false → ∃ u, exec .migrationClosing s = .next u ∧ u.mem = s.mem ∧
      (∀ k ∈ (u.station st).migr, k.page ≠ page) ∧ (∀ r ∈ (u.station st).rems, r.pa / 4096 ≠ page) ∧
      ⟨0x27, paModule a, leBytes 8 page⟩ ∈ u.msgs) ∧
    (s.inputs = .closed page :: rest → s.migrOf a = some m → m.home = true → m.st = .closing → ∃ u, exec .migrationClosed s = .next u ∧
      (let mine (r : RemOp) : Bool := decide (r.pa / 4096 = page) && r.held
       (u.station st).rems = (x.rems.filter (fun r => !mine r) ++ (x.rems.filter mine).map fun r => { r with held := false } : List RemOp).map fun r =>
         if r.pa / 4096 = page then { r with drain := true } else r) ∧
      (∀ b, u.homeByte b = s.homeByte b) ∧ (∀ k ∈ (u.station st).migr, k.page ≠ page) ∧ ∀ k ∈ (u.station st).contend, k.page ≠ page))
  ∧ (∀ (s : State) (r : RemOp) (id port st co : Nat) (w : Wb) (m : Mirror) (rest : List Mirror),
    let me := s.station (paStation r.pa)
    let nxt := (st + 1) % 48
    let next := if (s.station nxt).share = 0 then (st + 2) % 48 else nxt
    let dst := s.modnum * 2 ^ 41 + next * 2 ^ 35 + (s.cb st 0x3058).toNat % 2 ^ 35
    let first : Prop := ∀ q ∈ me.rems.takeWhile (fun q => q.id != r.id), q.pa / 4096 ≠ r.pa / 4096
    let due (a : Ack) : Bool := decide (a.due ≤ s.cyc)
    let rides (m : Nat) : List HostMsg := ((s.port (s.portTo m)).acks.filter fun a => a.toMod == m).map fun a => ⟨0x29, a.toMod, leBytes 8 a.id⟩
    (s.rem? id = some r → first → s.migrOf r.pa = none → paModule r.pa ≠ s.modnum → ∃ (u : State) (g : HostMsg), exec (.forwardedAccess id) s = .next u ∧
      u.msgs = s.msgs ++ rides (paModule r.pa) ++ [g] ∧ g.qp = paModule r.pa ∧ u.mem = s.mem ∧ (u.station (paStation r.pa)).rems = me.rems.filter fun q => q.id ≠ r.id) ∧
    (s.rem? id = some r → ¬ first ∨ (s.migrOf r.pa = none ∧ paModule r.pa = s.modnum) → exec (.forwardedAccess id) s = .next s) ∧
    (∃ u, exec (.ackFlit port) s = .next u ∧ u.mem = s.mem ∧ (u.port port).acks = (s.port port).acks.filter (fun a => !due a) ∧
      u.msgs = s.msgs ++ ((s.port port).acks.filter due).map fun a => ⟨0x29, a.toMod, leBytes 8 a.id⟩) ∧
    (∀ kind m data, (s.sendTo kind m data).msgs = s.msgs ++ rides m ++ [⟨kind, m, data⟩] ∧
      ((s.sendTo kind m data).port (s.portTo m)).acks = (s.port (s.portTo m)).acks.filter fun a => a.toMod != m) ∧
    (r.kind = .store → s.migrOf r.pa = none → ∃ (a : Ack) (n : Nat), ((s.endRem r []).port n).acks = (s.port n).acks ++ [a] ∧ a.toMod = r.from_ ∧ a.id = r.id ∧ a.due = s.cyc + 64) ∧
    (r.kind ≠ .store → ∀ data, ⟨0x20, r.from_, leBytes 8 r.id ++ data⟩ ∈ (s.endRem r data).msgs) ∧
    (w ∈ (s.core st co).wbs → w.since + 65536 ≤ s.cyc → s.paKind w.pa = .gone → exec (.accessUndeliverable (.wb st co w.id)) s =
      .next ({ s with lostBytes := s.lostBytes + (((s.core st co).wbs.filter fun (x : Wb) => x.id == w.id).map fun (x : Wb) => x.bytes.length).sum }.modCore st co
        fun c => { c with wbs := c.wbs.filter fun x => x.id ≠ w.id, lost := true })) ∧
    ((s.station st).mirrors = m :: rest → ∃ u : State, u = s.modStation st (fun x => { x with mirrors := rest }) ∧
      exec (.mirrorWrite st) s = .next (u.plainPut (m.bytes.map fun b => (dst + (b.1 - m.off), b.2)))))

/-- R22, R256 to R258, R385, R411: ports as they are trained, lose lanes and replay flits, the 65th CRC error of a lane within 2^20 cycles losing
the lane; a tile-walk engine takes a permit, and reports the end of its pieces. R252: what stands in a page under migration waits.
That an unreadable or bad queue stops the engine with STOP is log 64's reading. -/
def Obligations.FabricSteps : Prop :=
  ∀ (s v : State) (e p lane pa : Nat) (lanes present : List Nat) (modnum : Nat) (rest : List Input) (perm r2 : Word),
    let x := s.engineOf e
    let ctl := (Cells.get s.pcb (0x1018 + 0x20 * e)).toNat
    let free : Prop := x.waits = false ∧ s.engHeld e (s.engCell e 0) = false
    let ended : Prop := x.busy = true ∧ x.waits = false ∧ x.pieces = [] ∧ s.engHeld e (s.engCell e 8) = false
    let runs : Prop := ctl % 2 = 1 ∧ ctl / 2 % 2 = 0 ∧ x.busy = false
    let stop (u : State) : State := { u with pcb := Cells.set u.pcb (0x1000 + 0x20 * e + 0x18) (Cells.get u.pcb (0x1000 + 0x20 * e + 0x18) ||| 2) }
    let n (p : Nat) : Nat := lanes.getD p 0
    let die (p : Nat) : List Nat := (List.range 78).filter fun q => decide (q < 31) = decide (p < 31)
    let good (p : Nat) : Prop := 1 ≤ n p ∧ n p ≤ 16 ∧ ((die p).map n).sum ≤ 320
    let old := s.port p
    let taken (q : Option Nat) : Prop := s.engQueue e (s.engCell e 0) = (q, v)
    let told (q : Option Nat) : Prop := s.engQueue e (s.engCell e 8) = (q, v)
    let who := dispTid x.stn
    (s.inputs = .train lanes present modnum :: rest → p < 78 → ∃ u, exec .fabricTrain s = .next u ∧ u.present = present ∧ u.modnum = modnum % 1536 ∧
      (good p → (u.port p).lanes = (List.range (n p)).filter fun l => l ∉ old.failed) ∧ (¬ good p → (u.port p).up = false ∧ (u.port p).lanes = []) ∧
      ((u.port p).up = true ↔ (u.port p).lanes ≠ []) ∧ (modnum % 1536 = s.modnum → u.mem = s.mem)) ∧
    (s.inputs = .lane p lane :: rest → ∃ u, exec .laneFailRetrain s = .next u ∧ (u.port p).lanes = old.lanes.filter (fun l => l ≠ lane) ∧
      ((u.port p).up = true ↔ (u.port p).lanes ≠ []) ∧ u.mem = s.mem ∧
      (Cells.get u.pcb (0x3100 + 8 * p)).toNat / 2 ^ 32 % 2 ^ 16 = min 65535 ((Cells.get s.pcb (0x3100 + 8 * p)).toNat / 2 ^ 32 % 2 ^ 16 + 1)) ∧
    (s.inputs = .flit p lane :: rest →
      let es := (lane, s.cyc) :: old.crc.filter fun e => decide (s.cyc < e.2 + 2 ^ 20)
      let fails : Prop := lane ∈ old.lanes ∧ 64 < es.countP (·.1 == lane)
      ∃ u, exec .fabricFlitReplay s = .next u ∧ u.mem = s.mem ∧ (¬ fails → u.port p = { old with crc := es }) ∧
      (fails → (u.port p).lanes = old.lanes.filter (fun l => l ≠ lane) ∧ ((u.port p).up = true ↔ (u.port p).lanes ≠ []) ∧
        (Cells.get u.pcb (0x3100 + 8 * p)).toNat / 2 ^ 32 % 2 ^ 16 = min 65535 ((Cells.get s.pcb (0x3100 + 8 * p)).toNat / 2 ^ 32 % 2 ^ 16 + 1)) ∧
      (Cells.get u.pcb (0x3100 + 8 * p)).toNat / 2 ^ 48 = min 65535 ((Cells.get s.pcb (0x3100 + 8 * p)).toNat / 2 ^ 48 + 1)) ∧
    (x.waits = true → exec (.tileWalkPermit e) s = .next (s.beginTile e x.perm)) ∧
    (x.waits = false → ¬ runs ∨ s.engHeld e (s.engCell e 0) = true → exec (.tileWalkPermit e) s = .next s) ∧
    (free → runs → taken none → exec (.tileWalkPermit e) s = .next (stop v)) ∧
    (free → runs → taken (some pa) → ∀ w, v.queueStep who (v.engCtx e) .supervisor pa none = ((perm, r2), w) →
      (r2 = 0 → exec (.tileWalkPermit e) s = .next (w.beginTile e perm)) ∧ (r2 = 1 → exec (.tileWalkPermit e) s = .next w) ∧
      (r2 = 2 → exec (.tileWalkPermit e) s = .next (stop w))) ∧
    (¬ ended → exec (.tileWalkDone e) s = .next s) ∧
    (ended → told (some pa) → ∀ w, v.queueStep who (v.engCtx e) .supervisor pa
        (some (wset x.perm 56 8 x.status)) = ((perm, r2), w) →
      (perm = 0 → exec (.tileWalkDone e) s = .next (w.modEngine e fun x => { x with busy := false })) ∧ (perm = 1 → exec (.tileWalkDone e) s = .next w)) ∧
    (ended → told none → exec (.tileWalkDone e) s = .next (stop (v.modEngine e fun x => { x with busy := false })))

/-- R373, R374, R393 to R398, R403 to R407: station controllers: commands under the lease's epoch, images and their checks, fuses, attestation, self-tests,
the power decision, and the losses of rail, clock and temperature that hold the module in reset until it is released. The measurement of an
image is the SHA-256 digest of its signed bytes. Rows that failed for good fail again at the self-test after a reset.
What a reset keeps is log 43's reading, the banks of a scan log 42's presumption, the value 0 in a refused image's record log 67's reading. -/
def Obligations.FirmwareSteps : Prop :=
  ∀ (s : State) (src dst epoch st row : Nat) (body bytes req : List Byte) (rest : List Input) (rail : Fin 3) (temp : Nat) (r : ErrRep) (es : List ErrRep) (at_ : Nat)
    (failed : Bool) (rs : List (List Byte)),
    let s0 : State := { s with inputs := rest }
    let x := s.station st
    let stands : Prop := s.leaseHeld = true ∧ s.tb < s.leaseExp
    let held (u : State) : Prop := u.inReset = true ∧ u.mem = s.mem ∧ u.fuse = s.fuse ∧ u.threads = [] ∧ u.cores = [] ∧ u.tb = s.tb ∧ u.badRows = s.badRows
    let a := ((List.range 48).map fun i => (s.cb i 0x3C8).toNat / 2 ^ 8 % 2 ^ 8).sum
    let p0 := (Cells.get s.pcb 0x4000).toNat
    let p1 := (Cells.get s.pcb 0x4008).toNat
    let demand := p0 % 2 ^ 16 + a * (p1 / 2 ^ 16 % 2 ^ 8)
    let limit := min 10000 (p0 / 2 ^ 16 % 2 ^ 16)
    let thr := min 105 (p1 / 2 ^ 8 % 2 ^ 8)
    let kmin := min 12 (p1 / 2 ^ 4 % 2 ^ 4)
    (s.inputs = .controller src dst epoch body :: rest → (epoch < s.leaseEpoch → exec .controllerCommand s = .next s0) ∧
      (s.leaseEpoch ≤ epoch → exec .controllerCommand s = .next (s0.command dst body))) ∧
    (s.inputs = .image st bytes :: rest → exec .imageVerify s = .next (if imgOk s.fuse bytes = true
        then s0.modStation st fun x => { x with staged := some { bytes := bytes, svn := leNat ((bytes.drop 8).take 1) } }
        else s0.fwRecord st 0x0201 0)) ∧
    (leNat ((bytes.drop 8).take 1) < s.fuse ∨ leNat (bytes.take 4) ≠ 0x46585358 ∨ 64 < leNat ((bytes.drop 8).take 1) → imgOk s.fuse bytes = false) ∧
    (s.fuseReq = true → stands → exec .fuseCommit s = .next { s with fuse := max s.fuse (min 64 s.active.svn), fuseReq := false }) ∧
    (s.fuseReq = false ∨ ¬ stands → exec .fuseCommit s = .next s) ∧
    (s.inputs = .restart st :: rest → ∃ u, exec .stationControllerRestart s = .next u ∧ (u.station st).image = x.staged.getD x.image ∧ (u.station st).staged = none ∧ u.mem = s.mem) ∧
    (s.attest = req :: rs → stands → ∃ h, exec .attestRequest s = .next (({ s with attest := rs } : State).hostWrite s.leaseHolder 0x40 (leNat ((req.drop 32).take 8))
      (h ++ pad (Config.attestSign h) 384)) ∧ h.length = 256 ∧
      (44 ≤ req.length → h.take 8 = leBytes 4 1 ++ (req.drop 40).take 4) ∧
      (32 ≤ req.length → s.active.bytes ≠ [] → (h.drop 64).take 32 = pad (sha256 (s.active.bytes.take 32 ++ s.active.bytes.drop 512)) 32)) ∧
    (s.attest = [] ∨ ¬ stands → exec .attestRequest s = .next s) ∧
    (x.errs = r :: es → x.testing = none → x.scan = none → exec (.selfTestStart st) s =
      .next ((s.modStation st fun x => { x with errs := es, testing := some (r, s.cyc) }).readMarks (s.pa st (r.off / 2048 * 2048)) 2048)) ∧
    (x.errs = [] ∨ x.testing ≠ none ∨ x.scan ≠ none → exec (.selfTestStart st) s = .next s) ∧
    (s.inputs = .testEnd st failed :: rest → x.testing = some (r, at_) → at_ + 2048 ≤ s.cyc →
      let again : Prop := failed = true ∨ ∃ e ∈ x.errs, e.off / 2048 = r.off / 2048 ∧ at_ < e.cyc
      let bank := bankOf (r.off / 2048)
      ∃ u, exec .selfTestEnd s = .next u ∧ (u.station st).testing = none ∧ (u.station st).scan = some (bank.2 * 16 + bank.1, 0, s.cyc + 16) ∧
        (¬ again → u.cb st 0x3010 = s.cb st 0x3010 + 1 ∧ u.mem = s.mem ∧ (u.station st).retired = x.retired) ∧
        (again → x.retired.countP (fun q => bankOf q = bank) < 32 → u.cb st 0x3018 = s.cb st 0x3018 + 1 ∧ (u.station st).retired = x.retired ++ [r.off / 2048]) ∧
        (again → 32 ≤ x.retired.countP (fun q => bankOf q = bank) → u.cb st 0x3020 = s.cb st 0x3020 + 1 ∧ (u.station st).retired = x.retired) ∧
        (again → u.badRows = s.badRows ++ [(st, r.off / 2048)])) ∧
    (s.scanDue = none → exec .bankScanRow s = .next s) ∧
    (s.scanDue = some st → ∀ b k d, x.scan = some (b, k, d) → ∃ u, exec .bankScanRow s = .next u ∧
      (u.station st).scan = (if k + 1 = 32768 then none else some (b, k + 1, s.cyc + 16)) ∧ u.mem = s.mem ∧
      (row = bankRow (b % 16, b / 16) k → ∃ w, w = s.readMarks (s.pa st (row * 2048)) 2048 ∧ (u.station st).uncorr = (w.station st).uncorr)) ∧
    (∃ u k, exec .powerDecision s = .next u ∧ u.kNext = max k kmin ∧ u.mem = s.mem ∧ u.threads = s.threads ∧ Cells.get u.pcb 0x4018 = BitVec.ofNat 64 (s.temp % 256) ∧
      (thr + 10 ≤ s.temp → k = 12) ∧ (s.temp < thr → k ≤ 12 ∧ (demand * (16 - k) ≤ limit * 16 ∨ k = 12) ∧ ∀ j, j < k → limit * 16 < demand * (16 - j))) ∧
    (s.inputs = .rail rail :: rest → ∃ u, exec .railFault s = .next u ∧ held u ∧ u.inputs = rest) ∧
    (s.inputs = .pll :: rest → ∃ u, exec .pllUnlock s = .next u ∧ held u ∧ u.inputs = rest) ∧
    (s.inputs = .temp temp :: rest → (temp < 125 → exec .thermalTrip s = .next s0) ∧
      (125 ≤ temp → ∃ u, exec .thermalTrip s = .next u ∧ u.inReset = true ∧ u.threads = [] ∧ u.cores = [] ∧ u.temp = temp ∧ u.fuse = s.fuse ∧
        u.mem = if stands then (s0.fwRecord s.leaseHolder 0x0301 0).mem else s.mem)) ∧
    (s.inputs = .release :: rest → exec .resetRelease s =
      .next (s.badRows.foldl (fun u b => u.lasting b.1 b.2) { s0 with inReset := false, badRows := [] }))

/-! Every word, every step. -/

/-- R25, R28, R33, R193: what a word at the head of its queue does before its own effect, the same for every word there is. An
empty queue does nothing. A token at or above the count of the resource header faults whatever the guard; one that is not there
holds the word. A word whose guard is false only leaves its queue: its delay applies and its token is consumed (log 9), and
nothing else changes, but that a KVCMP behind it no longer goes on at PROG (R224). -/
def Obligations.GuardAndToken : Prop :=
  ∀ (s : State) (i : Instr) (c : Ctl), i.ctl = some c →
    let t := s.cur.1
    let q := s.cur.2
    let th := s.thread t
    (th.head q = none → exec i s = .next s) ∧
    ∀ e : Entry, th.head q = some e →
      let off := ∃ m, c.mods = some m ∧ m.gen = true ∧ (if m.gp.val = 0 then true else th.p.getLsbD (physP e.base m.gp.val)) = m.gneg
      let off' (u : Thread) := ∃ m, c.mods = some m ∧ m.gen = true ∧ (if m.gp.val = 0 then true else u.p.getLsbD (physP e.base m.gp.val)) = m.gneg
      (c.v.val = 3 → e.tok = false → wbits th.hdr 20 4 ≤ c.d.val → exec i s = .next (s.raise t { fOver 4 with pc := e.pc, q := q })) ∧
      (c.v.val = 3 → e.tok = false → c.d.val < wbits th.hdr 20 4 → th.tokens c.d.val = [] → exec i s = .next s) ∧
      (c.v.val ≠ 3 ∨ e.tok = true → off → exec i s = .next (s.setThread t { th.popHead q (s.tcyc + 1 + c.delay th) with
        spl := th.spl.after e.seq s.tcyc, kvRestart := th.kvRestart && q != .c })) ∧
      (c.v.val = 3 → e.tok = false → c.d.val < wbits th.hdr 20 4 → th.tokens c.d.val ≠ [] → off' (th.consume q c.d.val) →
        exec i s = .next (s.setThread t { (th.consume q c.d.val).popHead q (s.tcyc + 1) with
          spl := th.spl.after e.seq s.tcyc, kvRestart := th.kvRestart && q != .c }))

/-- R28, R29, R31, R33, R34: what the issue of a word leaves that has no effect but register writes in flight (`State.wrote`, in
which the statements on words are written): the whole module but this thread is as it was, and of the thread nothing moves but
its own queue, the splitter that stood behind it, the mark of a KVCMP to go on with (R224), FLAGS, which gain what the word sets at issue, and the writes in flight, which
gain the word's own. `th` is the thread with the token of V = 3 consumed, and the thread itself where there is none. -/
def Obligations.IssueFrame : Prop :=
  ∀ (s : State) (c : Ctl) (e : Entry) (th : Thread) (lat extra : Nat) (ws : List RegW), s.CanRun c e th →
    let t := s.wrote c e th lat extra ws
    let b := t.thread s.cur.1
    t = { s with threads := t.threads } ∧ (∀ u : Tid, Tid.key u ≠ Tid.key s.cur.1 → t.thread u = s.thread u) ∧
    (c.v.val ≠ 3 ∨ e.tok = true → th = s.thread s.cur.1) ∧
    b = { th with
      qs := b.qs, qv := b.qv, qm := b.qm, qc := b.qc, qx := b.qx, spl := b.spl, ctl := b.ctl, pend := b.pend,
      kvRestart := (s.thread s.cur.1).kvRestart && s.cur.2 != .c } ∧
    (∀ r, r ≠ s.cur.2 → b.queue r = (s.thread s.cur.1).queue r) ∧
    (b.queue s.cur.2).es = ((s.thread s.cur.1).queue s.cur.2).es.tail ∧ (b.queue s.cur.2).ready = s.tcyc + 1 + c.delay th + extra ∧
    (b.queue s.cur.2).blk = ((s.thread s.cur.1).queue s.cur.2).blk ∧
    (∀ n, n ≠ crFLAGS → b.creg n = th.creg n) ∧ b.creg crFLAGS = (th.creg crFLAGS ||| c.issueFlags {}) ∧
    b.pend = th.pend ++ (if ws = [] then [] else [⟨s.tcyc + lat, s.tcyc, e.seq, s.cur.2, ws⟩])

/-- R26, R28, R413: one step of the machine. While something is due in the core cycle, the first of it is performed: a hardware step
as `exec` of it; the issue from a queue as `exec` of the instruction that the head entry holds, where the queue may issue and no
error of thread-private data stands in its way (R371). A queue that may not issue is passed over, and a head entry that is no
instruction meets its fault (R32). With nothing due, a step that has become possible is taken or a source period passes; which
of these comes first is open (log 3). A module in reset takes nothing but its release, and without one its clock stands (R404). -/
def Obligations.StepRuns : Prop :=
  ∀ (s : State) (t : Tid) (q : QName) (i : Instr) (rest : List Action),
    let u : State := { s with agenda := rest, cur := (t, q) }
    (s.agenda = .ev i :: rest → step s = exec i { s with agenda := rest }) ∧
    (s.agenda = .issue t q :: rest → s.canIssue t q = true → s.spoiled t q = none →
      (∀ e, (s.thread t).head q = some e → decodeInstr e.word e.exts = .ok i → step s = exec i u) ∧
      (∀ e r, (s.thread t).head q = some e → decodeInstr e.word e.exts = .error r →
        step s = .next (u.raise t { decFrec r with pc := e.pc, q := q }))) ∧
    (s.agenda = .issue t q :: rest → s.canIssue t q = false → step s = .next u) ∧
    (s.agenda = [] → s.inReset = false →
      (s.enabled = [] → step s = .next s.tick) ∧
      (step s = .next s.tick ∨ ∃ j ∈ s.enabled, step s = exec j { s with freeCtr := s.freeCtr + 1 })) ∧
    (s.agenda = [] → s.inReset = true → .release ∉ s.inputs → step s = .fault .noClock) ∧
    (s.agenda = [] → s.inReset = true → .release ∈ s.inputs → ∃ l, step s = exec .resetRelease { s with inputs := .release :: l })

/-- R24, R35 to R47: for every well-formed instruction, at every value of its operands that its encoding admits, the decoder reads
from the words of the encoder that instruction and leaves nothing over. -/
def Obligations.DecodeEncode : Prop :=
  ∀ (i : Instr) (c : Ctl), i.ctl = some c → i.wf = true → decodeWords (encode i) = .ok (i, [])

/-- R7: every step keeps the canonical form of the module's memory, so that two memories that read alike are equal data: the form
is the model's own (log 1). -/
def Obligations.MemoryInvariant : Prop :=
  ∀ s t : State, s.memWf → step s = .next t → t.memWf

/-- R23, R292, R406: a period of the source in which nothing arrives from outside. A run of 16 takes up the swallow count that the
power controller chose as it begins; a swallowed pulse moves TB (log 7) and SWCNT and nothing else, but that positions to reload are told to
the host where a lease stands and the period's lease requests are closed (log 93); a delivered one adds 1 to CYC and makes due the
steps of the new cycle. -/
def Obligations.ClockPulse : Prop :=
  ∀ s : State, s.inputs = [] →
    let p := if s.period = 0 then Cells.set s.pcb 0x4008 (wset (Cells.get s.pcb 0x4008) 0 4 s.kNext) else s.pcb
    let k := (Cells.get p 0x4008).toNat % 16
    let order := [15, 7, 11, 3, 13, 5, 9, 1, 14, 6, 10, 2]
    let swallowed := ∃ n, n < k ∧ order[n]? = some s.period
    let tb := s.tb + Config.tbAdvance s.freeCtr
    let told : State := if s.reloads = [] ∨ s.leaseStands = false then s
      else { s with msgs := s.msgs ++ [⟨0x32, s.leaseHolder, s.reloads.flatMap (leBytes 4)⟩], reloads := [] }
    (swallowed → s.tick = { told with
      leaseNow := none, period := (s.period + 1) % 16, tb := tb, freeCtr := s.freeCtr + 1, pcb := Cells.set p 0x4010 (Cells.get p 0x4010 + 1) }) ∧
    (¬ swallowed → s.tick.cyc = s.cyc + 1 ∧ s.tick.tb = tb ∧ s.tick.period = (s.period + 1) % 16 ∧ s.tick.pcb = p) ∧
    (s.period = 0 ∨ s.period = 4 ∨ s.period = 8 ∨ s.period = 12 → ¬ swallowed)

/-- R174, R175, R176, R178, R179, R181, R182: a translation that nothing cached shortens. `tab k` is the table that the walk reads at
level k; it has gone down as far as level `lvl`. A leaf with a contiguous hint is not met here (R183). -/
def Obligations.Translation : Prop :=
  ∀ (s : State) (t : Tid) (ctx va : Nat) (priv : Priv) (acc : Access),
    (2 ^ 57 ≤ va → s.xlateFull t ctx priv va acc = .fault 4 4) ∧
    (va < 2 ^ 57 → va / 2 ^ 48 = 511 →
      (acc ≠ .read → s.xlateFull t ctx priv va acc = .fault 2 0) ∧
      (acc = .read → s.xlateFull t ctx priv va acc =
        if 64 * 2 ^ 22 ≤ va % 2 ^ 48 then .fault 1 4 else if 2304000 ≤ va % 2 ^ 22 then .fault 1 0
        else .seg (va % 2 ^ 48 / 2 ^ 22) (va % 2 ^ 22))) ∧
    (va / 2 ^ 48 < 511 → s.cached t ctx va = none → (s.station t.st).wc = [] →
      let root := ((s.cb t.st (0x2000 + 0x40 * ctx)).toNat / 2 ^ 12 % 2 ^ 40) * 4096
      (s.paKind root ≠ .own → s.xlateFull t ctx priv va acc = .fault 6 4) ∧
      ∀ (tab : Nat → Nat) (lvl : Nat), lvl ≤ 4 → tab 4 = root → (∀ k, lvl ≤ k → k ≤ 4 → s.paKind (tab k) = .own) →
        let e (k : Nat) : Nat := s.homeN (tab k + 8 * (va / 2 ^ (12 + 9 * k) % 512)) 8
        let pa (k : Nat) : Nat := e k / 2 ^ 12 % 2 ^ 40 * 4096
        let leaf (k : Nat) : Prop := k = 0 ∨ (k = 1 ∧ tbit (e k) 1 = true)
        (∀ k, lvl < k → k ≤ 4 → tbit (e k) 0 = true ∧ reservedBits (e k) k = false ∧ ¬ leaf k ∧ tab (k - 1) = pa k) →
          let span := if lvl = 1 then 2 ^ 21 else 2 ^ 12
          let l : Leaf := { ctx := ctx, va := va / span * span, span := span, pa := pa lvl, r := tbit (e lvl) 2, w := tbit (e lvl) 3,
                            x := tbit (e lvl) 4, u := tbit (e lvl) 5, nc := tbit (e lvl) 8, mp := 0 }
          let inRange := s.paKind (pa lvl) ≠ .bad ∧ s.paKind (pa lvl) ≠ .gone ∧ s.paKind (pa lvl + span - 1) = s.paKind (pa lvl)
          (tbit (e lvl) 0 = false → s.xlateFull t ctx priv va acc = .fault 1 lvl) ∧
          (tbit (e lvl) 0 = true → reservedBits (e lvl) lvl = true → s.xlateFull t ctx priv va acc = .fault 3 lvl) ∧
          (tbit (e lvl) 0 = true → reservedBits (e lvl) lvl = false → ¬ leaf lvl → s.paKind (pa lvl) ≠ .own →
            s.xlateFull t ctx priv va acc = .fault 6 lvl) ∧
          (tbit (e lvl) 0 = true → reservedBits (e lvl) lvl = false → leaf lvl → ¬ inRange → s.xlateFull t ctx priv va acc = .fault 5 lvl) ∧
          (tbit (e lvl) 0 = true → reservedBits (e lvl) lvl = false → leaf lvl → inRange → (lvl = 0 → tbit (e lvl) 6 = false) →
            s.xlateFull t ctx priv va acc =
              if (s.narrow l).permits acc priv = true then .pa (pa lvl + va % span) (tbit (e lvl) 8) else .fault 2 lvl))

/-- What the spec states of the module right after reset, and nothing that the model chose (log 2): CYC and TBSKEW (R292), the power
controller's registers (R406), every register of every station's control block (R410 and the maps it gathers: MIGEN 1, ROWCAP 45, the
tier weights 1, the quantum 4,096, TLRATE 64, the others 0), INACKN 16 in every host page and the other fields 0 (R391), the lease of
the module free (R394). -/
def Obligations.ResetValues : Prop :=
  State.reset.cyc = 0 ∧ State.reset.tbskew = 0xFFFFFFFF ∧
  Cells.get State.reset.pcb 0x4000 = 10000 * 2 ^ 16 + 1400 ∧ Cells.get State.reset.pcb 0x4008 = 8 * 2 ^ 16 + 95 * 2 ^ 8 ∧
  (∀ off, off ≠ 0x4000 → off ≠ 0x4008 → Cells.get State.reset.pcb off = 0) ∧
  State.reset.leaseHeld = false ∧ State.reset.leaseHolder = 0 ∧ State.reset.leaseEpoch = 0 ∧ State.reset.leaseExp = 0 ∧
  ∀ st, State.reset.cb st 0x100 = 2 ^ 48 ∧ State.reset.cb st 0x228 = 45 ∧ State.reset.cb st 0x300 = 0x0101010101010101 ∧
    State.reset.cb st 0x308 = 4096 ∧ State.reset.cb st 0x1418 = 64 ∧
    (∀ off, off ∉ [0x100, 0x228, 0x300, 0x308, 0x1418] → State.reset.cb st off = 0) ∧
    ∀ c r, c < 16 → r < 64 → Cells.get (State.reset.station st).host (64 * c + r) = if r = 16 then 0x1000000000 else 0

/-- The module's memory has its canonical form at reset: the first state of what `MemoryInvariant` says of every step (log 1). -/
def Obligations.ResetMemory : Prop := State.reset.memWf ∧ ∀ a, Cells.get State.reset.mem a = 0

/-- R35, R38 to R47, R56: words that the spec writes out, and words of the other engines by their tables, decode to what they stand
for; an EXT word with nothing to attach to, an engine that is none, a long form without its word, two modifier words and an
unassigned function code are refused, each by its name. -/
def Obligations.DecodedWords : Prop :=
  let c (v d : Fin 4) : Ctl := { v := v, d := d }
  let ok (ws : List Nat) (i : Instr) : Prop := decodeWords ws = .ok (i, [])
  ok [0x0400C220] (.add (c 0 2) 3 1 2) ∧ ok [0x004109FF] (.addi (c 0 0) 4 4 511) ∧
  ok [0x3A041035] (.vadd (c 3 1) ⟨1, .row, 0⟩ ⟨2, .row, 0⟩ ⟨3, .col, 1⟩) ∧
  ok [0x21F48900, 0xED500000, 0xF110000E] (.vcvt { mods := some { type := .e4m3, rnd := .dth } } ⟨5, .row, 2⟩ ⟨1, .row, 2⟩ .fp32) ∧
  ok [0x06000000] (.add (c 0 3) 0 0 0) ∧ ok [0x0079C03F] (.li (c 0 0) 7 63) ∧ ok [0x003A42A0] (.setc (c 0 0) 9 .kinc) ∧
  ok [0x00CA0E02] (.loop (c 0 0) 8 7 true false) ∧ ok [0x21290800, 0xE8040000] (.vmov { mods := some { mask := .all } } ⟨2, .col, 0⟩ ⟨1, .row, 0⟩) ∧
  ok [0x00D07FFE] (.loopend (c 0 0) 0x7FFE) ∧ ok [0x80000850] (.binit (c 0 0) 4 5) ∧ ok [0x80100850] (.bexp (c 0 0) 4 5) ∧
  ok [0x01D80000] (.xfence (c 0 0)) ∧ ok [0x60019000] (.cpy (c 0 0) 3 4) ∧ ok [0x80180800] (.bwait (c 0 0) 4) ∧
  ok [0x01F04000] (.postS (c 0 0) 1) ∧ ok [0x01F04001] (.waitS (c 0 0) 1) ∧ ok [0x40E00001] (.postM (c 0 0) 1) ∧
  ok [0x40F00001] (.waitM (c 0 0) 1) ∧ ok [0xA0663400] (.tapeval (c 0 0) 3 3 8 0) ∧
  decodeInstr 0xED500000 [] = .error .orphanExt ∧ decodeInstr 0xC0000000 [] = .error .engine ∧
  decodeInstr 0x21F48900 [0xED500000] = .error .longMissing ∧ decodeInstr 0x0400C220 [0xE8040000, 0xE8040000] = .error .extDuplicate ∧
  decodeInstr 0x00080009 [] = .error .opUnassigned

/-! Taps. -/

/-- R335, R338 to R340, R346: the tap words as they issue: the checks of each in order, and what goes into the tap unit: the operands,
the enabled rows, the planes and memory as the word reads them, the image of a table write. Only the words on rows take MASK (R49).
R330, R335 to R341, R344, R346: the oldest X word of a thread completes when its time has come, and what it leaves, its tables and
blocks read as they stood at issue: TAPSEL and TAPRD a register, TAPCLR zeros in both planes, TAPPRB and TAPSTV the image, TAPSTR the
steered rows and no other with the count of skipped entries, TAPDOT the sums over a chunk and no other element with the snapshots of the
rows, TAPEVAL the counts of its probes and of its slot, its scores, the trapped rows and its two masks.
That memory is read as it stood at issue is log 89's reading. -/
def Obligations.TapWords : Prop :=
  (∀ (s : State) (c : Ctl) (e : Entry) (th : Thread) (t : Fin 16) (a b : SReg) (z : ZReg) (m : LReg) (off n : Nat), s.CanRun c e th →
    let x := s.ctx c e
    let me := s.cur.1
    let s0 := s.setThread me th
    let A := th.readS e.base a
    let B := th.readS e.base b
    let sl := s0.tapSlot me.st th.ctx t.val
    let rows : Word := x.mask s0 &&& (if 64 ≤ th.rows then BitVec.allOnes 64 else BitVec.ofNat 64 (2 ^ th.rows - 1)) &&& ~~~ th.trapped
    let stops (i : Instr) (f : FRec) : Prop := exec i s = .next (s0.raise me { f with pc := e.pc, q := s.cur.2 })
    let goes (i : Instr) (use : ModUse) (ops : List Word) (data : List Byte) (wait : Nat) : Prop :=
      exec i s = .next (s.issued (s0.modCore me.st me.co fun k => { k with xs := k.xs ++
        [{
          t := me, seq := e.seq, base := e.base, instr := i, ops := ops, rows := rows, z0 := th.z, data := data,
          mem0 := s.mem, qres0 := (s.station me.st).qres, done := s.cyc + wait }] }) c use e 0)
    let onRows : ModUse := { mask := true }
    let plane := physZ e.base z.val < th.planes
    let chunk := sl.v = true ∧ 64 * A.toNat + 63 < sl.nres
    let pair (v : Word) := v.toNat % 2 = 0 ∧ v.toNat % 8 + 1 < th.planes
    let first := ∀ y ∈ th.entries, e.seq ≤ y.seq
    goes (.tapsel c t a) {} [] [] 0 ∧
    ((1 < B.toNat → stops (.taprd c t a b) fFormat) ∧ (B.toNat ≤ 1 → goes (.taprd c t a b) {} [B] [] 0)) ∧
    (¬ plane → stops (.tapstr c t a z) (fOver 0) ∧ stops (.tapdot c t a b z) (fOver 0)) ∧
    (plane → ¬ chunk → stops (.tapstr c t a z) fFormat) ∧ (plane → chunk → goes (.tapstr c t a z) onRows [A] [] 0) ∧
    (plane → B.toNat % 2 = 1 → stops (.tapdot c t a b z) fFormat) ∧
    (plane → B.toNat % 2 = 0 → th.planes ≤ B.toNat % 8 + 1 → stops (.tapdot c t a b z) (fOver 0)) ∧
    (plane → pair B → ¬ chunk → stops (.tapdot c t a b z) fFormat) ∧ (plane → pair B → chunk → goes (.tapdot c t a b z) onRows [A, B] [] 0) ∧
    (A.toNat % 2 = 1 → stops (.tapclr c a) fFormat) ∧ (A.toNat % 2 = 0 → th.planes ≤ A.toNat % 8 + 1 → stops (.tapclr c a) (fOver 0)) ∧
    (pair A → goes (.tapclr c a) onRows [A] [] 8) ∧
    (¬ first → exec (.tapeval c t a b m) s = .next s0) ∧ (first → A.toNat % 2 = 1 → stops (.tapeval c t a b m) fFormat) ∧
    (first → A.toNat % 2 = 0 → th.planes ≤ A.toNat % 8 + 1 → stops (.tapeval c t a b m) (fOver 0)) ∧
    (first → pair A → sl.v = false → stops (.tapeval c t a b m) fFormat) ∧
    (first → pair A → sl.v = true → goes (.tapeval c t a b m) onRows [A] [] 0) ∧
    (∀ f ∈ [(Instr.tapprb c t a b, s0.prbTarget me.st t.val B), (.tapstv c a b, s0.stvTarget me.st B)],
      (th.priv = .user → stops f.1 fPriv) ∧ (th.priv ≠ .user → A.toNat % 16 ≠ 0 → stops f.1 (fAlign A)) ∧
      (th.priv ≠ .user → A.toNat % 16 = 0 → f.2 = none → stops f.1 fFormat) ∧
      (th.priv ≠ .user → A.toNat % 16 = 0 → f.2 = some (off, n) → th.csBytes < A.toNat + n → stops f.1 (fOver 2)) ∧
      (th.priv ≠ .user → A.toNat % 16 = 0 → f.2 = some (off, n) → A.toNat + n ≤ th.csBytes → s0.inTables me.st off n = false → stops f.1 fFormat) ∧
      (th.priv ≠ .user → A.toNat % 16 = 0 → f.2 = some (off, n) → A.toNat + n ≤ th.csBytes → s0.inTables me.st off n = true →
        goes f.1 {} [BitVec.ofNat 64 off] ((List.range n).map fun j => s0.csByte me .x (A.toNat + j)) 0)))
  ∧ (∀ (s : State) (m : XCmd) (t : Tid) (c : Ctl) (k : Fin 16) (a b : SReg) (y : ZReg) (l : LReg) (p i n : Nat) (has : Bool) (probes : List Probe) (w : Probe),
    let ctx := (s.thread m.t).ctx
    let v := m.view s
    let sl := v.tapSlot m.t.st ctx k.val
    let found (r : Nat) : TapRow := evalRow m (v.probes m.t.st sl) sl.nres ((m.ops.headD 0).toNat % 8) r (s.rowBlock m.t r).isSome
    let rw_ := evalRow m probes n p i has
    let z (q j : Nat) : Val := fp32.read (Cells.get m.z0 (zKey q i j)).toNat
    let rms := round32 {} (rmsOf (z (p + 1) 0) n)
    let sc := round32 {} (if w.norm then divAdd (z p w.k) (fp32.read rms.1.toNat) (fp32.read w.bias.toNat)
      else Val.add .rne (z p w.k) (fp32.read w.bias.toNat))
    let crossed : Prop := isNan32 sc.1 = true ∨ w.sense = true ∧ Cond.fp .lt sc.1 w.thresh = true ∨ w.sense = false ∧ Cond.fp .gt sc.1 w.thresh = true
    ((s.core t.st t.co).xs.find? (fun x => x.t == t) = none → exec (.xWordComplete t) s = .next s) ∧
    ((s.core t.st t.co).xs.find? (fun x => x.t == t) = some m → s.cyc < m.done → exec (.xWordComplete t) s = .next s) ∧
    ((s.core t.st t.co).xs.find? (fun x => x.t == t) = some m → m.done ≤ s.cyc → exec (.xWordComplete t) s =
      .next ((s.modCore t.st t.co fun k => { k with xs := k.xs.filter fun x => x.t != t }).tapEffect m)) ∧
    (m.instr = .tapsel c k a → s.tapEffect m = s.landWrites m.t (wrS m.base a
      (if sl.v then BitVec.ofNat 64 (2 ^ 63 + sl.nprb * 2 ^ 16 + sl.nres) else 0))) ∧
    (m.instr = .taprd c k a b → s.tapEffect m = s.landWrites m.t (wrS m.base a
      (BitVec.ofNat 64 (if m.ops.headD 0 = 0 then sl.traps else sl.cross)))) ∧
    (m.instr = .tapclr c a → ∃ ws, s.tapEffect m = s.landAmong m.t (m.done / 4 - 2) m.seq ws ∧ ∀ key v, RegW.z key v ∈ ws ↔ v = 0 ∧ ∃ q r j, r < 64 ∧ j < 64 ∧
      m.rows.getLsbD r = true ∧ (q = (m.ops.headD 0).toNat % 8 ∨ q = (m.ops.headD 0).toNat % 8 + 1) ∧ key = zKey q r j) ∧
    (m.instr = .tapprb c k a b ∨ m.instr = .tapstv c a b → s.tapEffect m = s.homePut (s.pa m.t.st (m.ops.headD 0).toNat) m.data) ∧
    (w ∈ probes → RegW.z (zKey p i w.k) sc.1 ∈ rw_.ws ∧ (crossed → w.k ∈ rw_.hits) ∧
      (crossed → w.act = true ∧ has = true → w.k ∈ rw_.traps) ∧ (crossed → w.act = false ∨ has = false → w.k ∈ rw_.counts)) ∧
    (∀ q, q ∈ rw_.hits ↔ q ∈ rw_.traps ∨ q ∈ rw_.counts) ∧
    (m.instr = .tapeval c k a b l →
      let rows := (rowsOf m.rows).map found
      let u := (rows.foldl (fun u r => u.tapCounts m.t.st sl r) s).landWrites m.t (rows.flatMap TapRow.ws)
      let u' := if u.jobDeclared m.t then u else u.tapTraps m sl k.val rows
      ∃ tm cm : Word, s.tapEffect m = u'.landWrites m.t (RegW.l l.val tm :: wrS m.base b cm ++ [.flags (rows.foldl (fun f r => f ||| r.fl) 0)]) ∧
        ∀ r, r < 64 → (tm.getLsbD r = (m.rows.getLsbD r && !(found r).traps.isEmpty) ∧ cm.getLsbD r = (m.rows.getLsbD r && !(found r).counts.isEmpty))) ∧
    (m.instr = .tapdot c k a b y →
      let d := s.doTapdot m k.val y
      let P := (m.ops.getD 1 0).toNat % 8
      let J := (m.ops.headD 0).toNat
      let chunk (r : Nat) : List Word32 := (List.range 64).map fun j => Cells.get m.z0 (zKey (physZ m.base y.val) r j)
      let zs (r : Nat) : List Val := (chunk r).map fun x => fp32.read x.toNat
      let vec (q : Probe) : List Val := (List.range 64).map fun j => fp32.read (v.vecElem m.t.st (sl.pvoff + 4 * sl.nres * q.k) (64 * J + j)).toNat
      let sum (r plane at_ : Nat) (ys : List Val) : Word32 := (round32 {} (Val.sum .rne (fp32.read (Cells.get m.z0 (zKey plane r at_)).toNat ::
        ((zs r).zip ys).map fun q => (Val.mul q.1 q.2).1))).1
      s.tapEffect m = d.2.2.landWrites m.t (d.1 ++ [.flags d.2.1]) ∧
      (∀ w, w ∈ d.1 ↔ ∃ r, r < 64 ∧ m.rows.getLsbD r = true ∧ (w = RegW.z (zKey (P + 1) r 0) (sum r (P + 1) 0 (zs r)) ∨
        ∃ q ∈ v.probes m.t.st sl, w = RegW.z (zKey P r q.k) (sum r P q.k (vec q)))) ∧
      d.2.2 = (rowsOf m.rows).foldl (fun u r => match if sl.snap then u.rowBlock m.t r else none with
        | some w => u.snapResidual m w.pa J (chunk r)
        | none => u) s) ∧
    (m.instr = .tapstr c k a y →
      let d := s.doTapstr m k.val y
      let P := physZ m.base y.val
      let out (u : State) (r : Nat) (w : Row) : Steered := [0, 1, 2, 3].foldl (fun q n => q.entry v m sl k.val (m.ops.headD 0).toNat w.pa n)
        { row := (List.range 64).map fun j => Cells.get m.z0 (zKey P r j), s := u }
      s.tapEffect m = d.2.2.landWrites m.t (d.1 ++ [.flags d.2.1]) ∧
      (∀ w, w ∈ d.1 ↔ ∃ r j blk, r < 64 ∧ j < 64 ∧ m.rows.getLsbD r = true ∧ s.rowBlock m.t r = some blk ∧ (out s r blk).hit = true ∧
        w = RegW.z (zKey P r j) ((out s r blk).row.getD j 0)) ∧
      d.2.2 = (rowsOf m.rows).foldl (fun u r => match u.rowBlock m.t r with
        | some w => (out u r w).s
        | none => u) s))
  ∧ (∀ (s w : State) (v : State) (m : XCmd) (sl : TapSlot) (r : TapRow) (rs : List TapRow) (q : Steered) (t j blk e n q0 a1 a2 : Nat) (qs : List Nat)
      (row : List Word32) (nc1 nc2 : Bool) (f : Nat × Nat × Nat),
    let st := m.t.st
    let ctx := (s.thread m.t).ctx
    let cell (off : Nat) : Nat := s.tabN st off 4
    let set (u : State) (off x : Nat) : State := u.homePutN (u.pa st off) 4 x
    let snap : Snap := { slot := t, cross := (r.traps.map (2 ^ ·)).sum, nres := sl.nres, scores := r.scores }
    let sn := v.homeN (blk + 0x220) 8
    let bs := row.flatMap fun x => leBytes 4 x.toNat
    let d0 := v.homeN (blk + 0x100 + 16 * e) 8
    let c := (v.thread m.t).ctx
    let off := (v.cb st (0x2808 + 0x20 * c)).toNat % 2 ^ 35 + 32 * (d0 % 2 ^ 8)
    let h := v.tabN st off 8
    let voff := v.tabN st (off + 8) 8 % 2 ^ 35
    let usable : Prop := v.inTables st off 32 = true ∧ h.testBit 63 = true ∧ h % 2 ^ 16 = sl.nres ∧ v.inTables st voff (4 * sl.nres) = true
    let coef := BitVec.ofNat 32 (if h.testBit 62 then v.tabN st (off + 16) 4 else v.homeN (blk + 0x108 + 16 * e) 4)
    let steered (x : Word32) (i : Nat) : Word32 :=
      (round32 {} (Val.fma .rne (fp32.read coef.toNat) (fp32.read (v.vecElem st voff (64 * j + i)).toNat) (fp32.read x.toNat))).1
    (s.tapCounts st sl { r with hits := [] } = set s (sl.off + 16) (cell (sl.off + 16) + r.counts.length)) ∧
    (s.tapCounts st sl { r with hits := q0 :: qs } =
      (set s (sl.off + 64 + 16 * q0 + 12) (min (cell (sl.off + 64 + 16 * q0 + 12) + 1) 0xFFFFFFFF)).tapCounts st sl { r with hits := qs }) ∧
    (s.tapTraps m sl t [] = s) ∧ (r.traps = [] → s.tapTraps m sl t (r :: rs) = s.tapTraps m sl t rs) ∧
    (r.traps ≠ [] → s.trapRow m.t r.row snap 0x10 t 0 = (false, w) → s.tapTraps m sl t (r :: rs) = w.tapTraps m sl t rs) ∧
    (r.traps ≠ [] → s.trapRow m.t r.row snap 0x10 t 0 = (true, w) →
      s.tapTraps m sl t (r :: rs) = (set w (sl.off + 20) (w.tabN st (sl.off + 20) 4 + 1)).tapTraps m sl t rs) ∧
    (v = m.view s →
      (sn = 0 → s.snapResidual m blk j row = s) ∧
      (sn ≠ 0 → s.xlateRange m.t ctx (s.thread m.t).priv (sn + 256 * j) 256 .write = (.error f, w) →
        s.snapResidual m blk j row = w.setCb st (0x2818 + 0x20 * ctx) (w.cb st (0x2818 + 0x20 * ctx) + 1)) ∧
      (sn ≠ 0 → row.length = 64 → n ≤ 256 → w.paKind a1 ≠ .control → w.paKind a1 ≠ .bad →
        (s.xlateRange m.t ctx (s.thread m.t).priv (sn + 256 * j) 256 .write = (.ok [(.pa a1 nc1, 256)], w) →
          s.snapResidual m blk j row = (w.homePut a1 bs).hostStore st a1 bs) ∧
        (s.xlateRange m.t ctx (s.thread m.t).priv (sn + 256 * j) 256 .write = (.ok [(.pa a1 nc1, n), (.pa a2 nc2, 256 - n)], w) →
          w.paKind a2 ≠ .control → w.paKind a2 ≠ .bad → s.snapResidual m blk j row =
            (((w.homePut a1 (bs.take n)).hostStore st a1 (bs.take n)).homePut a2 (bs.drop n)).hostStore st a2 (bs.drop n)))) ∧
    (d0.testBit 63 = false ∨ d0.testBit (32 + t) = false → q.entry v m sl t j blk e = q) ∧
    (d0.testBit 63 = true → d0.testBit (32 + t) = true → ¬ usable → ∃ u, q.entry v m sl t j blk e = { q with s := u } ∧
      (u.cb st (0x2810 + 0x20 * c)).toNat / 2 ^ 32 = ((q.s.cb st (0x2810 + 0x20 * c)).toNat / 2 ^ 32 + 1) % 2 ^ 32 ∧
      (u.cb st (0x2810 + 0x20 * c)).toNat % 2 ^ 32 = (q.s.cb st (0x2810 + 0x20 * c)).toNat % 2 ^ 32 ∧ u.mem = q.s.mem ∧ u.threads = q.s.threads) ∧
    (d0.testBit 63 = true → d0.testBit (32 + t) = true → usable → q.row.length = 64 → (q.entry v m sl t j blk e).hit = true ∧
      (q.entry v m sl t j blk e).s = q.s ∧ ∀ i, i < 64 → (q.entry v m sl t j blk e).row.getD i 0 = steered (q.row.getD i 0) i))
end

