-- ==== Sys2Proof/Laws/Mem.lean ====
section
/-! SUPPORT. Laws of sparse storage: read after write, read elsewhere, and that every operation keeps the canonical form;
the same for tables. They hold of every list, canonical or not, unless a hypothesis says otherwise. -/

namespace Sys2Proof.Machine

@[simp] theorem Cells.get_nil {w : Nat} (k : Nat) : Cells.get ([] : Cells w) k = 0 := rfl

theorem Cells.get_erase {w : Nat} (m : Cells w) (k j : Nat) :
    Cells.get (m.erase k) j = if j = k then 0 else Cells.get m j := by
  induction m with
  | nil => simp [Cells.erase, Cells.get]
  | cons x rest ih =>
    obtain ⟨i, v⟩ := x
    by_cases h : i = k <;> by_cases hj : i = j <;> simp_all [Cells.erase, Cells.get]

theorem Cells.get_insert {w : Nat} (m : Cells w) (k j : Nat) (v : BitVec w) (ha : ∀ x ∈ m, x.1 ≠ k) :
    Cells.get (m.insert k v) j = if j = k then v else Cells.get m j := by
  induction m with
  | nil => simp only [Cells.insert, Cells.get, eq_comm]
  | cons x rest ih =>
    obtain ⟨i, u⟩ := x
    have hik : i ≠ k := ha (i, u) (by simp)
    have ih := ih fun x hx => ha x (by simp [hx])
    by_cases hlt : k < i
    · simp only [Cells.insert, hlt, if_true, Cells.get, eq_comm]
    · simp only [Cells.insert, hlt, if_false, Cells.get, ih]
      by_cases hj : i = j
      · subst hj; simp [hik]
      · simp [hj]

theorem Cells.ne_of_mem_erase {w : Nat} (m : Cells w) (k : Nat) : ∀ x ∈ m.erase k, x.1 ≠ k := by
  induction m with
  | nil => simp [Cells.erase]
  | cons y rest ih =>
    obtain ⟨i, u⟩ := y
    by_cases h : i = k
    · simpa [Cells.erase, h] using ih
    · intro x hx
      simp [Cells.erase, h] at hx
      rcases hx with rfl | hx
      · exact h
      · exact ih x hx

/-- What a cell reads after a write. -/
theorem Cells.get_set {w : Nat} (m : Cells w) (k j : Nat) (v : BitVec w) :
    Cells.get (m.set k v) j = if j = k then v else Cells.get m j := by
  by_cases h : v = 0
  · simp only [Cells.set, h, if_true, Cells.get_erase]
  · rw [Cells.set, if_neg h, Cells.get_insert _ _ _ _ (Cells.ne_of_mem_erase m k), Cells.get_erase]
    split <;> rfl

@[simp] theorem Cells.get_set_same {w : Nat} (m : Cells w) (k : Nat) (v : BitVec w) : Cells.get (m.set k v) k = v := by
  simp [Cells.get_set]

theorem Cells.get_set_other {w : Nat} (m : Cells w) (k j : Nat) (v : BitVec w) (h : j ≠ k) :
    Cells.get (m.set k v) j = Cells.get m j := by
  simp [Cells.get_set, h]

theorem Cells.wfFrom_mono {w : Nat} (m : Cells w) (a b : Nat) (h : b ≤ a) (hm : m.wfFrom a = true) : m.wfFrom b = true := by
  cases m with
  | nil => rfl
  | cons x rest =>
    obtain ⟨i, v⟩ := x
    simp only [Cells.wfFrom, Bool.and_eq_true, decide_eq_true_eq] at *
    exact ⟨⟨by omega, hm.1.2⟩, hm.2⟩

theorem Cells.wfFrom_erase {w : Nat} (m : Cells w) (k lo : Nat) (hm : m.wfFrom lo = true) : (m.erase k).wfFrom lo = true := by
  induction m generalizing lo with
  | nil => rfl
  | cons x rest ih =>
    obtain ⟨i, v⟩ := x
    simp [Cells.wfFrom] at hm
    by_cases h : i = k
    · simp only [Cells.erase, h, if_true]
      exact Cells.wfFrom_mono _ (i + 1) lo (by omega) (ih _ hm.2)
    · simp [Cells.erase, h, Cells.wfFrom, hm.1, ih _ hm.2]

theorem Cells.wfFrom_insert {w : Nat} (m : Cells w) (k lo : Nat) (v : BitVec w) (hk : lo ≤ k) (hv : v ≠ 0)
    (hm : m.wfFrom lo = true) (ha : ∀ x ∈ m, x.1 ≠ k) : (m.insert k v).wfFrom lo = true := by
  induction m generalizing lo with
  | nil => simpa [Cells.insert, Cells.wfFrom, hk] using hv
  | cons x rest ih =>
    obtain ⟨i, u⟩ := x
    simp only [Cells.wfFrom, Bool.and_eq_true, decide_eq_true_eq] at hm
    have hik : i ≠ k := ha (i, u) (by simp)
    by_cases h : k < i
    · simp only [Cells.insert, h, if_true, Cells.wfFrom, Bool.and_eq_true, decide_eq_true_eq]
      exact ⟨⟨hk, hv⟩, ⟨by omega, hm.1.2⟩, hm.2⟩
    · simp only [Cells.insert, h, if_false, Cells.wfFrom, Bool.and_eq_true, decide_eq_true_eq]
      exact ⟨hm.1, ih (i + 1) (by omega) hm.2 fun x hx => ha x (by simp [hx])⟩

/-- A write keeps the canonical form. -/
theorem Cells.wfFrom_set {w : Nat} (m : Cells w) (k : Nat) (v : BitVec w) (hm : m.wfFrom 0 = true) :
    (m.set k v).wfFrom 0 = true := by
  by_cases h : v = 0
  · simp only [Cells.set, h, if_true]; exact Cells.wfFrom_erase _ _ _ hm
  · simp only [Cells.set, h, if_false]
    exact Cells.wfFrom_insert _ _ _ _ (by omega) h (Cells.wfFrom_erase _ _ _ hm) (Cells.ne_of_mem_erase _ _)

theorem Cells.wfFrom_setAll {w : Nat} (l : List (Nat × BitVec w)) (m : Cells w) (hm : m.wfFrom 0 = true) :
    (m.setAll l).wfFrom 0 = true := by
  induction l generalizing m with
  | nil => exact hm
  | cons x rest ih => obtain ⟨k, v⟩ := x; exact ih _ (Cells.wfFrom_set m k v hm)

theorem Cells.wfFrom_filter {w : Nat} (m : Cells w) (p : Nat × BitVec w → Bool) (lo : Nat) (hm : m.wfFrom lo = true) :
    Cells.wfFrom (m.filter p) lo = true := by
  induction m generalizing lo with
  | nil => rfl
  | cons x rest ih =>
    obtain ⟨i, v⟩ := x
    simp [Cells.wfFrom] at hm
    by_cases h : p (i, v) = true
    · rw [List.filter_cons_of_pos h]; simp [Cells.wfFrom, hm.1, ih _ hm.2]
    · rw [List.filter_cons_of_neg h]; exact Cells.wfFrom_mono _ (i + 1) lo (by omega) (ih _ hm.2)

/-- Clearing a range keeps the canonical form. -/
theorem Cells.wfFrom_clear {w : Nat} (m : Cells w) (a n : Nat) (hm : m.wfFrom 0 = true) : (m.clear a n).wfFrom 0 = true :=
  Cells.wfFrom_filter _ _ _ hm

theorem Cells.get_clear {w : Nat} (m : Cells w) (a n j : Nat) :
    Cells.get (m.clear a n) j = if a ≤ j ∧ j < a + n then 0 else Cells.get m j := by
  induction m with
  | nil => simp [Cells.clear, Cells.get]
  | cons x rest ih =>
    obtain ⟨i, v⟩ := x
    by_cases hi : a ≤ i ∧ i < a + n
    · rw [show Cells.clear ((i, v) :: rest) a n = Cells.clear rest a n from List.filter_cons_of_neg (by simp [hi])]
      rw [ih]
      split
      · rfl
      · simp only [Cells.get]; split
        · subst_vars; contradiction
        · rfl
    · rw [show Cells.clear ((i, v) :: rest) a n = (i, v) :: Cells.clear rest a n from
        List.filter_cons_of_pos (by simp only [Bool.not_eq_true', Bool.and_eq_false_iff, decide_eq_false_iff_not]; omega)]
      simp only [Cells.get, ih]
      by_cases hj : i = j
      · subst hj; simp [hi]
      · simp [hj]

theorem Cells.erase_insert {w : Nat} (m : Cells w) (k : Nat) (v : BitVec w) (ha : ∀ x ∈ m, x.1 ≠ k) :
    (m.insert k v).erase k = m := by
  induction m with
  | nil => simp [Cells.insert, Cells.erase]
  | cons x rest ih =>
    obtain ⟨i, u⟩ := x
    have hik : i ≠ k := ha (i, u) (by simp)
    have he : ∀ l : Cells w, (∀ x ∈ l, x.1 ≠ k) → l.erase k = l := by
      intro l hl
      induction l with
      | nil => rfl
      | cons y l ihl => obtain ⟨j, z⟩ := y; simp [Cells.erase, hl (j, z) (by simp), ihl fun x hx => hl x (by simp [hx])]
    by_cases hlt : k < i
    · simp [Cells.insert, hlt, Cells.erase, hik, he rest fun x hx => ha x (by simp [hx])]
    · simp [Cells.insert, hlt, Cells.erase, hik, ih fun x hx => ha x (by simp [hx])]

/-- The later of two writes of a cell stays. -/
@[simp] theorem Cells.set_set {w : Nat} (m : Cells w) (k : Nat) (v u : BitVec w) : (m.set k v).set k u = m.set k u := by
  have h : (m.set k v).erase k = m.erase k := by
    unfold Cells.set
    split
    · induction m with
      | nil => rfl
      | cons x rest ih => obtain ⟨i, y⟩ := x; by_cases h : i = k <;> simp [Cells.erase, h, ih]
    · exact Cells.erase_insert _ _ _ (Cells.ne_of_mem_erase m k)
  rw [show (m.set k v).set k u = if u = 0 then (m.set k v).erase k else ((m.set k v).erase k).insert k u from rfl, h]
  rfl

@[simp] theorem Memory.wf_nil : Memory.wf [] = true := rfl

theorem Memory.wf_set (m : Memory) (a : Nat) (v : Byte) (hm : m.wf = true) : Memory.wf (Cells.set m a v) = true :=
  Cells.wfFrom_set m a v hm

theorem Memory.wf_writeBytes (l : List Byte) (m : Memory) (a : Nat) (hm : m.wf = true) : (m.writeBytes a l).wf = true := by
  induction l generalizing m a with
  | nil => exact hm
  | cons b bs ih => exact ih _ _ (Memory.wf_set m a b hm)

theorem Memory.wf_writeN (m : Memory) (a n v : Nat) (hm : m.wf = true) : (m.writeN a n v).wf = true :=
  Memory.wf_writeBytes _ _ _ hm

/-- A byte after several are written from `a` upward. -/
theorem Memory.get_writeBytes (l : List Byte) (m : Memory) (a j : Nat) :
    Cells.get (m.writeBytes a l) j = if a ≤ j ∧ j < a + l.length then l.getD (j - a) 0 else Cells.get m j := by
  induction l generalizing m a with
  | nil => simp [Memory.writeBytes]
  | cons b bs ih =>
    simp only [Memory.writeBytes, ih, Cells.get_set, List.length_cons]
    by_cases h1 : a + 1 ≤ j ∧ j < a + 1 + bs.length
    · have : j - a = (j - (a + 1)) + 1 := by omega
      simp [h1, show a ≤ j ∧ j < a + (bs.length + 1) by omega, this]
    · by_cases h2 : j = a
      · subst h2; simp
      · rw [if_neg h1, if_neg h2, if_neg (by omega)]

@[simp] theorem length_leBytes (n v : Nat) : (leBytes n v).length = n := by
  induction n generalizing v with
  | zero => rfl
  | succ n ih => simp [leBytes, ih]

theorem leNat_leBytes (n v : Nat) : leNat (leBytes n v) = v % 256 ^ n := by
  induction n generalizing v with
  | zero => simp [leBytes, leNat, Nat.mod_one]
  | succ n ih =>
    have h : (BitVec.ofNat 8 v).toNat = v % 256 := rfl
    rw [leBytes, leNat, ih, h, Nat.pow_succ, Nat.mul_comm (256 ^ n) 256, Nat.mod_mul]

/-- A number read back where it was written. -/
theorem Memory.readN_writeN (m : Memory) (a n v : Nat) : (m.writeN a n v).readN a n = v % 256 ^ n := by
  rw [← leNat_leBytes n v, Memory.readN]
  congr 1
  apply List.ext_getElem
  · simp [Memory.bytes]
  · intro i h1 h2
    simp [Memory.bytes] at h1
    simp [Memory.bytes, Memory.writeN, Memory.get_writeBytes, h1]

/-- The record a table holds after a write. -/
theorem Tab.get_set {α : Type} [Inhabited α] (t : Tab α) (k j : Nat) (v : α) :
    Tab.get (t.set k v) j = if j = k then v else Tab.get t j := by
  induction t with
  | nil => by_cases h : k = j <;> simp [Tab.set, Tab.get, h, eq_comm]
  | cons x rest ih =>
    obtain ⟨i, u⟩ := x
    by_cases h : i = k
    · subst h; by_cases hj : i = j <;> simp [Tab.set, Tab.get, hj, eq_comm]
      intro h; exact absurd h.symm hj
    · by_cases hlt : k < i
      · simp only [Tab.set, h, if_false, hlt, if_true, Tab.get, eq_comm]
      · by_cases hj : i = j
        · subst hj; simp [Tab.set, h, hlt, Tab.get]
        · simp [Tab.set, h, hlt, Tab.get, hj, ih]

@[simp] theorem Tab.get_set_same {α : Type} [Inhabited α] (t : Tab α) (k : Nat) (v : α) : Tab.get (t.set k v) k = v := by
  simp [Tab.get_set]

theorem Tab.get_set_other {α : Type} [Inhabited α] (t : Tab α) (k j : Nat) (v : α) (h : j ≠ k) :
    Tab.get (t.set k v) j = Tab.get t j := by
  simp [Tab.get_set, h]

@[simp] theorem Tab.set_set {α : Type} (t : Tab α) (k : Nat) (v u : α) : (t.set k v).set k u = t.set k u := by
  induction t with
  | nil => simp [Tab.set]
  | cons x rest ih =>
    obtain ⟨i, y⟩ := x
    by_cases h : i = k
    · simp [Tab.set, h]
    · by_cases hlt : k < i
      · simp [Tab.set, h, hlt]
      · simp [Tab.set, h, hlt, ih]

end Sys2Proof.Machine
end

