-- ==== Sys2Proof/Laws/State.lean ====
section
/-! SUPPORT. One lemma per field per update of the state's records. -/

namespace Sys2Proof.Machine

@[simp] theorem State.thread_setThread (s : State) (t : Tid) (th : Thread) : (s.setThread t th).thread t = th := by
  simp [State.thread, State.setThread]

theorem State.thread_setThread_other (s : State) (t u : Tid) (th : Thread) (h : Tid.key u ≠ Tid.key t) :
    (s.setThread t th).thread u = s.thread u := by
  simp [State.thread, State.setThread, Tab.get_set, h]

@[simp] theorem State.setThread_setThread (s : State) (t : Tid) (a b : Thread) :
    (s.setThread t a).setThread t b = s.setThread t b := by
  simp [State.setThread]

@[simp] theorem State.thread_modThread (s : State) (t : Tid) (f : Thread → Thread) :
    (s.modThread t f).thread t = f (s.thread t) := by
  simp [State.modThread]

theorem State.thread_modThread_other (s : State) (t u : Tid) (f : Thread → Thread) (h : Tid.key u ≠ Tid.key t) :
    (s.modThread t f).thread u = s.thread u := State.thread_setThread_other _ _ _ _ h

@[simp] theorem State.core_setCore (s : State) (st co : Nat) (k : Core) : (s.setCore st co k).core st co = k := by
  simp [State.core, State.setCore]

theorem State.core_setCore_other (s : State) (st co st' co' : Nat) (k : Core) (h : coreKey st' co' ≠ coreKey st co) :
    (s.setCore st co k).core st' co' = s.core st' co' := by
  simp [State.core, State.setCore, Tab.get_set, h]

@[simp] theorem State.core_modCore (s : State) (st co : Nat) (f : Core → Core) :
    (s.modCore st co f).core st co = f (s.core st co) := by
  simp [State.modCore]

@[simp] theorem State.station_setStation (s : State) (st : Nat) (x : Station) : (s.setStation st x).station st = x := by
  simp [State.station, State.setStation]

theorem State.station_setStation_other (s : State) (st st' : Nat) (x : Station) (h : st' ≠ st) :
    (s.setStation st x).station st' = s.station st' := by
  simp [State.station, State.setStation, Tab.get_set, h]

@[simp] theorem State.station_modStation (s : State) (st : Nat) (f : Station → Station) :
    (s.modStation st f).station st = f (s.station st) := by
  simp [State.modStation]

theorem State.station_modStation_other (s : State) (st st' : Nat) (f : Station → Station) (h : st' ≠ st) :
    (s.modStation st f).station st' = s.station st' := State.station_setStation_other _ _ _ _ h

@[simp] theorem State.thread_setCore (s : State) (st co : Nat) (k : Core) (t : Tid) : (s.setCore st co k).thread t = s.thread t := rfl
@[simp] theorem State.thread_setStation (s : State) (st : Nat) (x : Station) (t : Tid) : (s.setStation st x).thread t = s.thread t := rfl
@[simp] theorem State.core_setThread (s : State) (t : Tid) (th : Thread) (st co : Nat) : (s.setThread t th).core st co = s.core st co := rfl
@[simp] theorem State.core_setStation (s : State) (st : Nat) (x : Station) (st' co : Nat) : (s.setStation st x).core st' co = s.core st' co := rfl
@[simp] theorem State.station_setThread (s : State) (t : Tid) (th : Thread) (st : Nat) : (s.setThread t th).station st = s.station st := rfl
@[simp] theorem State.station_setCore (s : State) (st co : Nat) (k : Core) (st' : Nat) : (s.setCore st co k).station st' = s.station st' := rfl
@[simp] theorem State.tcyc_setThread (s : State) (t : Tid) (th : Thread) : (s.setThread t th).tcyc = s.tcyc := rfl
@[simp] theorem State.tcyc_setCore (s : State) (st co : Nat) (k : Core) : (s.setCore st co k).tcyc = s.tcyc := rfl
@[simp] theorem State.tcyc_setStation (s : State) (st : Nat) (x : Station) : (s.setStation st x).tcyc = s.tcyc := rfl

@[simp] theorem State.cb_setThread (s : State) (t : Tid) (th : Thread) (st off : Nat) : (s.setThread t th).cb st off = s.cb st off := rfl
@[simp] theorem State.cb_setCore (s : State) (st co : Nat) (k : Core) (st' off : Nat) : (s.setCore st co k).cb st' off = s.cb st' off := rfl
@[simp] theorem State.cbBits_setThread (s : State) (t : Tid) (th : Thread) (st off lo n : Nat) :
    (s.setThread t th).cbBits st off lo n = s.cbBits st off lo n := rfl

/-- An update of a station that leaves its control block. -/
theorem State.cb_modStation (s : State) (st : Nat) (f : Station → Station) (hf : ∀ y, (f y).cb = y.cb) (st' off : Nat) :
    (s.modStation st f).cb st' off = s.cb st' off := by
  by_cases h : st' = st
  · subst h; simp [State.cb, hf, State.modStation]
  · simp [State.cb, State.station_modStation_other _ _ _ _ h]

/-- A control-block doubleword after a write of one. -/
theorem State.cb_setCb (s : State) (st off st' off' : Nat) (v : Word) :
    (s.setCb st off v).cb st' off' = if st' = st ∧ off' = off then v else s.cb st' off' := by
  by_cases h : st' = st
  · subst h; simp [State.cb, State.setCb, Cells.get_set]
  · simp [State.cb, State.setCb, h, State.station_modStation_other _ _ _ _ h]

@[simp] theorem State.setThread_cyc (s : State) (t : Tid) (th : Thread) : (s.setThread t th).cyc = s.cyc := rfl
@[simp] theorem State.setThread_tb (s : State) (t : Tid) (th : Thread) : (s.setThread t th).tb = s.tb := rfl
@[simp] theorem State.setThread_tbskew (s : State) (t : Tid) (th : Thread) : (s.setThread t th).tbskew = s.tbskew := rfl
@[simp] theorem State.setThread_mem (s : State) (t : Tid) (th : Thread) : (s.setThread t th).mem = s.mem := rfl
@[simp] theorem State.setThread_cores (s : State) (t : Tid) (th : Thread) : (s.setThread t th).cores = s.cores := rfl
@[simp] theorem State.setThread_stations (s : State) (t : Tid) (th : Thread) : (s.setThread t th).stations = s.stations := rfl
@[simp] theorem State.setThread_pcb (s : State) (t : Tid) (th : Thread) : (s.setThread t th).pcb = s.pcb := rfl
@[simp] theorem State.setThread_modnum (s : State) (t : Tid) (th : Thread) : (s.setThread t th).modnum = s.modnum := rfl
@[simp] theorem State.setThread_present (s : State) (t : Tid) (th : Thread) : (s.setThread t th).present = s.present := rfl
@[simp] theorem State.setThread_ports (s : State) (t : Tid) (th : Thread) : (s.setThread t th).ports = s.ports := rfl
@[simp] theorem State.setThread_locator (s : State) (t : Tid) (th : Thread) : (s.setThread t th).locator = s.locator := rfl
@[simp] theorem State.setThread_manifest (s : State) (t : Tid) (th : Thread) : (s.setThread t th).manifest = s.manifest := rfl
@[simp] theorem State.setThread_repair (s : State) (t : Tid) (th : Thread) : (s.setThread t th).repair = s.repair := rfl
@[simp] theorem State.setThread_engines (s : State) (t : Tid) (th : Thread) : (s.setThread t th).engines = s.engines := rfl
@[simp] theorem State.setThread_fuse (s : State) (t : Tid) (th : Thread) : (s.setThread t th).fuse = s.fuse := rfl
@[simp] theorem State.setThread_leaseEpoch (s : State) (t : Tid) (th : Thread) : (s.setThread t th).leaseEpoch = s.leaseEpoch := rfl
@[simp] theorem State.setThread_leaseHeld (s : State) (t : Tid) (th : Thread) : (s.setThread t th).leaseHeld = s.leaseHeld := rfl
@[simp] theorem State.setThread_leaseHolder (s : State) (t : Tid) (th : Thread) : (s.setThread t th).leaseHolder = s.leaseHolder := rfl
@[simp] theorem State.setThread_leaseExp (s : State) (t : Tid) (th : Thread) : (s.setThread t th).leaseExp = s.leaseExp := rfl
@[simp] theorem State.setThread_leaseNow (s : State) (t : Tid) (th : Thread) : (s.setThread t th).leaseNow = s.leaseNow := rfl
@[simp] theorem State.setThread_reloads (s : State) (t : Tid) (th : Thread) : (s.setThread t th).reloads = s.reloads := rfl
@[simp] theorem State.setThread_badRows (s : State) (t : Tid) (th : Thread) : (s.setThread t th).badRows = s.badRows := rfl
@[simp] theorem State.setThread_active (s : State) (t : Tid) (th : Thread) : (s.setThread t th).active = s.active := rfl
@[simp] theorem State.setThread_inReset (s : State) (t : Tid) (th : Thread) : (s.setThread t th).inReset = s.inReset := rfl
@[simp] theorem State.setThread_period (s : State) (t : Tid) (th : Thread) : (s.setThread t th).period = s.period := rfl
@[simp] theorem State.setThread_kNext (s : State) (t : Tid) (th : Thread) : (s.setThread t th).kNext = s.kNext := rfl
@[simp] theorem State.setThread_temp (s : State) (t : Tid) (th : Thread) : (s.setThread t th).temp = s.temp := rfl
@[simp] theorem State.setThread_attest (s : State) (t : Tid) (th : Thread) : (s.setThread t th).attest = s.attest := rfl
@[simp] theorem State.setThread_fuseReq (s : State) (t : Tid) (th : Thread) : (s.setThread t th).fuseReq = s.fuseReq := rfl
@[simp] theorem State.setThread_msgs (s : State) (t : Tid) (th : Thread) : (s.setThread t th).msgs = s.msgs := rfl
@[simp] theorem State.setThread_stamps (s : State) (t : Tid) (th : Thread) : (s.setThread t th).stamps = s.stamps := rfl
@[simp] theorem State.setThread_cur (s : State) (t : Tid) (th : Thread) : (s.setThread t th).cur = s.cur := rfl
@[simp] theorem State.setThread_agenda (s : State) (t : Tid) (th : Thread) : (s.setThread t th).agenda = s.agenda := rfl
@[simp] theorem State.setThread_inputs (s : State) (t : Tid) (th : Thread) : (s.setThread t th).inputs = s.inputs := rfl
@[simp] theorem State.setThread_cbw (s : State) (t : Tid) (th : Thread) : (s.setThread t th).cbw = s.cbw := rfl
@[simp] theorem State.setThread_bars (s : State) (t : Tid) (th : Thread) : (s.setThread t th).bars = s.bars := rfl
@[simp] theorem State.setThread_freeCtr (s : State) (t : Tid) (th : Thread) : (s.setThread t th).freeCtr = s.freeCtr := rfl
@[simp] theorem State.setThread_nextId (s : State) (t : Tid) (th : Thread) : (s.setThread t th).nextId = s.nextId := rfl
@[simp] theorem State.setCore_cyc (s : State) (st co : Nat) (k : Core) : (s.setCore st co k).cyc = s.cyc := rfl
@[simp] theorem State.setCore_tb (s : State) (st co : Nat) (k : Core) : (s.setCore st co k).tb = s.tb := rfl
@[simp] theorem State.setCore_tbskew (s : State) (st co : Nat) (k : Core) : (s.setCore st co k).tbskew = s.tbskew := rfl
@[simp] theorem State.setCore_mem (s : State) (st co : Nat) (k : Core) : (s.setCore st co k).mem = s.mem := rfl
@[simp] theorem State.setCore_threads (s : State) (st co : Nat) (k : Core) : (s.setCore st co k).threads = s.threads := rfl
@[simp] theorem State.setCore_stations (s : State) (st co : Nat) (k : Core) : (s.setCore st co k).stations = s.stations := rfl
@[simp] theorem State.setCore_pcb (s : State) (st co : Nat) (k : Core) : (s.setCore st co k).pcb = s.pcb := rfl
@[simp] theorem State.setCore_modnum (s : State) (st co : Nat) (k : Core) : (s.setCore st co k).modnum = s.modnum := rfl
@[simp] theorem State.setCore_present (s : State) (st co : Nat) (k : Core) : (s.setCore st co k).present = s.present := rfl
@[simp] theorem State.setCore_ports (s : State) (st co : Nat) (k : Core) : (s.setCore st co k).ports = s.ports := rfl
@[simp] theorem State.setCore_locator (s : State) (st co : Nat) (k : Core) : (s.setCore st co k).locator = s.locator := rfl
@[simp] theorem State.setCore_manifest (s : State) (st co : Nat) (k : Core) : (s.setCore st co k).manifest = s.manifest := rfl
@[simp] theorem State.setCore_repair (s : State) (st co : Nat) (k : Core) : (s.setCore st co k).repair = s.repair := rfl
@[simp] theorem State.setCore_engines (s : State) (st co : Nat) (k : Core) : (s.setCore st co k).engines = s.engines := rfl
@[simp] theorem State.setCore_fuse (s : State) (st co : Nat) (k : Core) : (s.setCore st co k).fuse = s.fuse := rfl
@[simp] theorem State.setCore_leaseEpoch (s : State) (st co : Nat) (k : Core) : (s.setCore st co k).leaseEpoch = s.leaseEpoch := rfl
@[simp] theorem State.setCore_leaseHeld (s : State) (st co : Nat) (k : Core) : (s.setCore st co k).leaseHeld = s.leaseHeld := rfl
@[simp] theorem State.setCore_leaseHolder (s : State) (st co : Nat) (k : Core) : (s.setCore st co k).leaseHolder = s.leaseHolder := rfl
@[simp] theorem State.setCore_leaseExp (s : State) (st co : Nat) (k : Core) : (s.setCore st co k).leaseExp = s.leaseExp := rfl
@[simp] theorem State.setCore_leaseNow (s : State) (st co : Nat) (k : Core) : (s.setCore st co k).leaseNow = s.leaseNow := rfl
@[simp] theorem State.setCore_reloads (s : State) (st co : Nat) (k : Core) : (s.setCore st co k).reloads = s.reloads := rfl
@[simp] theorem State.setCore_badRows (s : State) (st co : Nat) (k : Core) : (s.setCore st co k).badRows = s.badRows := rfl
@[simp] theorem State.setCore_active (s : State) (st co : Nat) (k : Core) : (s.setCore st co k).active = s.active := rfl
@[simp] theorem State.setCore_inReset (s : State) (st co : Nat) (k : Core) : (s.setCore st co k).inReset = s.inReset := rfl
@[simp] theorem State.setCore_period (s : State) (st co : Nat) (k : Core) : (s.setCore st co k).period = s.period := rfl
@[simp] theorem State.setCore_kNext (s : State) (st co : Nat) (k : Core) : (s.setCore st co k).kNext = s.kNext := rfl
@[simp] theorem State.setCore_temp (s : State) (st co : Nat) (k : Core) : (s.setCore st co k).temp = s.temp := rfl
@[simp] theorem State.setCore_attest (s : State) (st co : Nat) (k : Core) : (s.setCore st co k).attest = s.attest := rfl
@[simp] theorem State.setCore_fuseReq (s : State) (st co : Nat) (k : Core) : (s.setCore st co k).fuseReq = s.fuseReq := rfl
@[simp] theorem State.setCore_msgs (s : State) (st co : Nat) (k : Core) : (s.setCore st co k).msgs = s.msgs := rfl
@[simp] theorem State.setCore_stamps (s : State) (st co : Nat) (k : Core) : (s.setCore st co k).stamps = s.stamps := rfl
@[simp] theorem State.setCore_cur (s : State) (st co : Nat) (k : Core) : (s.setCore st co k).cur = s.cur := rfl
@[simp] theorem State.setCore_agenda (s : State) (st co : Nat) (k : Core) : (s.setCore st co k).agenda = s.agenda := rfl
@[simp] theorem State.setCore_inputs (s : State) (st co : Nat) (k : Core) : (s.setCore st co k).inputs = s.inputs := rfl
@[simp] theorem State.setCore_cbw (s : State) (st co : Nat) (k : Core) : (s.setCore st co k).cbw = s.cbw := rfl
@[simp] theorem State.setCore_bars (s : State) (st co : Nat) (k : Core) : (s.setCore st co k).bars = s.bars := rfl
@[simp] theorem State.setCore_freeCtr (s : State) (st co : Nat) (k : Core) : (s.setCore st co k).freeCtr = s.freeCtr := rfl
@[simp] theorem State.setCore_nextId (s : State) (st co : Nat) (k : Core) : (s.setCore st co k).nextId = s.nextId := rfl
@[simp] theorem State.setStation_cyc (s : State) (st : Nat) (x : Station) : (s.setStation st x).cyc = s.cyc := rfl
@[simp] theorem State.setStation_tb (s : State) (st : Nat) (x : Station) : (s.setStation st x).tb = s.tb := rfl
@[simp] theorem State.setStation_tbskew (s : State) (st : Nat) (x : Station) : (s.setStation st x).tbskew = s.tbskew := rfl
@[simp] theorem State.setStation_mem (s : State) (st : Nat) (x : Station) : (s.setStation st x).mem = s.mem := rfl
@[simp] theorem State.setStation_threads (s : State) (st : Nat) (x : Station) : (s.setStation st x).threads = s.threads := rfl
@[simp] theorem State.setStation_cores (s : State) (st : Nat) (x : Station) : (s.setStation st x).cores = s.cores := rfl
@[simp] theorem State.setStation_pcb (s : State) (st : Nat) (x : Station) : (s.setStation st x).pcb = s.pcb := rfl
@[simp] theorem State.setStation_modnum (s : State) (st : Nat) (x : Station) : (s.setStation st x).modnum = s.modnum := rfl
@[simp] theorem State.setStation_present (s : State) (st : Nat) (x : Station) : (s.setStation st x).present = s.present := rfl
@[simp] theorem State.setStation_ports (s : State) (st : Nat) (x : Station) : (s.setStation st x).ports = s.ports := rfl
@[simp] theorem State.setStation_locator (s : State) (st : Nat) (x : Station) : (s.setStation st x).locator = s.locator := rfl
@[simp] theorem State.setStation_manifest (s : State) (st : Nat) (x : Station) : (s.setStation st x).manifest = s.manifest := rfl
@[simp] theorem State.setStation_repair (s : State) (st : Nat) (x : Station) : (s.setStation st x).repair = s.repair := rfl
@[simp] theorem State.setStation_engines (s : State) (st : Nat) (x : Station) : (s.setStation st x).engines = s.engines := rfl
@[simp] theorem State.setStation_fuse (s : State) (st : Nat) (x : Station) : (s.setStation st x).fuse = s.fuse := rfl
@[simp] theorem State.setStation_leaseEpoch (s : State) (st : Nat) (x : Station) : (s.setStation st x).leaseEpoch = s.leaseEpoch := rfl
@[simp] theorem State.setStation_leaseHeld (s : State) (st : Nat) (x : Station) : (s.setStation st x).leaseHeld = s.leaseHeld := rfl
@[simp] theorem State.setStation_leaseHolder (s : State) (st : Nat) (x : Station) : (s.setStation st x).leaseHolder = s.leaseHolder := rfl
@[simp] theorem State.setStation_leaseExp (s : State) (st : Nat) (x : Station) : (s.setStation st x).leaseExp = s.leaseExp := rfl
@[simp] theorem State.setStation_leaseNow (s : State) (st : Nat) (x : Station) : (s.setStation st x).leaseNow = s.leaseNow := rfl
@[simp] theorem State.setStation_reloads (s : State) (st : Nat) (x : Station) : (s.setStation st x).reloads = s.reloads := rfl
@[simp] theorem State.setStation_badRows (s : State) (st : Nat) (x : Station) : (s.setStation st x).badRows = s.badRows := rfl
@[simp] theorem State.setStation_active (s : State) (st : Nat) (x : Station) : (s.setStation st x).active = s.active := rfl
@[simp] theorem State.setStation_inReset (s : State) (st : Nat) (x : Station) : (s.setStation st x).inReset = s.inReset := rfl
@[simp] theorem State.setStation_period (s : State) (st : Nat) (x : Station) : (s.setStation st x).period = s.period := rfl
@[simp] theorem State.setStation_kNext (s : State) (st : Nat) (x : Station) : (s.setStation st x).kNext = s.kNext := rfl
@[simp] theorem State.setStation_temp (s : State) (st : Nat) (x : Station) : (s.setStation st x).temp = s.temp := rfl
@[simp] theorem State.setStation_attest (s : State) (st : Nat) (x : Station) : (s.setStation st x).attest = s.attest := rfl
@[simp] theorem State.setStation_fuseReq (s : State) (st : Nat) (x : Station) : (s.setStation st x).fuseReq = s.fuseReq := rfl
@[simp] theorem State.setStation_msgs (s : State) (st : Nat) (x : Station) : (s.setStation st x).msgs = s.msgs := rfl
@[simp] theorem State.setStation_stamps (s : State) (st : Nat) (x : Station) : (s.setStation st x).stamps = s.stamps := rfl
@[simp] theorem State.setStation_cur (s : State) (st : Nat) (x : Station) : (s.setStation st x).cur = s.cur := rfl
@[simp] theorem State.setStation_agenda (s : State) (st : Nat) (x : Station) : (s.setStation st x).agenda = s.agenda := rfl
@[simp] theorem State.setStation_inputs (s : State) (st : Nat) (x : Station) : (s.setStation st x).inputs = s.inputs := rfl
@[simp] theorem State.setStation_cbw (s : State) (st : Nat) (x : Station) : (s.setStation st x).cbw = s.cbw := rfl
@[simp] theorem State.setStation_bars (s : State) (st : Nat) (x : Station) : (s.setStation st x).bars = s.bars := rfl
@[simp] theorem State.setStation_freeCtr (s : State) (st : Nat) (x : Station) : (s.setStation st x).freeCtr = s.freeCtr := rfl
@[simp] theorem State.setStation_nextId (s : State) (st : Nat) (x : Station) : (s.setStation st x).nextId = s.nextId := rfl
@[simp] theorem State.pushEv_cyc (s : State) (i : Instr) : (s.pushEv i).cyc = s.cyc := rfl
@[simp] theorem State.pushEv_tb (s : State) (i : Instr) : (s.pushEv i).tb = s.tb := rfl
@[simp] theorem State.pushEv_tbskew (s : State) (i : Instr) : (s.pushEv i).tbskew = s.tbskew := rfl
@[simp] theorem State.pushEv_mem (s : State) (i : Instr) : (s.pushEv i).mem = s.mem := rfl
@[simp] theorem State.pushEv_threads (s : State) (i : Instr) : (s.pushEv i).threads = s.threads := rfl
@[simp] theorem State.pushEv_cores (s : State) (i : Instr) : (s.pushEv i).cores = s.cores := rfl
@[simp] theorem State.pushEv_stations (s : State) (i : Instr) : (s.pushEv i).stations = s.stations := rfl
@[simp] theorem State.pushEv_pcb (s : State) (i : Instr) : (s.pushEv i).pcb = s.pcb := rfl
@[simp] theorem State.pushEv_modnum (s : State) (i : Instr) : (s.pushEv i).modnum = s.modnum := rfl
@[simp] theorem State.pushEv_present (s : State) (i : Instr) : (s.pushEv i).present = s.present := rfl
@[simp] theorem State.pushEv_ports (s : State) (i : Instr) : (s.pushEv i).ports = s.ports := rfl
@[simp] theorem State.pushEv_locator (s : State) (i : Instr) : (s.pushEv i).locator = s.locator := rfl
@[simp] theorem State.pushEv_manifest (s : State) (i : Instr) : (s.pushEv i).manifest = s.manifest := rfl
@[simp] theorem State.pushEv_repair (s : State) (i : Instr) : (s.pushEv i).repair = s.repair := rfl
@[simp] theorem State.pushEv_engines (s : State) (i : Instr) : (s.pushEv i).engines = s.engines := rfl
@[simp] theorem State.pushEv_fuse (s : State) (i : Instr) : (s.pushEv i).fuse = s.fuse := rfl
@[simp] theorem State.pushEv_leaseEpoch (s : State) (i : Instr) : (s.pushEv i).leaseEpoch = s.leaseEpoch := rfl
@[simp] theorem State.pushEv_leaseHeld (s : State) (i : Instr) : (s.pushEv i).leaseHeld = s.leaseHeld := rfl
@[simp] theorem State.pushEv_leaseHolder (s : State) (i : Instr) : (s.pushEv i).leaseHolder = s.leaseHolder := rfl
@[simp] theorem State.pushEv_leaseExp (s : State) (i : Instr) : (s.pushEv i).leaseExp = s.leaseExp := rfl
@[simp] theorem State.pushEv_leaseNow (s : State) (i : Instr) : (s.pushEv i).leaseNow = s.leaseNow := rfl
@[simp] theorem State.pushEv_reloads (s : State) (i : Instr) : (s.pushEv i).reloads = s.reloads := rfl
@[simp] theorem State.pushEv_badRows (s : State) (i : Instr) : (s.pushEv i).badRows = s.badRows := rfl
@[simp] theorem State.pushEv_active (s : State) (i : Instr) : (s.pushEv i).active = s.active := rfl
@[simp] theorem State.pushEv_inReset (s : State) (i : Instr) : (s.pushEv i).inReset = s.inReset := rfl
@[simp] theorem State.pushEv_period (s : State) (i : Instr) : (s.pushEv i).period = s.period := rfl
@[simp] theorem State.pushEv_kNext (s : State) (i : Instr) : (s.pushEv i).kNext = s.kNext := rfl
@[simp] theorem State.pushEv_temp (s : State) (i : Instr) : (s.pushEv i).temp = s.temp := rfl
@[simp] theorem State.pushEv_attest (s : State) (i : Instr) : (s.pushEv i).attest = s.attest := rfl
@[simp] theorem State.pushEv_fuseReq (s : State) (i : Instr) : (s.pushEv i).fuseReq = s.fuseReq := rfl
@[simp] theorem State.pushEv_msgs (s : State) (i : Instr) : (s.pushEv i).msgs = s.msgs := rfl
@[simp] theorem State.pushEv_stamps (s : State) (i : Instr) : (s.pushEv i).stamps = s.stamps := rfl
@[simp] theorem State.pushEv_cur (s : State) (i : Instr) : (s.pushEv i).cur = s.cur := rfl
@[simp] theorem State.pushEv_inputs (s : State) (i : Instr) : (s.pushEv i).inputs = s.inputs := rfl
@[simp] theorem State.pushEv_cbw (s : State) (i : Instr) : (s.pushEv i).cbw = s.cbw := rfl
@[simp] theorem State.pushEv_bars (s : State) (i : Instr) : (s.pushEv i).bars = s.bars := rfl
@[simp] theorem State.pushEv_freeCtr (s : State) (i : Instr) : (s.pushEv i).freeCtr = s.freeCtr := rfl
@[simp] theorem State.pushEv_nextId (s : State) (i : Instr) : (s.pushEv i).nextId = s.nextId := rfl
@[simp] theorem State.setCb_cyc (s : State) (st off : Nat) (v : Word) : (s.setCb st off v).cyc = s.cyc := rfl
@[simp] theorem State.setCb_tb (s : State) (st off : Nat) (v : Word) : (s.setCb st off v).tb = s.tb := rfl
@[simp] theorem State.setCb_tbskew (s : State) (st off : Nat) (v : Word) : (s.setCb st off v).tbskew = s.tbskew := rfl
@[simp] theorem State.setCb_mem (s : State) (st off : Nat) (v : Word) : (s.setCb st off v).mem = s.mem := rfl
@[simp] theorem State.setCb_threads (s : State) (st off : Nat) (v : Word) : (s.setCb st off v).threads = s.threads := rfl
@[simp] theorem State.setCb_cores (s : State) (st off : Nat) (v : Word) : (s.setCb st off v).cores = s.cores := rfl
@[simp] theorem State.setCb_pcb (s : State) (st off : Nat) (v : Word) : (s.setCb st off v).pcb = s.pcb := rfl
@[simp] theorem State.setCb_modnum (s : State) (st off : Nat) (v : Word) : (s.setCb st off v).modnum = s.modnum := rfl
@[simp] theorem State.setCb_present (s : State) (st off : Nat) (v : Word) : (s.setCb st off v).present = s.present := rfl
@[simp] theorem State.setCb_ports (s : State) (st off : Nat) (v : Word) : (s.setCb st off v).ports = s.ports := rfl
@[simp] theorem State.setCb_locator (s : State) (st off : Nat) (v : Word) : (s.setCb st off v).locator = s.locator := rfl
@[simp] theorem State.setCb_manifest (s : State) (st off : Nat) (v : Word) : (s.setCb st off v).manifest = s.manifest := rfl
@[simp] theorem State.setCb_repair (s : State) (st off : Nat) (v : Word) : (s.setCb st off v).repair = s.repair := rfl
@[simp] theorem State.setCb_engines (s : State) (st off : Nat) (v : Word) : (s.setCb st off v).engines = s.engines := rfl
@[simp] theorem State.setCb_fuse (s : State) (st off : Nat) (v : Word) : (s.setCb st off v).fuse = s.fuse := rfl
@[simp] theorem State.setCb_leaseEpoch (s : State) (st off : Nat) (v : Word) : (s.setCb st off v).leaseEpoch = s.leaseEpoch := rfl
@[simp] theorem State.setCb_leaseHeld (s : State) (st off : Nat) (v : Word) : (s.setCb st off v).leaseHeld = s.leaseHeld := rfl
@[simp] theorem State.setCb_leaseHolder (s : State) (st off : Nat) (v : Word) : (s.setCb st off v).leaseHolder = s.leaseHolder := rfl
@[simp] theorem State.setCb_leaseExp (s : State) (st off : Nat) (v : Word) : (s.setCb st off v).leaseExp = s.leaseExp := rfl
@[simp] theorem State.setCb_leaseNow (s : State) (st off : Nat) (v : Word) : (s.setCb st off v).leaseNow = s.leaseNow := rfl
@[simp] theorem State.setCb_reloads (s : State) (st off : Nat) (v : Word) : (s.setCb st off v).reloads = s.reloads := rfl
@[simp] theorem State.setCb_badRows (s : State) (st off : Nat) (v : Word) : (s.setCb st off v).badRows = s.badRows := rfl
@[simp] theorem State.setCb_active (s : State) (st off : Nat) (v : Word) : (s.setCb st off v).active = s.active := rfl
@[simp] theorem State.setCb_inReset (s : State) (st off : Nat) (v : Word) : (s.setCb st off v).inReset = s.inReset := rfl
@[simp] theorem State.setCb_period (s : State) (st off : Nat) (v : Word) : (s.setCb st off v).period = s.period := rfl
@[simp] theorem State.setCb_kNext (s : State) (st off : Nat) (v : Word) : (s.setCb st off v).kNext = s.kNext := rfl
@[simp] theorem State.setCb_temp (s : State) (st off : Nat) (v : Word) : (s.setCb st off v).temp = s.temp := rfl
@[simp] theorem State.setCb_attest (s : State) (st off : Nat) (v : Word) : (s.setCb st off v).attest = s.attest := rfl
@[simp] theorem State.setCb_fuseReq (s : State) (st off : Nat) (v : Word) : (s.setCb st off v).fuseReq = s.fuseReq := rfl
@[simp] theorem State.setCb_msgs (s : State) (st off : Nat) (v : Word) : (s.setCb st off v).msgs = s.msgs := rfl
@[simp] theorem State.setCb_stamps (s : State) (st off : Nat) (v : Word) : (s.setCb st off v).stamps = s.stamps := rfl
@[simp] theorem State.setCb_cur (s : State) (st off : Nat) (v : Word) : (s.setCb st off v).cur = s.cur := rfl
@[simp] theorem State.setCb_agenda (s : State) (st off : Nat) (v : Word) : (s.setCb st off v).agenda = s.agenda := rfl
@[simp] theorem State.setCb_inputs (s : State) (st off : Nat) (v : Word) : (s.setCb st off v).inputs = s.inputs := rfl
@[simp] theorem State.setCb_cbw (s : State) (st off : Nat) (v : Word) : (s.setCb st off v).cbw = s.cbw := rfl
@[simp] theorem State.setCb_bars (s : State) (st off : Nat) (v : Word) : (s.setCb st off v).bars = s.bars := rfl
@[simp] theorem State.setCb_freeCtr (s : State) (st off : Nat) (v : Word) : (s.setCb st off v).freeCtr = s.freeCtr := rfl
@[simp] theorem State.setCb_nextId (s : State) (st off : Nat) (v : Word) : (s.setCb st off v).nextId = s.nextId := rfl
@[simp] theorem State.modThread_cyc (s : State) (t : Tid) (f : Thread → Thread) : (s.modThread t f).cyc = s.cyc := rfl
@[simp] theorem State.modThread_tb (s : State) (t : Tid) (f : Thread → Thread) : (s.modThread t f).tb = s.tb := rfl
@[simp] theorem State.modThread_tbskew (s : State) (t : Tid) (f : Thread → Thread) : (s.modThread t f).tbskew = s.tbskew := rfl
@[simp] theorem State.modThread_mem (s : State) (t : Tid) (f : Thread → Thread) : (s.modThread t f).mem = s.mem := rfl
@[simp] theorem State.modThread_cores (s : State) (t : Tid) (f : Thread → Thread) : (s.modThread t f).cores = s.cores := rfl
@[simp] theorem State.modThread_stations (s : State) (t : Tid) (f : Thread → Thread) : (s.modThread t f).stations = s.stations := rfl
@[simp] theorem State.modThread_pcb (s : State) (t : Tid) (f : Thread → Thread) : (s.modThread t f).pcb = s.pcb := rfl
@[simp] theorem State.modThread_modnum (s : State) (t : Tid) (f : Thread → Thread) : (s.modThread t f).modnum = s.modnum := rfl
@[simp] theorem State.modThread_present (s : State) (t : Tid) (f : Thread → Thread) : (s.modThread t f).present = s.present := rfl
@[simp] theorem State.modThread_ports (s : State) (t : Tid) (f : Thread → Thread) : (s.modThread t f).ports = s.ports := rfl
@[simp] theorem State.modThread_locator (s : State) (t : Tid) (f : Thread → Thread) : (s.modThread t f).locator = s.locator := rfl
@[simp] theorem State.modThread_manifest (s : State) (t : Tid) (f : Thread → Thread) : (s.modThread t f).manifest = s.manifest := rfl
@[simp] theorem State.modThread_repair (s : State) (t : Tid) (f : Thread → Thread) : (s.modThread t f).repair = s.repair := rfl
@[simp] theorem State.modThread_engines (s : State) (t : Tid) (f : Thread → Thread) : (s.modThread t f).engines = s.engines := rfl
@[simp] theorem State.modThread_fuse (s : State) (t : Tid) (f : Thread → Thread) : (s.modThread t f).fuse = s.fuse := rfl
@[simp] theorem State.modThread_leaseEpoch (s : State) (t : Tid) (f : Thread → Thread) : (s.modThread t f).leaseEpoch = s.leaseEpoch := rfl
@[simp] theorem State.modThread_leaseHeld (s : State) (t : Tid) (f : Thread → Thread) : (s.modThread t f).leaseHeld = s.leaseHeld := rfl
@[simp] theorem State.modThread_leaseHolder (s : State) (t : Tid) (f : Thread → Thread) : (s.modThread t f).leaseHolder = s.leaseHolder := rfl
@[simp] theorem State.modThread_leaseExp (s : State) (t : Tid) (f : Thread → Thread) : (s.modThread t f).leaseExp = s.leaseExp := rfl
@[simp] theorem State.modThread_leaseNow (s : State) (t : Tid) (f : Thread → Thread) : (s.modThread t f).leaseNow = s.leaseNow := rfl
@[simp] theorem State.modThread_reloads (s : State) (t : Tid) (f : Thread → Thread) : (s.modThread t f).reloads = s.reloads := rfl
@[simp] theorem State.modThread_badRows (s : State) (t : Tid) (f : Thread → Thread) : (s.modThread t f).badRows = s.badRows := rfl
@[simp] theorem State.modThread_active (s : State) (t : Tid) (f : Thread → Thread) : (s.modThread t f).active = s.active := rfl
@[simp] theorem State.modThread_inReset (s : State) (t : Tid) (f : Thread → Thread) : (s.modThread t f).inReset = s.inReset := rfl
@[simp] theorem State.modThread_period (s : State) (t : Tid) (f : Thread → Thread) : (s.modThread t f).period = s.period := rfl
@[simp] theorem State.modThread_kNext (s : State) (t : Tid) (f : Thread → Thread) : (s.modThread t f).kNext = s.kNext := rfl
@[simp] theorem State.modThread_temp (s : State) (t : Tid) (f : Thread → Thread) : (s.modThread t f).temp = s.temp := rfl
@[simp] theorem State.modThread_attest (s : State) (t : Tid) (f : Thread → Thread) : (s.modThread t f).attest = s.attest := rfl
@[simp] theorem State.modThread_fuseReq (s : State) (t : Tid) (f : Thread → Thread) : (s.modThread t f).fuseReq = s.fuseReq := rfl
@[simp] theorem State.modThread_msgs (s : State) (t : Tid) (f : Thread → Thread) : (s.modThread t f).msgs = s.msgs := rfl
@[simp] theorem State.modThread_stamps (s : State) (t : Tid) (f : Thread → Thread) : (s.modThread t f).stamps = s.stamps := rfl
@[simp] theorem State.modThread_cur (s : State) (t : Tid) (f : Thread → Thread) : (s.modThread t f).cur = s.cur := rfl
@[simp] theorem State.modThread_agenda (s : State) (t : Tid) (f : Thread → Thread) : (s.modThread t f).agenda = s.agenda := rfl
@[simp] theorem State.modThread_inputs (s : State) (t : Tid) (f : Thread → Thread) : (s.modThread t f).inputs = s.inputs := rfl
@[simp] theorem State.modThread_cbw (s : State) (t : Tid) (f : Thread → Thread) : (s.modThread t f).cbw = s.cbw := rfl
@[simp] theorem State.modThread_bars (s : State) (t : Tid) (f : Thread → Thread) : (s.modThread t f).bars = s.bars := rfl
@[simp] theorem State.modThread_freeCtr (s : State) (t : Tid) (f : Thread → Thread) : (s.modThread t f).freeCtr = s.freeCtr := rfl
@[simp] theorem State.modThread_nextId (s : State) (t : Tid) (f : Thread → Thread) : (s.modThread t f).nextId = s.nextId := rfl
@[simp] theorem State.modCore_cyc (s : State) (st co : Nat) (f : Core → Core) : (s.modCore st co f).cyc = s.cyc := rfl
@[simp] theorem State.modCore_tb (s : State) (st co : Nat) (f : Core → Core) : (s.modCore st co f).tb = s.tb := rfl
@[simp] theorem State.modCore_tbskew (s : State) (st co : Nat) (f : Core → Core) : (s.modCore st co f).tbskew = s.tbskew := rfl
@[simp] theorem State.modCore_mem (s : State) (st co : Nat) (f : Core → Core) : (s.modCore st co f).mem = s.mem := rfl
@[simp] theorem State.modCore_threads (s : State) (st co : Nat) (f : Core → Core) : (s.modCore st co f).threads = s.threads := rfl
@[simp] theorem State.modCore_stations (s : State) (st co : Nat) (f : Core → Core) : (s.modCore st co f).stations = s.stations := rfl
@[simp] theorem State.modCore_pcb (s : State) (st co : Nat) (f : Core → Core) : (s.modCore st co f).pcb = s.pcb := rfl
@[simp] theorem State.modCore_modnum (s : State) (st co : Nat) (f : Core → Core) : (s.modCore st co f).modnum = s.modnum := rfl
@[simp] theorem State.modCore_present (s : State) (st co : Nat) (f : Core → Core) : (s.modCore st co f).present = s.present := rfl
@[simp] theorem State.modCore_ports (s : State) (st co : Nat) (f : Core → Core) : (s.modCore st co f).ports = s.ports := rfl
@[simp] theorem State.modCore_locator (s : State) (st co : Nat) (f : Core → Core) : (s.modCore st co f).locator = s.locator := rfl
@[simp] theorem State.modCore_manifest (s : State) (st co : Nat) (f : Core → Core) : (s.modCore st co f).manifest = s.manifest := rfl
@[simp] theorem State.modCore_repair (s : State) (st co : Nat) (f : Core → Core) : (s.modCore st co f).repair = s.repair := rfl
@[simp] theorem State.modCore_engines (s : State) (st co : Nat) (f : Core → Core) : (s.modCore st co f).engines = s.engines := rfl
@[simp] theorem State.modCore_fuse (s : State) (st co : Nat) (f : Core → Core) : (s.modCore st co f).fuse = s.fuse := rfl
@[simp] theorem State.modCore_leaseEpoch (s : State) (st co : Nat) (f : Core → Core) : (s.modCore st co f).leaseEpoch = s.leaseEpoch := rfl
@[simp] theorem State.modCore_leaseHeld (s : State) (st co : Nat) (f : Core → Core) : (s.modCore st co f).leaseHeld = s.leaseHeld := rfl
@[simp] theorem State.modCore_leaseHolder (s : State) (st co : Nat) (f : Core → Core) : (s.modCore st co f).leaseHolder = s.leaseHolder := rfl
@[simp] theorem State.modCore_leaseExp (s : State) (st co : Nat) (f : Core → Core) : (s.modCore st co f).leaseExp = s.leaseExp := rfl
@[simp] theorem State.modCore_leaseNow (s : State) (st co : Nat) (f : Core → Core) : (s.modCore st co f).leaseNow = s.leaseNow := rfl
@[simp] theorem State.modCore_reloads (s : State) (st co : Nat) (f : Core → Core) : (s.modCore st co f).reloads = s.reloads := rfl
@[simp] theorem State.modCore_badRows (s : State) (st co : Nat) (f : Core → Core) : (s.modCore st co f).badRows = s.badRows := rfl
@[simp] theorem State.modCore_active (s : State) (st co : Nat) (f : Core → Core) : (s.modCore st co f).active = s.active := rfl
@[simp] theorem State.modCore_inReset (s : State) (st co : Nat) (f : Core → Core) : (s.modCore st co f).inReset = s.inReset := rfl
@[simp] theorem State.modCore_period (s : State) (st co : Nat) (f : Core → Core) : (s.modCore st co f).period = s.period := rfl
@[simp] theorem State.modCore_kNext (s : State) (st co : Nat) (f : Core → Core) : (s.modCore st co f).kNext = s.kNext := rfl
@[simp] theorem State.modCore_temp (s : State) (st co : Nat) (f : Core → Core) : (s.modCore st co f).temp = s.temp := rfl
@[simp] theorem State.modCore_attest (s : State) (st co : Nat) (f : Core → Core) : (s.modCore st co f).attest = s.attest := rfl
@[simp] theorem State.modCore_fuseReq (s : State) (st co : Nat) (f : Core → Core) : (s.modCore st co f).fuseReq = s.fuseReq := rfl
@[simp] theorem State.modCore_msgs (s : State) (st co : Nat) (f : Core → Core) : (s.modCore st co f).msgs = s.msgs := rfl
@[simp] theorem State.modCore_stamps (s : State) (st co : Nat) (f : Core → Core) : (s.modCore st co f).stamps = s.stamps := rfl
@[simp] theorem State.modCore_cur (s : State) (st co : Nat) (f : Core → Core) : (s.modCore st co f).cur = s.cur := rfl
@[simp] theorem State.modCore_agenda (s : State) (st co : Nat) (f : Core → Core) : (s.modCore st co f).agenda = s.agenda := rfl
@[simp] theorem State.modCore_inputs (s : State) (st co : Nat) (f : Core → Core) : (s.modCore st co f).inputs = s.inputs := rfl
@[simp] theorem State.modCore_cbw (s : State) (st co : Nat) (f : Core → Core) : (s.modCore st co f).cbw = s.cbw := rfl
@[simp] theorem State.modCore_bars (s : State) (st co : Nat) (f : Core → Core) : (s.modCore st co f).bars = s.bars := rfl
@[simp] theorem State.modCore_freeCtr (s : State) (st co : Nat) (f : Core → Core) : (s.modCore st co f).freeCtr = s.freeCtr := rfl
@[simp] theorem State.modCore_nextId (s : State) (st co : Nat) (f : Core → Core) : (s.modCore st co f).nextId = s.nextId := rfl
@[simp] theorem State.modStation_cyc (s : State) (st : Nat) (f : Station → Station) : (s.modStation st f).cyc = s.cyc := rfl
@[simp] theorem State.modStation_tb (s : State) (st : Nat) (f : Station → Station) : (s.modStation st f).tb = s.tb := rfl
@[simp] theorem State.modStation_tbskew (s : State) (st : Nat) (f : Station → Station) : (s.modStation st f).tbskew = s.tbskew := rfl
@[simp] theorem State.modStation_mem (s : State) (st : Nat) (f : Station → Station) : (s.modStation st f).mem = s.mem := rfl
@[simp] theorem State.modStation_threads (s : State) (st : Nat) (f : Station → Station) : (s.modStation st f).threads = s.threads := rfl
@[simp] theorem State.modStation_cores (s : State) (st : Nat) (f : Station → Station) : (s.modStation st f).cores = s.cores := rfl
@[simp] theorem State.modStation_pcb (s : State) (st : Nat) (f : Station → Station) : (s.modStation st f).pcb = s.pcb := rfl
@[simp] theorem State.modStation_modnum (s : State) (st : Nat) (f : Station → Station) : (s.modStation st f).modnum = s.modnum := rfl
@[simp] theorem State.modStation_present (s : State) (st : Nat) (f : Station → Station) : (s.modStation st f).present = s.present := rfl
@[simp] theorem State.modStation_ports (s : State) (st : Nat) (f : Station → Station) : (s.modStation st f).ports = s.ports := rfl
@[simp] theorem State.modStation_locator (s : State) (st : Nat) (f : Station → Station) : (s.modStation st f).locator = s.locator := rfl
@[simp] theorem State.modStation_manifest (s : State) (st : Nat) (f : Station → Station) : (s.modStation st f).manifest = s.manifest := rfl
@[simp] theorem State.modStation_repair (s : State) (st : Nat) (f : Station → Station) : (s.modStation st f).repair = s.repair := rfl
@[simp] theorem State.modStation_engines (s : State) (st : Nat) (f : Station → Station) : (s.modStation st f).engines = s.engines := rfl
@[simp] theorem State.modStation_fuse (s : State) (st : Nat) (f : Station → Station) : (s.modStation st f).fuse = s.fuse := rfl
@[simp] theorem State.modStation_leaseEpoch (s : State) (st : Nat) (f : Station → Station) : (s.modStation st f).leaseEpoch = s.leaseEpoch := rfl
@[simp] theorem State.modStation_leaseHeld (s : State) (st : Nat) (f : Station → Station) : (s.modStation st f).leaseHeld = s.leaseHeld := rfl
@[simp] theorem State.modStation_leaseHolder (s : State) (st : Nat) (f : Station → Station) : (s.modStation st f).leaseHolder = s.leaseHolder := rfl
@[simp] theorem State.modStation_leaseExp (s : State) (st : Nat) (f : Station → Station) : (s.modStation st f).leaseExp = s.leaseExp := rfl
@[simp] theorem State.modStation_leaseNow (s : State) (st : Nat) (f : Station → Station) : (s.modStation st f).leaseNow = s.leaseNow := rfl
@[simp] theorem State.modStation_reloads (s : State) (st : Nat) (f : Station → Station) : (s.modStation st f).reloads = s.reloads := rfl
@[simp] theorem State.modStation_badRows (s : State) (st : Nat) (f : Station → Station) : (s.modStation st f).badRows = s.badRows := rfl
@[simp] theorem State.modStation_active (s : State) (st : Nat) (f : Station → Station) : (s.modStation st f).active = s.active := rfl
@[simp] theorem State.modStation_inReset (s : State) (st : Nat) (f : Station → Station) : (s.modStation st f).inReset = s.inReset := rfl
@[simp] theorem State.modStation_period (s : State) (st : Nat) (f : Station → Station) : (s.modStation st f).period = s.period := rfl
@[simp] theorem State.modStation_kNext (s : State) (st : Nat) (f : Station → Station) : (s.modStation st f).kNext = s.kNext := rfl
@[simp] theorem State.modStation_temp (s : State) (st : Nat) (f : Station → Station) : (s.modStation st f).temp = s.temp := rfl
@[simp] theorem State.modStation_attest (s : State) (st : Nat) (f : Station → Station) : (s.modStation st f).attest = s.attest := rfl
@[simp] theorem State.modStation_fuseReq (s : State) (st : Nat) (f : Station → Station) : (s.modStation st f).fuseReq = s.fuseReq := rfl
@[simp] theorem State.modStation_msgs (s : State) (st : Nat) (f : Station → Station) : (s.modStation st f).msgs = s.msgs := rfl
@[simp] theorem State.modStation_stamps (s : State) (st : Nat) (f : Station → Station) : (s.modStation st f).stamps = s.stamps := rfl
@[simp] theorem State.modStation_cur (s : State) (st : Nat) (f : Station → Station) : (s.modStation st f).cur = s.cur := rfl
@[simp] theorem State.modStation_agenda (s : State) (st : Nat) (f : Station → Station) : (s.modStation st f).agenda = s.agenda := rfl
@[simp] theorem State.modStation_inputs (s : State) (st : Nat) (f : Station → Station) : (s.modStation st f).inputs = s.inputs := rfl
@[simp] theorem State.modStation_cbw (s : State) (st : Nat) (f : Station → Station) : (s.modStation st f).cbw = s.cbw := rfl
@[simp] theorem State.modStation_bars (s : State) (st : Nat) (f : Station → Station) : (s.modStation st f).bars = s.bars := rfl
@[simp] theorem State.modStation_freeCtr (s : State) (st : Nat) (f : Station → Station) : (s.modStation st f).freeCtr = s.freeCtr := rfl
@[simp] theorem State.modStation_nextId (s : State) (st : Nat) (f : Station → Station) : (s.modStation st f).nextId = s.nextId := rfl

@[simp] theorem Thread.setQueue_s (th : Thread) (q : QName) (v : Queue) : (th.setQueue q v).s = th.s := by cases q <;> rfl
@[simp] theorem Thread.setQueue_p (th : Thread) (q : QName) (v : Queue) : (th.setQueue q v).p = th.p := by cases q <;> rfl
@[simp] theorem Thread.setQueue_k (th : Thread) (q : QName) (v : Queue) : (th.setQueue q v).k = th.k := by cases q <;> rfl
@[simp] theorem Thread.setQueue_l (th : Thread) (q : QName) (v : Queue) : (th.setQueue q v).l = th.l := by cases q <;> rfl
@[simp] theorem Thread.setQueue_z (th : Thread) (q : QName) (v : Queue) : (th.setQueue q v).z = th.z := by cases q <;> rfl
@[simp] theorem Thread.setQueue_g (th : Thread) (q : QName) (v : Queue) : (th.setQueue q v).g = th.g := by cases q <;> rfl
@[simp] theorem Thread.setQueue_pins (th : Thread) (q : QName) (v : Queue) : (th.setQueue q v).pins = th.pins := by cases q <;> rfl
@[simp] theorem Thread.setQueue_tok (th : Thread) (q : QName) (v : Queue) : (th.setQueue q v).tok = th.tok := by cases q <;> rfl
@[simp] theorem Thread.setQueue_ctl (th : Thread) (q : QName) (v : Queue) : (th.setQueue q v).ctl = th.ctl := by cases q <;> rfl
@[simp] theorem Thread.setQueue_slots (th : Thread) (q : QName) (v : Queue) : (th.setQueue q v).slots = th.slots := by cases q <;> rfl
@[simp] theorem Thread.setQueue_nest (th : Thread) (q : QName) (v : Queue) : (th.setQueue q v).nest = th.nest := by cases q <;> rfl
@[simp] theorem Thread.setQueue_pw (th : Thread) (q : QName) (v : Queue) : (th.setQueue q v).pw = th.pw := by cases q <;> rfl
@[simp] theorem Thread.setQueue_hdr (th : Thread) (q : QName) (v : Queue) : (th.setQueue q v).hdr = th.hdr := by cases q <;> rfl
@[simp] theorem Thread.setQueue_winBase (th : Thread) (q : QName) (v : Queue) : (th.setQueue q v).winBase = th.winBase := by cases q <;> rfl
@[simp] theorem Thread.setQueue_csBase (th : Thread) (q : QName) (v : Queue) : (th.setQueue q v).csBase = th.csBase := by cases q <;> rfl
@[simp] theorem Thread.setQueue_slate (th : Thread) (q : QName) (v : Queue) : (th.setQueue q v).slate = th.slate := by cases q <;> rfl
@[simp] theorem Thread.setQueue_segExp (th : Thread) (q : QName) (v : Queue) : (th.setQueue q v).segExp = th.segExp := by cases q <;> rfl
@[simp] theorem Thread.setQueue_segLen (th : Thread) (q : QName) (v : Queue) : (th.setQueue q v).segLen = th.segLen := by cases q <;> rfl
@[simp] theorem Thread.setQueue_mchk (th : Thread) (q : QName) (v : Queue) : (th.setQueue q v).mchk = th.mchk := by cases q <;> rfl
@[simp] theorem Thread.setQueue_cmds (th : Thread) (q : QName) (v : Queue) : (th.setQueue q v).cmds = th.cmds := by cases q <;> rfl
@[simp] theorem Thread.setQueue_trapped (th : Thread) (q : QName) (v : Queue) : (th.setQueue q v).trapped = th.trapped := by cases q <;> rfl
@[simp] theorem Thread.setQueue_removed (th : Thread) (q : QName) (v : Queue) : (th.setQueue q v).removed = th.removed := by cases q <;> rfl
@[simp] theorem Thread.setQueue_status (th : Thread) (q : QName) (v : Queue) : (th.setQueue q v).status = th.status := by cases q <;> rfl
@[simp] theorem Thread.setQueue_kind (th : Thread) (q : QName) (v : Queue) : (th.setQueue q v).kind = th.kind := by cases q <;> rfl
@[simp] theorem Thread.setQueue_ctx (th : Thread) (q : QName) (v : Queue) : (th.setQueue q v).ctx = th.ctx := by cases q <;> rfl
@[simp] theorem Thread.setQueue_forCtx (th : Thread) (q : QName) (v : Queue) : (th.setQueue q v).forCtx = th.forCtx := by cases q <;> rfl
@[simp] theorem Thread.setQueue_priv (th : Thread) (q : QName) (v : Queue) : (th.setQueue q v).priv = th.priv := by cases q <;> rfl
@[simp] theorem Thread.setQueue_tier (th : Thread) (q : QName) (v : Queue) : (th.setQueue q v).tier = th.tier := by cases q <;> rfl
@[simp] theorem Thread.setQueue_job (th : Thread) (q : QName) (v : Queue) : (th.setQueue q v).job = th.job := by cases q <;> rfl
@[simp] theorem Thread.setQueue_spl (th : Thread) (q : QName) (v : Queue) : (th.setQueue q v).spl = th.spl := by cases q <;> rfl
@[simp] theorem Thread.setQueue_seq (th : Thread) (q : QName) (v : Queue) : (th.setQueue q v).seq = th.seq := by cases q <;> rfl
@[simp] theorem Thread.setQueue_pend (th : Thread) (q : QName) (v : Queue) : (th.setQueue q v).pend = th.pend := by cases q <;> rfl
@[simp] theorem Thread.setQueue_unobs (th : Thread) (q : QName) (v : Queue) : (th.setQueue q v).unobs = th.unobs := by cases q <;> rfl
@[simp] theorem Thread.setQueue_sb (th : Thread) (q : QName) (v : Queue) : (th.setQueue q v).sb = th.sb := by cases q <;> rfl
@[simp] theorem Thread.setQueue_ops (th : Thread) (q : QName) (v : Queue) : (th.setQueue q v).ops = th.ops := by cases q <;> rfl
@[simp] theorem Thread.setQueue_acq (th : Thread) (q : QName) (v : Queue) : (th.setQueue q v).acq = th.acq := by cases q <;> rfl
@[simp] theorem Thread.setQueue_fault (th : Thread) (q : QName) (v : Queue) : (th.setQueue q v).fault = th.fault := by cases q <;> rfl
@[simp] theorem Thread.setQueue_newFault (th : Thread) (q : QName) (v : Queue) : (th.setQueue q v).newFault = th.newFault := by cases q <;> rfl
@[simp] theorem Thread.setQueue_more (th : Thread) (q : QName) (v : Queue) : (th.setQueue q v).more = th.more := by cases q <;> rfl
@[simp] theorem Thread.setQueue_detached (th : Thread) (q : QName) (v : Queue) : (th.setQueue q v).detached = th.detached := by cases q <;> rfl
@[simp] theorem Thread.setQueue_halted (th : Thread) (q : QName) (v : Queue) : (th.setQueue q v).halted = th.halted := by cases q <;> rfl
@[simp] theorem Thread.setQueue_haltCyc (th : Thread) (q : QName) (v : Queue) : (th.setQueue q v).haltCyc = th.haltCyc := by cases q <;> rfl
@[simp] theorem Thread.setQueue_slot (th : Thread) (q : QName) (v : Queue) : (th.setQueue q v).slot = th.slot := by cases q <;> rfl
@[simp] theorem Thread.setQueue_slotHeld (th : Thread) (q : QName) (v : Queue) : (th.setQueue q v).slotHeld = th.slotHeld := by cases q <;> rfl
@[simp] theorem Thread.setQueue_preq (th : Thread) (q : QName) (v : Queue) : (th.setQueue q v).preq = th.preq := by cases q <;> rfl
@[simp] theorem Thread.setQueue_drain (th : Thread) (q : QName) (v : Queue) : (th.setQueue q v).drain = th.drain := by cases q <;> rfl
@[simp] theorem Thread.setQueue_drainE (th : Thread) (q : QName) (v : Queue) : (th.setQueue q v).drainE = th.drainE := by cases q <;> rfl
@[simp] theorem Thread.setQueue_rel (th : Thread) (q : QName) (v : Queue) : (th.setQueue q v).rel = th.rel := by cases q <;> rfl
@[simp] theorem Thread.setQueue_launched (th : Thread) (q : QName) (v : Queue) : (th.setQueue q v).launched = th.launched := by cases q <;> rfl
@[simp] theorem Thread.setQueue_uncorr (th : Thread) (q : QName) (v : Queue) : (th.setQueue q v).uncorr = th.uncorr := by cases q <;> rfl
@[simp] theorem Thread.setQueue_kvRestart (th : Thread) (q : QName) (v : Queue) : (th.setQueue q v).kvRestart = th.kvRestart := by cases q <;> rfl
@[simp] theorem Thread.setQueue_notBefore (th : Thread) (q : QName) (v : Queue) : (th.setQueue q v).notBefore = th.notBefore := by cases q <;> rfl
@[simp] theorem Thread.setQueue_soft (th : Thread) (q : QName) (v : Queue) : (th.setQueue q v).soft = th.soft := by cases q <;> rfl
@[simp] theorem Thread.setQueue_vatAt (th : Thread) (q : QName) (v : Queue) : (th.setQueue q v).vatAt = th.vatAt := by cases q <;> rfl
@[simp] theorem Thread.setQueue_saveRec (th : Thread) (q : QName) (v : Queue) : (th.setQueue q v).saveRec = th.saveRec := by cases q <;> rfl
@[simp] theorem Thread.setQueue_saveAt (th : Thread) (q : QName) (v : Queue) : (th.setQueue q v).saveAt = th.saveAt := by cases q <;> rfl
@[simp] theorem Thread.setQueue_needHandler (th : Thread) (q : QName) (v : Queue) : (th.setQueue q v).needHandler = th.needHandler := by cases q <;> rfl

@[simp] theorem Thread.queue_setQueue (th : Thread) (q : QName) (v : Queue) : (th.setQueue q v).queue q = v := by cases q <;> rfl
theorem Thread.queue_setQueue_other (th : Thread) (q r : QName) (v : Queue) (h : r ≠ q) : (th.setQueue q v).queue r = th.queue r := by
  cases q <;> cases r <;> first | rfl | exact absurd rfl h

/-- What a control register reads after a write of one. -/
theorem Thread.creg_setCreg (th : Thread) (n m : Nat) (v : Word) :
    (th.setCreg n v).creg m = if m = n then v else th.creg m := by
  simp [Thread.creg, Thread.setCreg, Cells.get_set]

@[simp] theorem Thread.setCreg_s (th : Thread) (n : Nat) (v : Word) : (th.setCreg n v).s = th.s := rfl
@[simp] theorem Thread.orFlags_s (th : Thread) (v : Word) : (th.orFlags v).s = th.s := rfl
@[simp] theorem Thread.popHead_s (th : Thread) (q : QName) (n : Nat) : (th.popHead q n).s = th.s := Thread.setQueue_s _ _ _
@[simp] theorem Thread.setHead_s (th : Thread) (q : QName) (e : Entry) : (th.setHead q e).s = th.s := Thread.setQueue_s _ _ _
@[simp] theorem Thread.write_s (th : Thread) (now lat seq : Nat) (q : QName) (ws : List RegW) : (th.write now lat seq q ws).s = th.s := by
  cases ws <;> rfl
@[simp] theorem Thread.setCreg_p (th : Thread) (n : Nat) (v : Word) : (th.setCreg n v).p = th.p := rfl
@[simp] theorem Thread.orFlags_p (th : Thread) (v : Word) : (th.orFlags v).p = th.p := rfl
@[simp] theorem Thread.popHead_p (th : Thread) (q : QName) (n : Nat) : (th.popHead q n).p = th.p := Thread.setQueue_p _ _ _
@[simp] theorem Thread.setHead_p (th : Thread) (q : QName) (e : Entry) : (th.setHead q e).p = th.p := Thread.setQueue_p _ _ _
@[simp] theorem Thread.write_p (th : Thread) (now lat seq : Nat) (q : QName) (ws : List RegW) : (th.write now lat seq q ws).p = th.p := by
  cases ws <;> rfl
@[simp] theorem Thread.setCreg_k (th : Thread) (n : Nat) (v : Word) : (th.setCreg n v).k = th.k := rfl
@[simp] theorem Thread.orFlags_k (th : Thread) (v : Word) : (th.orFlags v).k = th.k := rfl
@[simp] theorem Thread.popHead_k (th : Thread) (q : QName) (n : Nat) : (th.popHead q n).k = th.k := Thread.setQueue_k _ _ _
@[simp] theorem Thread.setHead_k (th : Thread) (q : QName) (e : Entry) : (th.setHead q e).k = th.k := Thread.setQueue_k _ _ _
@[simp] theorem Thread.write_k (th : Thread) (now lat seq : Nat) (q : QName) (ws : List RegW) : (th.write now lat seq q ws).k = th.k := by
  cases ws <;> rfl
@[simp] theorem Thread.setCreg_l (th : Thread) (n : Nat) (v : Word) : (th.setCreg n v).l = th.l := rfl
@[simp] theorem Thread.orFlags_l (th : Thread) (v : Word) : (th.orFlags v).l = th.l := rfl
@[simp] theorem Thread.popHead_l (th : Thread) (q : QName) (n : Nat) : (th.popHead q n).l = th.l := Thread.setQueue_l _ _ _
@[simp] theorem Thread.setHead_l (th : Thread) (q : QName) (e : Entry) : (th.setHead q e).l = th.l := Thread.setQueue_l _ _ _
@[simp] theorem Thread.write_l (th : Thread) (now lat seq : Nat) (q : QName) (ws : List RegW) : (th.write now lat seq q ws).l = th.l := by
  cases ws <;> rfl
@[simp] theorem Thread.setCreg_z (th : Thread) (n : Nat) (v : Word) : (th.setCreg n v).z = th.z := rfl
@[simp] theorem Thread.orFlags_z (th : Thread) (v : Word) : (th.orFlags v).z = th.z := rfl
@[simp] theorem Thread.popHead_z (th : Thread) (q : QName) (n : Nat) : (th.popHead q n).z = th.z := Thread.setQueue_z _ _ _
@[simp] theorem Thread.setHead_z (th : Thread) (q : QName) (e : Entry) : (th.setHead q e).z = th.z := Thread.setQueue_z _ _ _
@[simp] theorem Thread.write_z (th : Thread) (now lat seq : Nat) (q : QName) (ws : List RegW) : (th.write now lat seq q ws).z = th.z := by
  cases ws <;> rfl
@[simp] theorem Thread.setCreg_g (th : Thread) (n : Nat) (v : Word) : (th.setCreg n v).g = th.g := rfl
@[simp] theorem Thread.orFlags_g (th : Thread) (v : Word) : (th.orFlags v).g = th.g := rfl
@[simp] theorem Thread.popHead_g (th : Thread) (q : QName) (n : Nat) : (th.popHead q n).g = th.g := Thread.setQueue_g _ _ _
@[simp] theorem Thread.setHead_g (th : Thread) (q : QName) (e : Entry) : (th.setHead q e).g = th.g := Thread.setQueue_g _ _ _
@[simp] theorem Thread.write_g (th : Thread) (now lat seq : Nat) (q : QName) (ws : List RegW) : (th.write now lat seq q ws).g = th.g := by
  cases ws <;> rfl
@[simp] theorem Thread.setCreg_pins (th : Thread) (n : Nat) (v : Word) : (th.setCreg n v).pins = th.pins := rfl
@[simp] theorem Thread.orFlags_pins (th : Thread) (v : Word) : (th.orFlags v).pins = th.pins := rfl
@[simp] theorem Thread.popHead_pins (th : Thread) (q : QName) (n : Nat) : (th.popHead q n).pins = th.pins := Thread.setQueue_pins _ _ _
@[simp] theorem Thread.setHead_pins (th : Thread) (q : QName) (e : Entry) : (th.setHead q e).pins = th.pins := Thread.setQueue_pins _ _ _
@[simp] theorem Thread.write_pins (th : Thread) (now lat seq : Nat) (q : QName) (ws : List RegW) : (th.write now lat seq q ws).pins = th.pins := by
  cases ws <;> rfl
@[simp] theorem Thread.setCreg_tok (th : Thread) (n : Nat) (v : Word) : (th.setCreg n v).tok = th.tok := rfl
@[simp] theorem Thread.orFlags_tok (th : Thread) (v : Word) : (th.orFlags v).tok = th.tok := rfl
@[simp] theorem Thread.popHead_tok (th : Thread) (q : QName) (n : Nat) : (th.popHead q n).tok = th.tok := Thread.setQueue_tok _ _ _
@[simp] theorem Thread.setHead_tok (th : Thread) (q : QName) (e : Entry) : (th.setHead q e).tok = th.tok := Thread.setQueue_tok _ _ _
@[simp] theorem Thread.write_tok (th : Thread) (now lat seq : Nat) (q : QName) (ws : List RegW) : (th.write now lat seq q ws).tok = th.tok := by
  cases ws <;> rfl
@[simp] theorem Thread.popHead_ctl (th : Thread) (q : QName) (n : Nat) : (th.popHead q n).ctl = th.ctl := Thread.setQueue_ctl _ _ _
@[simp] theorem Thread.setHead_ctl (th : Thread) (q : QName) (e : Entry) : (th.setHead q e).ctl = th.ctl := Thread.setQueue_ctl _ _ _
@[simp] theorem Thread.write_ctl (th : Thread) (now lat seq : Nat) (q : QName) (ws : List RegW) : (th.write now lat seq q ws).ctl = th.ctl := by
  cases ws <;> rfl
@[simp] theorem Thread.setCreg_slots (th : Thread) (n : Nat) (v : Word) : (th.setCreg n v).slots = th.slots := rfl
@[simp] theorem Thread.orFlags_slots (th : Thread) (v : Word) : (th.orFlags v).slots = th.slots := rfl
@[simp] theorem Thread.popHead_slots (th : Thread) (q : QName) (n : Nat) : (th.popHead q n).slots = th.slots := Thread.setQueue_slots _ _ _
@[simp] theorem Thread.setHead_slots (th : Thread) (q : QName) (e : Entry) : (th.setHead q e).slots = th.slots := Thread.setQueue_slots _ _ _
@[simp] theorem Thread.write_slots (th : Thread) (now lat seq : Nat) (q : QName) (ws : List RegW) : (th.write now lat seq q ws).slots = th.slots := by
  cases ws <;> rfl
@[simp] theorem Thread.setCreg_nest (th : Thread) (n : Nat) (v : Word) : (th.setCreg n v).nest = th.nest := rfl
@[simp] theorem Thread.orFlags_nest (th : Thread) (v : Word) : (th.orFlags v).nest = th.nest := rfl
@[simp] theorem Thread.popHead_nest (th : Thread) (q : QName) (n : Nat) : (th.popHead q n).nest = th.nest := Thread.setQueue_nest _ _ _
@[simp] theorem Thread.setHead_nest (th : Thread) (q : QName) (e : Entry) : (th.setHead q e).nest = th.nest := Thread.setQueue_nest _ _ _
@[simp] theorem Thread.write_nest (th : Thread) (now lat seq : Nat) (q : QName) (ws : List RegW) : (th.write now lat seq q ws).nest = th.nest := by
  cases ws <;> rfl
@[simp] theorem Thread.setCreg_pw (th : Thread) (n : Nat) (v : Word) : (th.setCreg n v).pw = th.pw := rfl
@[simp] theorem Thread.orFlags_pw (th : Thread) (v : Word) : (th.orFlags v).pw = th.pw := rfl
@[simp] theorem Thread.popHead_pw (th : Thread) (q : QName) (n : Nat) : (th.popHead q n).pw = th.pw := Thread.setQueue_pw _ _ _
@[simp] theorem Thread.setHead_pw (th : Thread) (q : QName) (e : Entry) : (th.setHead q e).pw = th.pw := Thread.setQueue_pw _ _ _
@[simp] theorem Thread.write_pw (th : Thread) (now lat seq : Nat) (q : QName) (ws : List RegW) : (th.write now lat seq q ws).pw = th.pw := by
  cases ws <;> rfl
@[simp] theorem Thread.setCreg_hdr (th : Thread) (n : Nat) (v : Word) : (th.setCreg n v).hdr = th.hdr := rfl
@[simp] theorem Thread.orFlags_hdr (th : Thread) (v : Word) : (th.orFlags v).hdr = th.hdr := rfl
@[simp] theorem Thread.popHead_hdr (th : Thread) (q : QName) (n : Nat) : (th.popHead q n).hdr = th.hdr := Thread.setQueue_hdr _ _ _
@[simp] theorem Thread.setHead_hdr (th : Thread) (q : QName) (e : Entry) : (th.setHead q e).hdr = th.hdr := Thread.setQueue_hdr _ _ _
@[simp] theorem Thread.write_hdr (th : Thread) (now lat seq : Nat) (q : QName) (ws : List RegW) : (th.write now lat seq q ws).hdr = th.hdr := by
  cases ws <;> rfl
@[simp] theorem Thread.setCreg_winBase (th : Thread) (n : Nat) (v : Word) : (th.setCreg n v).winBase = th.winBase := rfl
@[simp] theorem Thread.orFlags_winBase (th : Thread) (v : Word) : (th.orFlags v).winBase = th.winBase := rfl
@[simp] theorem Thread.popHead_winBase (th : Thread) (q : QName) (n : Nat) : (th.popHead q n).winBase = th.winBase := Thread.setQueue_winBase _ _ _
@[simp] theorem Thread.setHead_winBase (th : Thread) (q : QName) (e : Entry) : (th.setHead q e).winBase = th.winBase := Thread.setQueue_winBase _ _ _
@[simp] theorem Thread.write_winBase (th : Thread) (now lat seq : Nat) (q : QName) (ws : List RegW) : (th.write now lat seq q ws).winBase = th.winBase := by
  cases ws <;> rfl
@[simp] theorem Thread.setCreg_csBase (th : Thread) (n : Nat) (v : Word) : (th.setCreg n v).csBase = th.csBase := rfl
@[simp] theorem Thread.orFlags_csBase (th : Thread) (v : Word) : (th.orFlags v).csBase = th.csBase := rfl
@[simp] theorem Thread.popHead_csBase (th : Thread) (q : QName) (n : Nat) : (th.popHead q n).csBase = th.csBase := Thread.setQueue_csBase _ _ _
@[simp] theorem Thread.setHead_csBase (th : Thread) (q : QName) (e : Entry) : (th.setHead q e).csBase = th.csBase := Thread.setQueue_csBase _ _ _
@[simp] theorem Thread.write_csBase (th : Thread) (now lat seq : Nat) (q : QName) (ws : List RegW) : (th.write now lat seq q ws).csBase = th.csBase := by
  cases ws <;> rfl
@[simp] theorem Thread.setCreg_slate (th : Thread) (n : Nat) (v : Word) : (th.setCreg n v).slate = th.slate := rfl
@[simp] theorem Thread.orFlags_slate (th : Thread) (v : Word) : (th.orFlags v).slate = th.slate := rfl
@[simp] theorem Thread.popHead_slate (th : Thread) (q : QName) (n : Nat) : (th.popHead q n).slate = th.slate := Thread.setQueue_slate _ _ _
@[simp] theorem Thread.setHead_slate (th : Thread) (q : QName) (e : Entry) : (th.setHead q e).slate = th.slate := Thread.setQueue_slate _ _ _
@[simp] theorem Thread.write_slate (th : Thread) (now lat seq : Nat) (q : QName) (ws : List RegW) : (th.write now lat seq q ws).slate = th.slate := by
  cases ws <;> rfl
@[simp] theorem Thread.setCreg_segExp (th : Thread) (n : Nat) (v : Word) : (th.setCreg n v).segExp = th.segExp := rfl
@[simp] theorem Thread.orFlags_segExp (th : Thread) (v : Word) : (th.orFlags v).segExp = th.segExp := rfl
@[simp] theorem Thread.popHead_segExp (th : Thread) (q : QName) (n : Nat) : (th.popHead q n).segExp = th.segExp := Thread.setQueue_segExp _ _ _
@[simp] theorem Thread.setHead_segExp (th : Thread) (q : QName) (e : Entry) : (th.setHead q e).segExp = th.segExp := Thread.setQueue_segExp _ _ _
@[simp] theorem Thread.write_segExp (th : Thread) (now lat seq : Nat) (q : QName) (ws : List RegW) : (th.write now lat seq q ws).segExp = th.segExp := by
  cases ws <;> rfl
@[simp] theorem Thread.setCreg_segLen (th : Thread) (n : Nat) (v : Word) : (th.setCreg n v).segLen = th.segLen := rfl
@[simp] theorem Thread.orFlags_segLen (th : Thread) (v : Word) : (th.orFlags v).segLen = th.segLen := rfl
@[simp] theorem Thread.popHead_segLen (th : Thread) (q : QName) (n : Nat) : (th.popHead q n).segLen = th.segLen := Thread.setQueue_segLen _ _ _
@[simp] theorem Thread.setHead_segLen (th : Thread) (q : QName) (e : Entry) : (th.setHead q e).segLen = th.segLen := Thread.setQueue_segLen _ _ _
@[simp] theorem Thread.write_segLen (th : Thread) (now lat seq : Nat) (q : QName) (ws : List RegW) : (th.write now lat seq q ws).segLen = th.segLen := by
  cases ws <;> rfl
@[simp] theorem Thread.setCreg_mchk (th : Thread) (n : Nat) (v : Word) : (th.setCreg n v).mchk = th.mchk := rfl
@[simp] theorem Thread.orFlags_mchk (th : Thread) (v : Word) : (th.orFlags v).mchk = th.mchk := rfl
@[simp] theorem Thread.popHead_mchk (th : Thread) (q : QName) (n : Nat) : (th.popHead q n).mchk = th.mchk := Thread.setQueue_mchk _ _ _
@[simp] theorem Thread.setHead_mchk (th : Thread) (q : QName) (e : Entry) : (th.setHead q e).mchk = th.mchk := Thread.setQueue_mchk _ _ _
@[simp] theorem Thread.write_mchk (th : Thread) (now lat seq : Nat) (q : QName) (ws : List RegW) : (th.write now lat seq q ws).mchk = th.mchk := by
  cases ws <;> rfl
@[simp] theorem Thread.setCreg_cmds (th : Thread) (n : Nat) (v : Word) : (th.setCreg n v).cmds = th.cmds := rfl
@[simp] theorem Thread.orFlags_cmds (th : Thread) (v : Word) : (th.orFlags v).cmds = th.cmds := rfl
@[simp] theorem Thread.popHead_cmds (th : Thread) (q : QName) (n : Nat) : (th.popHead q n).cmds = th.cmds := Thread.setQueue_cmds _ _ _
@[simp] theorem Thread.setHead_cmds (th : Thread) (q : QName) (e : Entry) : (th.setHead q e).cmds = th.cmds := Thread.setQueue_cmds _ _ _
@[simp] theorem Thread.write_cmds (th : Thread) (now lat seq : Nat) (q : QName) (ws : List RegW) : (th.write now lat seq q ws).cmds = th.cmds := by
  cases ws <;> rfl
@[simp] theorem Thread.setCreg_trapped (th : Thread) (n : Nat) (v : Word) : (th.setCreg n v).trapped = th.trapped := rfl
@[simp] theorem Thread.orFlags_trapped (th : Thread) (v : Word) : (th.orFlags v).trapped = th.trapped := rfl
@[simp] theorem Thread.popHead_trapped (th : Thread) (q : QName) (n : Nat) : (th.popHead q n).trapped = th.trapped := Thread.setQueue_trapped _ _ _
@[simp] theorem Thread.setHead_trapped (th : Thread) (q : QName) (e : Entry) : (th.setHead q e).trapped = th.trapped := Thread.setQueue_trapped _ _ _
@[simp] theorem Thread.write_trapped (th : Thread) (now lat seq : Nat) (q : QName) (ws : List RegW) : (th.write now lat seq q ws).trapped = th.trapped := by
  cases ws <;> rfl
@[simp] theorem Thread.setCreg_removed (th : Thread) (n : Nat) (v : Word) : (th.setCreg n v).removed = th.removed := rfl
@[simp] theorem Thread.orFlags_removed (th : Thread) (v : Word) : (th.orFlags v).removed = th.removed := rfl
@[simp] theorem Thread.popHead_removed (th : Thread) (q : QName) (n : Nat) : (th.popHead q n).removed = th.removed := Thread.setQueue_removed _ _ _
@[simp] theorem Thread.setHead_removed (th : Thread) (q : QName) (e : Entry) : (th.setHead q e).removed = th.removed := Thread.setQueue_removed _ _ _
@[simp] theorem Thread.write_removed (th : Thread) (now lat seq : Nat) (q : QName) (ws : List RegW) : (th.write now lat seq q ws).removed = th.removed := by
  cases ws <;> rfl
@[simp] theorem Thread.setCreg_status (th : Thread) (n : Nat) (v : Word) : (th.setCreg n v).status = th.status := rfl
@[simp] theorem Thread.orFlags_status (th : Thread) (v : Word) : (th.orFlags v).status = th.status := rfl
@[simp] theorem Thread.popHead_status (th : Thread) (q : QName) (n : Nat) : (th.popHead q n).status = th.status := Thread.setQueue_status _ _ _
@[simp] theorem Thread.setHead_status (th : Thread) (q : QName) (e : Entry) : (th.setHead q e).status = th.status := Thread.setQueue_status _ _ _
@[simp] theorem Thread.write_status (th : Thread) (now lat seq : Nat) (q : QName) (ws : List RegW) : (th.write now lat seq q ws).status = th.status := by
  cases ws <;> rfl
@[simp] theorem Thread.setCreg_kind (th : Thread) (n : Nat) (v : Word) : (th.setCreg n v).kind = th.kind := rfl
@[simp] theorem Thread.orFlags_kind (th : Thread) (v : Word) : (th.orFlags v).kind = th.kind := rfl
@[simp] theorem Thread.popHead_kind (th : Thread) (q : QName) (n : Nat) : (th.popHead q n).kind = th.kind := Thread.setQueue_kind _ _ _
@[simp] theorem Thread.setHead_kind (th : Thread) (q : QName) (e : Entry) : (th.setHead q e).kind = th.kind := Thread.setQueue_kind _ _ _
@[simp] theorem Thread.write_kind (th : Thread) (now lat seq : Nat) (q : QName) (ws : List RegW) : (th.write now lat seq q ws).kind = th.kind := by
  cases ws <;> rfl
@[simp] theorem Thread.setCreg_ctx (th : Thread) (n : Nat) (v : Word) : (th.setCreg n v).ctx = th.ctx := rfl
@[simp] theorem Thread.orFlags_ctx (th : Thread) (v : Word) : (th.orFlags v).ctx = th.ctx := rfl
@[simp] theorem Thread.popHead_ctx (th : Thread) (q : QName) (n : Nat) : (th.popHead q n).ctx = th.ctx := Thread.setQueue_ctx _ _ _
@[simp] theorem Thread.setHead_ctx (th : Thread) (q : QName) (e : Entry) : (th.setHead q e).ctx = th.ctx := Thread.setQueue_ctx _ _ _
@[simp] theorem Thread.write_ctx (th : Thread) (now lat seq : Nat) (q : QName) (ws : List RegW) : (th.write now lat seq q ws).ctx = th.ctx := by
  cases ws <;> rfl
@[simp] theorem Thread.setCreg_forCtx (th : Thread) (n : Nat) (v : Word) : (th.setCreg n v).forCtx = th.forCtx := rfl
@[simp] theorem Thread.orFlags_forCtx (th : Thread) (v : Word) : (th.orFlags v).forCtx = th.forCtx := rfl
@[simp] theorem Thread.popHead_forCtx (th : Thread) (q : QName) (n : Nat) : (th.popHead q n).forCtx = th.forCtx := Thread.setQueue_forCtx _ _ _
@[simp] theorem Thread.setHead_forCtx (th : Thread) (q : QName) (e : Entry) : (th.setHead q e).forCtx = th.forCtx := Thread.setQueue_forCtx _ _ _
@[simp] theorem Thread.write_forCtx (th : Thread) (now lat seq : Nat) (q : QName) (ws : List RegW) : (th.write now lat seq q ws).forCtx = th.forCtx := by
  cases ws <;> rfl
@[simp] theorem Thread.setCreg_priv (th : Thread) (n : Nat) (v : Word) : (th.setCreg n v).priv = th.priv := rfl
@[simp] theorem Thread.orFlags_priv (th : Thread) (v : Word) : (th.orFlags v).priv = th.priv := rfl
@[simp] theorem Thread.popHead_priv (th : Thread) (q : QName) (n : Nat) : (th.popHead q n).priv = th.priv := Thread.setQueue_priv _ _ _
@[simp] theorem Thread.setHead_priv (th : Thread) (q : QName) (e : Entry) : (th.setHead q e).priv = th.priv := Thread.setQueue_priv _ _ _
@[simp] theorem Thread.write_priv (th : Thread) (now lat seq : Nat) (q : QName) (ws : List RegW) : (th.write now lat seq q ws).priv = th.priv := by
  cases ws <;> rfl
@[simp] theorem Thread.setCreg_tier (th : Thread) (n : Nat) (v : Word) : (th.setCreg n v).tier = th.tier := rfl
@[simp] theorem Thread.orFlags_tier (th : Thread) (v : Word) : (th.orFlags v).tier = th.tier := rfl
@[simp] theorem Thread.popHead_tier (th : Thread) (q : QName) (n : Nat) : (th.popHead q n).tier = th.tier := Thread.setQueue_tier _ _ _
@[simp] theorem Thread.setHead_tier (th : Thread) (q : QName) (e : Entry) : (th.setHead q e).tier = th.tier := Thread.setQueue_tier _ _ _
@[simp] theorem Thread.write_tier (th : Thread) (now lat seq : Nat) (q : QName) (ws : List RegW) : (th.write now lat seq q ws).tier = th.tier := by
  cases ws <;> rfl
@[simp] theorem Thread.setCreg_job (th : Thread) (n : Nat) (v : Word) : (th.setCreg n v).job = th.job := rfl
@[simp] theorem Thread.orFlags_job (th : Thread) (v : Word) : (th.orFlags v).job = th.job := rfl
@[simp] theorem Thread.popHead_job (th : Thread) (q : QName) (n : Nat) : (th.popHead q n).job = th.job := Thread.setQueue_job _ _ _
@[simp] theorem Thread.setHead_job (th : Thread) (q : QName) (e : Entry) : (th.setHead q e).job = th.job := Thread.setQueue_job _ _ _
@[simp] theorem Thread.write_job (th : Thread) (now lat seq : Nat) (q : QName) (ws : List RegW) : (th.write now lat seq q ws).job = th.job := by
  cases ws <;> rfl
@[simp] theorem Thread.setCreg_spl (th : Thread) (n : Nat) (v : Word) : (th.setCreg n v).spl = th.spl := rfl
@[simp] theorem Thread.orFlags_spl (th : Thread) (v : Word) : (th.orFlags v).spl = th.spl := rfl
@[simp] theorem Thread.popHead_spl (th : Thread) (q : QName) (n : Nat) : (th.popHead q n).spl = th.spl := Thread.setQueue_spl _ _ _
@[simp] theorem Thread.setHead_spl (th : Thread) (q : QName) (e : Entry) : (th.setHead q e).spl = th.spl := Thread.setQueue_spl _ _ _
@[simp] theorem Thread.write_spl (th : Thread) (now lat seq : Nat) (q : QName) (ws : List RegW) : (th.write now lat seq q ws).spl = th.spl := by
  cases ws <;> rfl
@[simp] theorem Thread.setCreg_seq (th : Thread) (n : Nat) (v : Word) : (th.setCreg n v).seq = th.seq := rfl
@[simp] theorem Thread.orFlags_seq (th : Thread) (v : Word) : (th.orFlags v).seq = th.seq := rfl
@[simp] theorem Thread.popHead_seq (th : Thread) (q : QName) (n : Nat) : (th.popHead q n).seq = th.seq := Thread.setQueue_seq _ _ _
@[simp] theorem Thread.setHead_seq (th : Thread) (q : QName) (e : Entry) : (th.setHead q e).seq = th.seq := Thread.setQueue_seq _ _ _
@[simp] theorem Thread.write_seq (th : Thread) (now lat seq : Nat) (q : QName) (ws : List RegW) : (th.write now lat seq q ws).seq = th.seq := by
  cases ws <;> rfl
@[simp] theorem Thread.setCreg_pend (th : Thread) (n : Nat) (v : Word) : (th.setCreg n v).pend = th.pend := rfl
@[simp] theorem Thread.orFlags_pend (th : Thread) (v : Word) : (th.orFlags v).pend = th.pend := rfl
@[simp] theorem Thread.popHead_pend (th : Thread) (q : QName) (n : Nat) : (th.popHead q n).pend = th.pend := Thread.setQueue_pend _ _ _
@[simp] theorem Thread.setHead_pend (th : Thread) (q : QName) (e : Entry) : (th.setHead q e).pend = th.pend := Thread.setQueue_pend _ _ _
@[simp] theorem Thread.setCreg_unobs (th : Thread) (n : Nat) (v : Word) : (th.setCreg n v).unobs = th.unobs := rfl
@[simp] theorem Thread.orFlags_unobs (th : Thread) (v : Word) : (th.orFlags v).unobs = th.unobs := rfl
@[simp] theorem Thread.popHead_unobs (th : Thread) (q : QName) (n : Nat) : (th.popHead q n).unobs = th.unobs := Thread.setQueue_unobs _ _ _
@[simp] theorem Thread.setHead_unobs (th : Thread) (q : QName) (e : Entry) : (th.setHead q e).unobs = th.unobs := Thread.setQueue_unobs _ _ _
@[simp] theorem Thread.write_unobs (th : Thread) (now lat seq : Nat) (q : QName) (ws : List RegW) : (th.write now lat seq q ws).unobs = th.unobs := by
  cases ws <;> rfl
@[simp] theorem Thread.setCreg_sb (th : Thread) (n : Nat) (v : Word) : (th.setCreg n v).sb = th.sb := rfl
@[simp] theorem Thread.orFlags_sb (th : Thread) (v : Word) : (th.orFlags v).sb = th.sb := rfl
@[simp] theorem Thread.popHead_sb (th : Thread) (q : QName) (n : Nat) : (th.popHead q n).sb = th.sb := Thread.setQueue_sb _ _ _
@[simp] theorem Thread.setHead_sb (th : Thread) (q : QName) (e : Entry) : (th.setHead q e).sb = th.sb := Thread.setQueue_sb _ _ _
@[simp] theorem Thread.write_sb (th : Thread) (now lat seq : Nat) (q : QName) (ws : List RegW) : (th.write now lat seq q ws).sb = th.sb := by
  cases ws <;> rfl
@[simp] theorem Thread.setCreg_ops (th : Thread) (n : Nat) (v : Word) : (th.setCreg n v).ops = th.ops := rfl
@[simp] theorem Thread.orFlags_ops (th : Thread) (v : Word) : (th.orFlags v).ops = th.ops := rfl
@[simp] theorem Thread.popHead_ops (th : Thread) (q : QName) (n : Nat) : (th.popHead q n).ops = th.ops := Thread.setQueue_ops _ _ _
@[simp] theorem Thread.setHead_ops (th : Thread) (q : QName) (e : Entry) : (th.setHead q e).ops = th.ops := Thread.setQueue_ops _ _ _
@[simp] theorem Thread.write_ops (th : Thread) (now lat seq : Nat) (q : QName) (ws : List RegW) : (th.write now lat seq q ws).ops = th.ops := by
  cases ws <;> rfl
@[simp] theorem Thread.setCreg_acq (th : Thread) (n : Nat) (v : Word) : (th.setCreg n v).acq = th.acq := rfl
@[simp] theorem Thread.orFlags_acq (th : Thread) (v : Word) : (th.orFlags v).acq = th.acq := rfl
@[simp] theorem Thread.popHead_acq (th : Thread) (q : QName) (n : Nat) : (th.popHead q n).acq = th.acq := Thread.setQueue_acq _ _ _
@[simp] theorem Thread.setHead_acq (th : Thread) (q : QName) (e : Entry) : (th.setHead q e).acq = th.acq := Thread.setQueue_acq _ _ _
@[simp] theorem Thread.write_acq (th : Thread) (now lat seq : Nat) (q : QName) (ws : List RegW) : (th.write now lat seq q ws).acq = th.acq := by
  cases ws <;> rfl
@[simp] theorem Thread.setCreg_fault (th : Thread) (n : Nat) (v : Word) : (th.setCreg n v).fault = th.fault := rfl
@[simp] theorem Thread.orFlags_fault (th : Thread) (v : Word) : (th.orFlags v).fault = th.fault := rfl
@[simp] theorem Thread.popHead_fault (th : Thread) (q : QName) (n : Nat) : (th.popHead q n).fault = th.fault := Thread.setQueue_fault _ _ _
@[simp] theorem Thread.setHead_fault (th : Thread) (q : QName) (e : Entry) : (th.setHead q e).fault = th.fault := Thread.setQueue_fault _ _ _
@[simp] theorem Thread.write_fault (th : Thread) (now lat seq : Nat) (q : QName) (ws : List RegW) : (th.write now lat seq q ws).fault = th.fault := by
  cases ws <;> rfl
@[simp] theorem Thread.setCreg_newFault (th : Thread) (n : Nat) (v : Word) : (th.setCreg n v).newFault = th.newFault := rfl
@[simp] theorem Thread.orFlags_newFault (th : Thread) (v : Word) : (th.orFlags v).newFault = th.newFault := rfl
@[simp] theorem Thread.popHead_newFault (th : Thread) (q : QName) (n : Nat) : (th.popHead q n).newFault = th.newFault := Thread.setQueue_newFault _ _ _
@[simp] theorem Thread.setHead_newFault (th : Thread) (q : QName) (e : Entry) : (th.setHead q e).newFault = th.newFault := Thread.setQueue_newFault _ _ _
@[simp] theorem Thread.write_newFault (th : Thread) (now lat seq : Nat) (q : QName) (ws : List RegW) : (th.write now lat seq q ws).newFault = th.newFault := by
  cases ws <;> rfl
@[simp] theorem Thread.setCreg_more (th : Thread) (n : Nat) (v : Word) : (th.setCreg n v).more = th.more := rfl
@[simp] theorem Thread.orFlags_more (th : Thread) (v : Word) : (th.orFlags v).more = th.more := rfl
@[simp] theorem Thread.popHead_more (th : Thread) (q : QName) (n : Nat) : (th.popHead q n).more = th.more := Thread.setQueue_more _ _ _
@[simp] theorem Thread.setHead_more (th : Thread) (q : QName) (e : Entry) : (th.setHead q e).more = th.more := Thread.setQueue_more _ _ _
@[simp] theorem Thread.write_more (th : Thread) (now lat seq : Nat) (q : QName) (ws : List RegW) : (th.write now lat seq q ws).more = th.more := by
  cases ws <;> rfl
@[simp] theorem Thread.setCreg_detached (th : Thread) (n : Nat) (v : Word) : (th.setCreg n v).detached = th.detached := rfl
@[simp] theorem Thread.orFlags_detached (th : Thread) (v : Word) : (th.orFlags v).detached = th.detached := rfl
@[simp] theorem Thread.popHead_detached (th : Thread) (q : QName) (n : Nat) : (th.popHead q n).detached = th.detached := Thread.setQueue_detached _ _ _
@[simp] theorem Thread.setHead_detached (th : Thread) (q : QName) (e : Entry) : (th.setHead q e).detached = th.detached := Thread.setQueue_detached _ _ _
@[simp] theorem Thread.write_detached (th : Thread) (now lat seq : Nat) (q : QName) (ws : List RegW) : (th.write now lat seq q ws).detached = th.detached := by
  cases ws <;> rfl
@[simp] theorem Thread.setCreg_halted (th : Thread) (n : Nat) (v : Word) : (th.setCreg n v).halted = th.halted := rfl
@[simp] theorem Thread.orFlags_halted (th : Thread) (v : Word) : (th.orFlags v).halted = th.halted := rfl
@[simp] theorem Thread.popHead_halted (th : Thread) (q : QName) (n : Nat) : (th.popHead q n).halted = th.halted := Thread.setQueue_halted _ _ _
@[simp] theorem Thread.setHead_halted (th : Thread) (q : QName) (e : Entry) : (th.setHead q e).halted = th.halted := Thread.setQueue_halted _ _ _
@[simp] theorem Thread.write_halted (th : Thread) (now lat seq : Nat) (q : QName) (ws : List RegW) : (th.write now lat seq q ws).halted = th.halted := by
  cases ws <;> rfl
@[simp] theorem Thread.setCreg_haltCyc (th : Thread) (n : Nat) (v : Word) : (th.setCreg n v).haltCyc = th.haltCyc := rfl
@[simp] theorem Thread.orFlags_haltCyc (th : Thread) (v : Word) : (th.orFlags v).haltCyc = th.haltCyc := rfl
@[simp] theorem Thread.popHead_haltCyc (th : Thread) (q : QName) (n : Nat) : (th.popHead q n).haltCyc = th.haltCyc := Thread.setQueue_haltCyc _ _ _
@[simp] theorem Thread.setHead_haltCyc (th : Thread) (q : QName) (e : Entry) : (th.setHead q e).haltCyc = th.haltCyc := Thread.setQueue_haltCyc _ _ _
@[simp] theorem Thread.write_haltCyc (th : Thread) (now lat seq : Nat) (q : QName) (ws : List RegW) : (th.write now lat seq q ws).haltCyc = th.haltCyc := by
  cases ws <;> rfl
@[simp] theorem Thread.setCreg_slot (th : Thread) (n : Nat) (v : Word) : (th.setCreg n v).slot = th.slot := rfl
@[simp] theorem Thread.orFlags_slot (th : Thread) (v : Word) : (th.orFlags v).slot = th.slot := rfl
@[simp] theorem Thread.popHead_slot (th : Thread) (q : QName) (n : Nat) : (th.popHead q n).slot = th.slot := Thread.setQueue_slot _ _ _
@[simp] theorem Thread.setHead_slot (th : Thread) (q : QName) (e : Entry) : (th.setHead q e).slot = th.slot := Thread.setQueue_slot _ _ _
@[simp] theorem Thread.write_slot (th : Thread) (now lat seq : Nat) (q : QName) (ws : List RegW) : (th.write now lat seq q ws).slot = th.slot := by
  cases ws <;> rfl
@[simp] theorem Thread.setCreg_slotHeld (th : Thread) (n : Nat) (v : Word) : (th.setCreg n v).slotHeld = th.slotHeld := rfl
@[simp] theorem Thread.orFlags_slotHeld (th : Thread) (v : Word) : (th.orFlags v).slotHeld = th.slotHeld := rfl
@[simp] theorem Thread.popHead_slotHeld (th : Thread) (q : QName) (n : Nat) : (th.popHead q n).slotHeld = th.slotHeld := Thread.setQueue_slotHeld _ _ _
@[simp] theorem Thread.setHead_slotHeld (th : Thread) (q : QName) (e : Entry) : (th.setHead q e).slotHeld = th.slotHeld := Thread.setQueue_slotHeld _ _ _
@[simp] theorem Thread.write_slotHeld (th : Thread) (now lat seq : Nat) (q : QName) (ws : List RegW) : (th.write now lat seq q ws).slotHeld = th.slotHeld := by
  cases ws <;> rfl
@[simp] theorem Thread.setCreg_preq (th : Thread) (n : Nat) (v : Word) : (th.setCreg n v).preq = th.preq := rfl
@[simp] theorem Thread.orFlags_preq (th : Thread) (v : Word) : (th.orFlags v).preq = th.preq := rfl
@[simp] theorem Thread.popHead_preq (th : Thread) (q : QName) (n : Nat) : (th.popHead q n).preq = th.preq := Thread.setQueue_preq _ _ _
@[simp] theorem Thread.setHead_preq (th : Thread) (q : QName) (e : Entry) : (th.setHead q e).preq = th.preq := Thread.setQueue_preq _ _ _
@[simp] theorem Thread.write_preq (th : Thread) (now lat seq : Nat) (q : QName) (ws : List RegW) : (th.write now lat seq q ws).preq = th.preq := by
  cases ws <;> rfl
@[simp] theorem Thread.setCreg_drain (th : Thread) (n : Nat) (v : Word) : (th.setCreg n v).drain = th.drain := rfl
@[simp] theorem Thread.orFlags_drain (th : Thread) (v : Word) : (th.orFlags v).drain = th.drain := rfl
@[simp] theorem Thread.popHead_drain (th : Thread) (q : QName) (n : Nat) : (th.popHead q n).drain = th.drain := Thread.setQueue_drain _ _ _
@[simp] theorem Thread.setHead_drain (th : Thread) (q : QName) (e : Entry) : (th.setHead q e).drain = th.drain := Thread.setQueue_drain _ _ _
@[simp] theorem Thread.write_drain (th : Thread) (now lat seq : Nat) (q : QName) (ws : List RegW) : (th.write now lat seq q ws).drain = th.drain := by
  cases ws <;> rfl
@[simp] theorem Thread.setCreg_drainE (th : Thread) (n : Nat) (v : Word) : (th.setCreg n v).drainE = th.drainE := rfl
@[simp] theorem Thread.orFlags_drainE (th : Thread) (v : Word) : (th.orFlags v).drainE = th.drainE := rfl
@[simp] theorem Thread.popHead_drainE (th : Thread) (q : QName) (n : Nat) : (th.popHead q n).drainE = th.drainE := Thread.setQueue_drainE _ _ _
@[simp] theorem Thread.setHead_drainE (th : Thread) (q : QName) (e : Entry) : (th.setHead q e).drainE = th.drainE := Thread.setQueue_drainE _ _ _
@[simp] theorem Thread.write_drainE (th : Thread) (now lat seq : Nat) (q : QName) (ws : List RegW) : (th.write now lat seq q ws).drainE = th.drainE := by
  cases ws <;> rfl
@[simp] theorem Thread.setCreg_rel (th : Thread) (n : Nat) (v : Word) : (th.setCreg n v).rel = th.rel := rfl
@[simp] theorem Thread.orFlags_rel (th : Thread) (v : Word) : (th.orFlags v).rel = th.rel := rfl
@[simp] theorem Thread.popHead_rel (th : Thread) (q : QName) (n : Nat) : (th.popHead q n).rel = th.rel := Thread.setQueue_rel _ _ _
@[simp] theorem Thread.setHead_rel (th : Thread) (q : QName) (e : Entry) : (th.setHead q e).rel = th.rel := Thread.setQueue_rel _ _ _
@[simp] theorem Thread.write_rel (th : Thread) (now lat seq : Nat) (q : QName) (ws : List RegW) : (th.write now lat seq q ws).rel = th.rel := by
  cases ws <;> rfl
@[simp] theorem Thread.setCreg_launched (th : Thread) (n : Nat) (v : Word) : (th.setCreg n v).launched = th.launched := rfl
@[simp] theorem Thread.orFlags_launched (th : Thread) (v : Word) : (th.orFlags v).launched = th.launched := rfl
@[simp] theorem Thread.popHead_launched (th : Thread) (q : QName) (n : Nat) : (th.popHead q n).launched = th.launched := Thread.setQueue_launched _ _ _
@[simp] theorem Thread.setHead_launched (th : Thread) (q : QName) (e : Entry) : (th.setHead q e).launched = th.launched := Thread.setQueue_launched _ _ _
@[simp] theorem Thread.write_launched (th : Thread) (now lat seq : Nat) (q : QName) (ws : List RegW) : (th.write now lat seq q ws).launched = th.launched := by
  cases ws <;> rfl
@[simp] theorem Thread.setCreg_uncorr (th : Thread) (n : Nat) (v : Word) : (th.setCreg n v).uncorr = th.uncorr := rfl
@[simp] theorem Thread.orFlags_uncorr (th : Thread) (v : Word) : (th.orFlags v).uncorr = th.uncorr := rfl
@[simp] theorem Thread.popHead_uncorr (th : Thread) (q : QName) (n : Nat) : (th.popHead q n).uncorr = th.uncorr := Thread.setQueue_uncorr _ _ _
@[simp] theorem Thread.setHead_uncorr (th : Thread) (q : QName) (e : Entry) : (th.setHead q e).uncorr = th.uncorr := Thread.setQueue_uncorr _ _ _
@[simp] theorem Thread.write_uncorr (th : Thread) (now lat seq : Nat) (q : QName) (ws : List RegW) : (th.write now lat seq q ws).uncorr = th.uncorr := by
  cases ws <;> rfl
@[simp] theorem Thread.setCreg_kvRestart (th : Thread) (n : Nat) (v : Word) : (th.setCreg n v).kvRestart = th.kvRestart := rfl
@[simp] theorem Thread.orFlags_kvRestart (th : Thread) (v : Word) : (th.orFlags v).kvRestart = th.kvRestart := rfl
@[simp] theorem Thread.popHead_kvRestart (th : Thread) (q : QName) (n : Nat) : (th.popHead q n).kvRestart = th.kvRestart := Thread.setQueue_kvRestart _ _ _
@[simp] theorem Thread.setHead_kvRestart (th : Thread) (q : QName) (e : Entry) : (th.setHead q e).kvRestart = th.kvRestart := Thread.setQueue_kvRestart _ _ _
@[simp] theorem Thread.write_kvRestart (th : Thread) (now lat seq : Nat) (q : QName) (ws : List RegW) : (th.write now lat seq q ws).kvRestart = th.kvRestart := by
  cases ws <;> rfl
@[simp] theorem Thread.setCreg_notBefore (th : Thread) (n : Nat) (v : Word) : (th.setCreg n v).notBefore = th.notBefore := rfl
@[simp] theorem Thread.orFlags_notBefore (th : Thread) (v : Word) : (th.orFlags v).notBefore = th.notBefore := rfl
@[simp] theorem Thread.popHead_notBefore (th : Thread) (q : QName) (n : Nat) : (th.popHead q n).notBefore = th.notBefore := Thread.setQueue_notBefore _ _ _
@[simp] theorem Thread.setHead_notBefore (th : Thread) (q : QName) (e : Entry) : (th.setHead q e).notBefore = th.notBefore := Thread.setQueue_notBefore _ _ _
@[simp] theorem Thread.write_notBefore (th : Thread) (now lat seq : Nat) (q : QName) (ws : List RegW) : (th.write now lat seq q ws).notBefore = th.notBefore := by
  cases ws <;> rfl
@[simp] theorem Thread.setCreg_soft (th : Thread) (n : Nat) (v : Word) : (th.setCreg n v).soft = th.soft := rfl
@[simp] theorem Thread.orFlags_soft (th : Thread) (v : Word) : (th.orFlags v).soft = th.soft := rfl
@[simp] theorem Thread.popHead_soft (th : Thread) (q : QName) (n : Nat) : (th.popHead q n).soft = th.soft := Thread.setQueue_soft _ _ _
@[simp] theorem Thread.setHead_soft (th : Thread) (q : QName) (e : Entry) : (th.setHead q e).soft = th.soft := Thread.setQueue_soft _ _ _
@[simp] theorem Thread.write_soft (th : Thread) (now lat seq : Nat) (q : QName) (ws : List RegW) : (th.write now lat seq q ws).soft = th.soft := by
  cases ws <;> rfl
@[simp] theorem Thread.setCreg_vatAt (th : Thread) (n : Nat) (v : Word) : (th.setCreg n v).vatAt = th.vatAt := rfl
@[simp] theorem Thread.orFlags_vatAt (th : Thread) (v : Word) : (th.orFlags v).vatAt = th.vatAt := rfl
@[simp] theorem Thread.popHead_vatAt (th : Thread) (q : QName) (n : Nat) : (th.popHead q n).vatAt = th.vatAt := Thread.setQueue_vatAt _ _ _
@[simp] theorem Thread.setHead_vatAt (th : Thread) (q : QName) (e : Entry) : (th.setHead q e).vatAt = th.vatAt := Thread.setQueue_vatAt _ _ _
@[simp] theorem Thread.write_vatAt (th : Thread) (now lat seq : Nat) (q : QName) (ws : List RegW) : (th.write now lat seq q ws).vatAt = th.vatAt := by
  cases ws <;> rfl
@[simp] theorem Thread.setCreg_saveRec (th : Thread) (n : Nat) (v : Word) : (th.setCreg n v).saveRec = th.saveRec := rfl
@[simp] theorem Thread.orFlags_saveRec (th : Thread) (v : Word) : (th.orFlags v).saveRec = th.saveRec := rfl
@[simp] theorem Thread.popHead_saveRec (th : Thread) (q : QName) (n : Nat) : (th.popHead q n).saveRec = th.saveRec := Thread.setQueue_saveRec _ _ _
@[simp] theorem Thread.setHead_saveRec (th : Thread) (q : QName) (e : Entry) : (th.setHead q e).saveRec = th.saveRec := Thread.setQueue_saveRec _ _ _
@[simp] theorem Thread.write_saveRec (th : Thread) (now lat seq : Nat) (q : QName) (ws : List RegW) : (th.write now lat seq q ws).saveRec = th.saveRec := by
  cases ws <;> rfl
@[simp] theorem Thread.setCreg_saveAt (th : Thread) (n : Nat) (v : Word) : (th.setCreg n v).saveAt = th.saveAt := rfl
@[simp] theorem Thread.orFlags_saveAt (th : Thread) (v : Word) : (th.orFlags v).saveAt = th.saveAt := rfl
@[simp] theorem Thread.popHead_saveAt (th : Thread) (q : QName) (n : Nat) : (th.popHead q n).saveAt = th.saveAt := Thread.setQueue_saveAt _ _ _
@[simp] theorem Thread.setHead_saveAt (th : Thread) (q : QName) (e : Entry) : (th.setHead q e).saveAt = th.saveAt := Thread.setQueue_saveAt _ _ _
@[simp] theorem Thread.write_saveAt (th : Thread) (now lat seq : Nat) (q : QName) (ws : List RegW) : (th.write now lat seq q ws).saveAt = th.saveAt := by
  cases ws <;> rfl
@[simp] theorem Thread.setCreg_needHandler (th : Thread) (n : Nat) (v : Word) : (th.setCreg n v).needHandler = th.needHandler := rfl
@[simp] theorem Thread.orFlags_needHandler (th : Thread) (v : Word) : (th.orFlags v).needHandler = th.needHandler := rfl
@[simp] theorem Thread.popHead_needHandler (th : Thread) (q : QName) (n : Nat) : (th.popHead q n).needHandler = th.needHandler := Thread.setQueue_needHandler _ _ _
@[simp] theorem Thread.setHead_needHandler (th : Thread) (q : QName) (e : Entry) : (th.setHead q e).needHandler = th.needHandler := Thread.setQueue_needHandler _ _ _
@[simp] theorem Thread.write_needHandler (th : Thread) (now lat seq : Nat) (q : QName) (ws : List RegW) : (th.write now lat seq q ws).needHandler = th.needHandler := by
  cases ws <;> rfl
@[simp] theorem Thread.queue_setCreg (th : Thread) (n : Nat) (v : Word) (q : QName) : (th.setCreg n v).queue q = th.queue q := by cases q <;> rfl
@[simp] theorem Thread.queue_orFlags (th : Thread) (v : Word) (q : QName) : (th.orFlags v).queue q = th.queue q := by cases q <;> rfl
@[simp] theorem Thread.queue_write (th : Thread) (now lat seq : Nat) (q : QName) (ws : List RegW) (r : QName) :
    (th.write now lat seq q ws).queue r = th.queue r := by
  cases ws <;> cases r <;> rfl
@[simp] theorem Thread.queue_popHead (th : Thread) (q : QName) (n : Nat) :
    (th.popHead q n).queue q = { th.queue q with es := (th.queue q).es.tail, ready := n } := Thread.queue_setQueue _ _ _
@[simp] theorem Thread.queue_setHead (th : Thread) (q : QName) (e : Entry) :
    (th.setHead q e).queue q = { th.queue q with es := e :: (th.queue q).es.tail } := Thread.queue_setQueue _ _ _
@[simp] theorem Thread.head_setHead (th : Thread) (q : QName) (e : Entry) : (th.setHead q e).head q = some e := by
  simp [Thread.head]

/-- Flags set in two steps are set together. -/
@[simp] theorem Thread.orFlags_orFlags (th : Thread) (a b : Word) : (th.orFlags a).orFlags b = th.orFlags (a ||| b) := by
  simp [Thread.orFlags, Thread.setCreg, Thread.creg, BitVec.or_assoc]

end Sys2Proof.Machine
end

