-- ==== Sys2Proof/Laws/Home.lean ====
section
/-! SUPPORT. What a write at a home slice can change: module memory and the stations' records, nothing else; and that it keeps
the canonical form of memory. -/

namespace Sys2Proof.Machine

/-- Everything but module memory and the stations stays. -/
structure State.HomeOnly (s t : State) : Prop where
  eq : t = { s with mem := t.mem, stations := t.stations }

theorem State.HomeOnly.refl (s : State) : s.HomeOnly s := ⟨rfl⟩

theorem State.HomeOnly.trans {s t u : State} (h : s.HomeOnly t) (h' : t.HomeOnly u) : s.HomeOnly u := by
  constructor
  have h := h.eq
  have h' := h'.eq
  rw [h] at h'
  exact h'

theorem State.homeOnly_modStation (s : State) (st : Nat) (f : Station → Station) : s.HomeOnly (s.modStation st f) := ⟨rfl⟩

theorem State.homeOnly_homeSet (s : State) (pa : Nat) (v : Byte) : s.HomeOnly (s.homeSet pa v) := by
  unfold State.homeSet
  simp only
  split
  · exact State.homeOnly_modStation _ _ _
  · exact ⟨rfl⟩

theorem State.homeOnly_homeSetEach (l : List (Nat × Byte)) (s : State) : s.HomeOnly (s.homeSetEach l) := by
  induction l generalizing s with
  | nil => exact .refl s
  | cons x rest ih => obtain ⟨a, v⟩ := x; exact (s.homeOnly_homeSet a v).trans (ih _)

theorem State.homeOnly_clearMarks (s : State) (st : Nat) (bs : List (Nat × Byte)) : s.HomeOnly (s.clearMarks st bs) := by
  unfold State.clearMarks
  split
  · exact .refl s
  · exact State.homeOnly_modStation _ _ _

theorem State.homeOnly_mirror (s : State) (st : Nat) (bs : List (Nat × Byte)) : s.HomeOnly (s.mirror st bs) := by
  unfold State.mirror
  simp only
  split
  · exact .refl s
  · split
    · exact .refl s
    · exact State.homeOnly_modStation _ _ _

theorem State.homeOnly_homeSetAll (s : State) (bs : List (Nat × Byte)) : s.HomeOnly (s.homeSetAll bs) := by
  unfold State.homeSetAll
  split
  · exact .refl s
  · simp only
    split
    · exact ((State.homeOnly_homeSetEach _ _).trans (State.homeOnly_clearMarks _ _ _)).trans (State.homeOnly_mirror _ _ _)
    · exact State.homeOnly_homeSetEach _ _

theorem State.homeOnly_homePut (s : State) (pa : Nat) (bs : List Byte) : s.HomeOnly (s.homePut pa bs) :=
  State.homeOnly_homeSetAll _ _

theorem State.homeOnly_homePutN (s : State) (pa n v : Nat) : s.HomeOnly (s.homePutN pa n v) := State.homeOnly_homePut _ _ _

theorem State.HomeOnly.threads {s t : State} (h : s.HomeOnly t) : t.threads = s.threads := by rw [h.eq]
theorem State.HomeOnly.thread {s t : State} (h : s.HomeOnly t) (u : Tid) : t.thread u = s.thread u := by
  rw [State.thread, h.threads]; rfl
theorem State.HomeOnly.cores {s t : State} (h : s.HomeOnly t) : t.cores = s.cores := by rw [h.eq]
theorem State.HomeOnly.cyc {s t : State} (h : s.HomeOnly t) : t.cyc = s.cyc := by rw [h.eq]
theorem State.HomeOnly.cur {s t : State} (h : s.HomeOnly t) : t.cur = s.cur := by rw [h.eq]
theorem State.HomeOnly.agenda {s t : State} (h : s.HomeOnly t) : t.agenda = s.agenda := by rw [h.eq]

@[simp] theorem State.homeSetAll_cyc (s : State) (bs : List (Nat × Byte)) : (s.homeSetAll bs).cyc = s.cyc := by
  rw [(s.homeOnly_homeSetAll bs).eq]
@[simp] theorem State.homeSetAll_tb (s : State) (bs : List (Nat × Byte)) : (s.homeSetAll bs).tb = s.tb := by
  rw [(s.homeOnly_homeSetAll bs).eq]
@[simp] theorem State.homeSetAll_threads (s : State) (bs : List (Nat × Byte)) : (s.homeSetAll bs).threads = s.threads := by
  rw [(s.homeOnly_homeSetAll bs).eq]
@[simp] theorem State.homeSetAll_cores (s : State) (bs : List (Nat × Byte)) : (s.homeSetAll bs).cores = s.cores := by
  rw [(s.homeOnly_homeSetAll bs).eq]
@[simp] theorem State.homeSetAll_cur (s : State) (bs : List (Nat × Byte)) : (s.homeSetAll bs).cur = s.cur := by
  rw [(s.homeOnly_homeSetAll bs).eq]
@[simp] theorem State.homeSetAll_agenda (s : State) (bs : List (Nat × Byte)) : (s.homeSetAll bs).agenda = s.agenda := by
  rw [(s.homeOnly_homeSetAll bs).eq]
@[simp] theorem State.homeSetAll_inputs (s : State) (bs : List (Nat × Byte)) : (s.homeSetAll bs).inputs = s.inputs := by
  rw [(s.homeOnly_homeSetAll bs).eq]
@[simp] theorem State.homeSetAll_cbw (s : State) (bs : List (Nat × Byte)) : (s.homeSetAll bs).cbw = s.cbw := by
  rw [(s.homeOnly_homeSetAll bs).eq]
@[simp] theorem State.homeSetAll_pcb (s : State) (bs : List (Nat × Byte)) : (s.homeSetAll bs).pcb = s.pcb := by
  rw [(s.homeOnly_homeSetAll bs).eq]
@[simp] theorem State.homeSetAll_modnum (s : State) (bs : List (Nat × Byte)) : (s.homeSetAll bs).modnum = s.modnum := by
  rw [(s.homeOnly_homeSetAll bs).eq]
@[simp] theorem State.homeSetAll_present (s : State) (bs : List (Nat × Byte)) : (s.homeSetAll bs).present = s.present := by
  rw [(s.homeOnly_homeSetAll bs).eq]
@[simp] theorem State.homeSetAll_freeCtr (s : State) (bs : List (Nat × Byte)) : (s.homeSetAll bs).freeCtr = s.freeCtr := by
  rw [(s.homeOnly_homeSetAll bs).eq]
@[simp] theorem State.homeSetAll_nextId (s : State) (bs : List (Nat × Byte)) : (s.homeSetAll bs).nextId = s.nextId := by
  rw [(s.homeOnly_homeSetAll bs).eq]
@[simp] theorem State.thread_homeSetAll (s : State) (bs : List (Nat × Byte)) (t : Tid) : (s.homeSetAll bs).thread t = s.thread t :=
  (s.homeOnly_homeSetAll bs).thread t
@[simp] theorem State.core_homeSetAll (s : State) (bs : List (Nat × Byte)) (st co : Nat) : (s.homeSetAll bs).core st co = s.core st co := by
  simp [State.core]
@[simp] theorem State.homePut_cyc (s : State) (pa : Nat) (bs : List Byte) : (s.homePut pa bs).cyc = s.cyc := by
  rw [(s.homeOnly_homePut pa bs).eq]
@[simp] theorem State.homePut_tb (s : State) (pa : Nat) (bs : List Byte) : (s.homePut pa bs).tb = s.tb := by
  rw [(s.homeOnly_homePut pa bs).eq]
@[simp] theorem State.homePut_threads (s : State) (pa : Nat) (bs : List Byte) : (s.homePut pa bs).threads = s.threads := by
  rw [(s.homeOnly_homePut pa bs).eq]
@[simp] theorem State.homePut_cores (s : State) (pa : Nat) (bs : List Byte) : (s.homePut pa bs).cores = s.cores := by
  rw [(s.homeOnly_homePut pa bs).eq]
@[simp] theorem State.homePut_cur (s : State) (pa : Nat) (bs : List Byte) : (s.homePut pa bs).cur = s.cur := by
  rw [(s.homeOnly_homePut pa bs).eq]
@[simp] theorem State.homePut_agenda (s : State) (pa : Nat) (bs : List Byte) : (s.homePut pa bs).agenda = s.agenda := by
  rw [(s.homeOnly_homePut pa bs).eq]
@[simp] theorem State.homePut_inputs (s : State) (pa : Nat) (bs : List Byte) : (s.homePut pa bs).inputs = s.inputs := by
  rw [(s.homeOnly_homePut pa bs).eq]
@[simp] theorem State.homePut_cbw (s : State) (pa : Nat) (bs : List Byte) : (s.homePut pa bs).cbw = s.cbw := by
  rw [(s.homeOnly_homePut pa bs).eq]
@[simp] theorem State.homePut_pcb (s : State) (pa : Nat) (bs : List Byte) : (s.homePut pa bs).pcb = s.pcb := by
  rw [(s.homeOnly_homePut pa bs).eq]
@[simp] theorem State.homePut_modnum (s : State) (pa : Nat) (bs : List Byte) : (s.homePut pa bs).modnum = s.modnum := by
  rw [(s.homeOnly_homePut pa bs).eq]
@[simp] theorem State.homePut_present (s : State) (pa : Nat) (bs : List Byte) : (s.homePut pa bs).present = s.present := by
  rw [(s.homeOnly_homePut pa bs).eq]
@[simp] theorem State.homePut_freeCtr (s : State) (pa : Nat) (bs : List Byte) : (s.homePut pa bs).freeCtr = s.freeCtr := by
  rw [(s.homeOnly_homePut pa bs).eq]
@[simp] theorem State.homePut_nextId (s : State) (pa : Nat) (bs : List Byte) : (s.homePut pa bs).nextId = s.nextId := by
  rw [(s.homeOnly_homePut pa bs).eq]
@[simp] theorem State.thread_homePut (s : State) (pa : Nat) (bs : List Byte) (t : Tid) : (s.homePut pa bs).thread t = s.thread t :=
  (s.homeOnly_homePut pa bs).thread t
@[simp] theorem State.core_homePut (s : State) (pa : Nat) (bs : List Byte) (st co : Nat) : (s.homePut pa bs).core st co = s.core st co := by
  simp [State.core]
@[simp] theorem State.homePutN_cyc (s : State) (pa n v : Nat) : (s.homePutN pa n v).cyc = s.cyc := by
  rw [(s.homeOnly_homePutN pa n v).eq]
@[simp] theorem State.homePutN_tb (s : State) (pa n v : Nat) : (s.homePutN pa n v).tb = s.tb := by
  rw [(s.homeOnly_homePutN pa n v).eq]
@[simp] theorem State.homePutN_threads (s : State) (pa n v : Nat) : (s.homePutN pa n v).threads = s.threads := by
  rw [(s.homeOnly_homePutN pa n v).eq]
@[simp] theorem State.homePutN_cores (s : State) (pa n v : Nat) : (s.homePutN pa n v).cores = s.cores := by
  rw [(s.homeOnly_homePutN pa n v).eq]
@[simp] theorem State.homePutN_cur (s : State) (pa n v : Nat) : (s.homePutN pa n v).cur = s.cur := by
  rw [(s.homeOnly_homePutN pa n v).eq]
@[simp] theorem State.homePutN_agenda (s : State) (pa n v : Nat) : (s.homePutN pa n v).agenda = s.agenda := by
  rw [(s.homeOnly_homePutN pa n v).eq]
@[simp] theorem State.homePutN_inputs (s : State) (pa n v : Nat) : (s.homePutN pa n v).inputs = s.inputs := by
  rw [(s.homeOnly_homePutN pa n v).eq]
@[simp] theorem State.homePutN_cbw (s : State) (pa n v : Nat) : (s.homePutN pa n v).cbw = s.cbw := by
  rw [(s.homeOnly_homePutN pa n v).eq]
@[simp] theorem State.homePutN_pcb (s : State) (pa n v : Nat) : (s.homePutN pa n v).pcb = s.pcb := by
  rw [(s.homeOnly_homePutN pa n v).eq]
@[simp] theorem State.homePutN_modnum (s : State) (pa n v : Nat) : (s.homePutN pa n v).modnum = s.modnum := by
  rw [(s.homeOnly_homePutN pa n v).eq]
@[simp] theorem State.homePutN_present (s : State) (pa n v : Nat) : (s.homePutN pa n v).present = s.present := by
  rw [(s.homeOnly_homePutN pa n v).eq]
@[simp] theorem State.homePutN_freeCtr (s : State) (pa n v : Nat) : (s.homePutN pa n v).freeCtr = s.freeCtr := by
  rw [(s.homeOnly_homePutN pa n v).eq]
@[simp] theorem State.homePutN_nextId (s : State) (pa n v : Nat) : (s.homePutN pa n v).nextId = s.nextId := by
  rw [(s.homeOnly_homePutN pa n v).eq]
@[simp] theorem State.thread_homePutN (s : State) (pa n v : Nat) (t : Tid) : (s.homePutN pa n v).thread t = s.thread t :=
  (s.homeOnly_homePutN pa n v).thread t
@[simp] theorem State.core_homePutN (s : State) (pa n v : Nat) (st co : Nat) : (s.homePutN pa n v).core st co = s.core st co := by
  simp [State.core]
@[simp] theorem State.setRecState_cyc (s : State) (st c n v : Nat) : (s.setRecState st c n v).cyc = s.cyc := by
  simp [State.setRecState]
@[simp] theorem State.setRecState_tb (s : State) (st c n v : Nat) : (s.setRecState st c n v).tb = s.tb := by
  simp [State.setRecState]
@[simp] theorem State.setRecState_cores (s : State) (st c n v : Nat) : (s.setRecState st c n v).cores = s.cores := by
  simp [State.setRecState]
@[simp] theorem State.setRecState_cur (s : State) (st c n v : Nat) : (s.setRecState st c n v).cur = s.cur := by
  simp [State.setRecState]
@[simp] theorem State.setRecState_agenda (s : State) (st c n v : Nat) : (s.setRecState st c n v).agenda = s.agenda := by
  simp [State.setRecState]
@[simp] theorem State.thread_setRecState (s : State) (st c n v : Nat) (t : Tid) : (s.setRecState st c n v).thread t = s.thread t := by
  simp [State.setRecState]

theorem State.cb_homeSet (s : State) (pa : Nat) (v : Byte) (st off : Nat) : (s.homeSet pa v).cb st off = s.cb st off := by
  unfold State.homeSet
  simp only
  split
  · exact State.cb_modStation _ _ _ (by intro _; rfl) _ _
  · rfl

theorem State.cb_homeSetEach (l : List (Nat × Byte)) (s : State) (st off : Nat) : (s.homeSetEach l).cb st off = s.cb st off := by
  induction l generalizing s with
  | nil => rfl
  | cons x rest ih => obtain ⟨a, v⟩ := x; exact (ih _).trans (State.cb_homeSet _ _ _ _ _)

theorem State.cb_clearMarks (s : State) (st : Nat) (bs : List (Nat × Byte)) (st' off : Nat) : (s.clearMarks st bs).cb st' off = s.cb st' off := by
  unfold State.clearMarks
  split
  · rfl
  · exact State.cb_modStation _ _ _ (by intro _; rfl) _ _

theorem State.cb_mirror (s : State) (st : Nat) (bs : List (Nat × Byte)) (st' off : Nat) : (s.mirror st bs).cb st' off = s.cb st' off := by
  unfold State.mirror
  simp only
  split
  · rfl
  · split
    · rfl
    · exact State.cb_modStation _ _ _ (by intro _; rfl) _ _

@[simp] theorem State.cb_homeSetAll (s : State) (bs : List (Nat × Byte)) (st off : Nat) : (s.homeSetAll bs).cb st off = s.cb st off := by
  unfold State.homeSetAll
  split
  · rfl
  · simp only
    split
    · rw [State.cb_mirror, State.cb_clearMarks, State.cb_homeSetEach]
    · exact State.cb_homeSetEach _ _ _ _

@[simp] theorem State.cb_homePut (s : State) (pa : Nat) (bs : List Byte) (st off : Nat) : (s.homePut pa bs).cb st off = s.cb st off :=
  State.cb_homeSetAll _ _ _ _

@[simp] theorem State.cb_homePutN (s : State) (pa n v : Nat) (st off : Nat) : (s.homePutN pa n v).cb st off = s.cb st off :=
  State.cb_homePut _ _ _ _ _

/-- Answering a request leaves the thread without one and changes nothing else of it. -/
theorem State.thread_answer (s : State) (t : Tid) (keep : Bool) : (s.answer t keep).thread t = { s.thread t with preq := none } := by
  unfold State.answer
  cases h : (s.thread t).preq with
  | none => simp [h.symm]
  | some r => simp only; split <;> simp

theorem State.cores_answer (s : State) (t : Tid) (keep : Bool) : (s.answer t keep).cores = s.cores := by
  unfold State.answer
  cases h : (s.thread t).preq with
  | none => rfl
  | some r => simp only; split <;> simp

/-! Memory's canonical form. -/

theorem State.memWf_homeSet (s : State) (pa : Nat) (v : Byte) (h : Memory.wf s.mem = true) : Memory.wf (s.homeSet pa v).mem = true := by
  unfold State.homeSet
  simp only
  split
  · exact h
  · exact Memory.wf_set _ _ _ h

theorem State.memWf_homeSetEach (l : List (Nat × Byte)) (s : State) (h : Memory.wf s.mem = true) :
    Memory.wf (s.homeSetEach l).mem = true := by
  induction l generalizing s with
  | nil => exact h
  | cons x rest ih => obtain ⟨a, v⟩ := x; exact ih _ (State.memWf_homeSet s a v h)

@[simp] theorem State.mem_clearMarks (s : State) (st : Nat) (bs : List (Nat × Byte)) : (s.clearMarks st bs).mem = s.mem := by
  unfold State.clearMarks; split <;> rfl

@[simp] theorem State.mem_mirror (s : State) (st : Nat) (bs : List (Nat × Byte)) : (s.mirror st bs).mem = s.mem := by
  unfold State.mirror; simp only; split
  · rfl
  · split <;> rfl

/-- Every write at a home slice keeps memory's canonical form. -/
theorem State.memWf_homeSetAll (s : State) (bs : List (Nat × Byte)) (h : Memory.wf s.mem = true) :
    Memory.wf (s.homeSetAll bs).mem = true := by
  unfold State.homeSetAll
  split
  · exact h
  · simp only
    split
    · simp only [State.mem_mirror, State.mem_clearMarks]; exact State.memWf_homeSetEach _ _ h
    · exact State.memWf_homeSetEach _ _ h

theorem State.memWf_homePut (s : State) (pa : Nat) (bs : List Byte) (h : Memory.wf s.mem = true) :
    Memory.wf (s.homePut pa bs).mem = true := State.memWf_homeSetAll _ _ h

theorem State.memWf_homePutN (s : State) (pa n v : Nat) (h : Memory.wf s.mem = true) :
    Memory.wf (s.homePutN pa n v).mem = true := State.memWf_homePut _ _ _ h

theorem State.find_map_same {α : Type} (p : α → Bool) (f : α → α) (h : ∀ x, p (f x) = p x) (l : List α) : (l.map f).find? p = (l.find? p).map f := by
  induction l with
  | nil => rfl
  | cons x l ih => simp only [List.map_cons, List.find?_cons, h, ih]; cases p x <;> rfl

theorem State.homeByte_homeSet (s : State) (pa a : Nat) (v : Byte) (hq : ∀ n, ∀ q ∈ (s.station n).qres, q.bytes.length = 64) : (s.homeSet pa v).homeByte a = if a = pa then v else s.homeByte a := by
  simp only [State.homeSet]
  by_cases hany : ((s.station (paStation pa)).qres.any fun q => decide (q.pa ≤ pa) && decide (pa < q.pa + 64)) = true
  · rw [if_pos hany]
    simp only [State.homeByte]
    by_cases hst : paStation a = paStation pa
    · rw [hst]
      simp only [State.modStation, State.station, State.setStation, Tab.get_set_same]
      rw [State.find_map_same]
      swap
      · intro x; split <;> rfl
      cases hf : List.find? (fun q => decide (q.pa ≤ a) && decide (a < q.pa + 64)) (s.stations.get (paStation pa)).qres with
      | none =>
        simp only [Option.map_none]
        rw [if_neg]
        rintro rfl
        rw [List.find?_eq_none] at hf
        rw [List.any_eq_true] at hany
        obtain ⟨q, hq1, hq2⟩ := hany
        exact hf q hq1 hq2
      | some q =>
        simp only [Option.map_some]
        have h1 := List.find?_some hf
        have h2 := List.mem_of_find?_eq_some hf
        simp only [Bool.and_eq_true, decide_eq_true_eq] at h1
        have hl : q.bytes.length = 64 := hq _ q h2
        by_cases hap : a = pa
        · subst hap
          rw [if_pos h1, if_pos rfl]
          simp [List.getD_eq_getElem?_getD]
          rw [List.getElem?_set_self (by omega)]; rfl
        · rw [if_neg hap]
          split
          · simp only [List.getD_eq_getElem?_getD]
            rw [List.getElem?_set_ne (by omega)]
          · rfl
    · simp only [State.modStation, State.station, State.setStation]
      rw [Tab.get_set_other _ _ _ _ hst, if_neg (by rintro rfl; exact hst rfl)]
  · rw [if_neg hany]
    simp only [State.homeByte]
    show (match List.find? _ (s.station (paStation a)).qres with | some q => q.bytes.getD (a - q.pa) 0 | none => Cells.get (s.mem.set pa v) a) = _
    by_cases hap : a = pa
    · subst hap
      rw [if_pos rfl]
      cases hf : List.find? (fun q => decide (q.pa ≤ a) && decide (a < q.pa + 64)) (s.station (paStation a)).qres with
      | none => simp
      | some q =>
        exfalso; apply hany
        rw [List.any_eq_true]
        exact ⟨q, List.mem_of_find?_eq_some hf, List.find?_some (p := fun q : QRes => decide (q.pa ≤ a) && decide (a < q.pa + 64)) hf⟩
    · rw [if_neg hap]
      exact congrArg (fun z : Byte =>
        match List.find? (fun q => decide (q.pa ≤ a) && decide (a < q.pa + 64)) (s.station (paStation a)).qres with
        | some q => q.bytes.getD (a - q.pa) 0
        | none => z) (Cells.get_set_other _ _ _ _ hap)

theorem State.queues_homeSet (s : State) (pa : Nat) (v : Byte) (hq : ∀ n, ∀ q ∈ (s.station n).qres, q.bytes.length = 64) : ∀ n, ∀ q ∈ ((s.homeSet pa v).station n).qres, q.bytes.length = 64 := by
  intro n q hqq
  simp only [State.homeSet] at hqq
  split at hqq
  · by_cases hst : n = paStation pa
    · subst hst
      simp only [State.modStation, State.station, State.setStation, Tab.get_set_same] at hqq
      rw [List.mem_map] at hqq
      obtain ⟨r, hr, rfl⟩ := hqq
      have := hq _ r hr
      split <;> simp [this]
    · simp only [State.modStation, State.station, State.setStation] at hqq
      rw [Tab.get_set_other _ _ _ _ hst] at hqq
      exact hq _ q hqq
  · exact hq _ q hqq

theorem State.homeByte_homeSetEach (l : List Byte) : ∀ (s : State) (pa a : Nat), (∀ n, ∀ q ∈ (s.station n).qres, q.bytes.length = 64) → (s.homeSetEach (((List.range l.length).map (pa + ·)).zip l)).homeByte a =
   if pa ≤ a ∧ a < pa + l.length then l.getD (a - pa) 0 else s.homeByte a := by
  induction l with
  | nil => intro s pa a hq; simp only [List.length_nil, Nat.add_zero]; rw [if_neg (by omega)]; rfl
  | cons v l ih =>
    intro s pa a hq
    have hr : ((List.range (v :: l).length).map (pa + ·)) = pa :: ((List.range l.length).map (pa + 1 + ·)) := by
      rw [List.length_cons, List.range_succ_eq_map]
      simp [Function.comp_def, Nat.add_assoc, Nat.add_comm 1]
    rw [hr, List.zip_cons_cons, State.homeSetEach, ih _ _ _ (State.queues_homeSet s pa v hq), State.homeByte_homeSet s pa a v hq]
    simp only [List.length_cons]
    by_cases h1 : a = pa
    · subst h1; simp
    · by_cases h2 : pa + 1 ≤ a ∧ a < pa + 1 + l.length
      · rw [if_pos h2, if_pos (by omega), show a - pa = (a - (pa+1)) + 1 by omega]; simp
      · rw [if_neg h2, if_neg h1, if_neg (by omega)]

theorem State.homeByte_modStation (s : State) (st : Nat) (f : Station → Station) (a : Nat) (hf : ∀ x, (f x).qres = x.qres) :
    (s.modStation st f).homeByte a = s.homeByte a := by
  have : ((s.modStation st f).station (paStation a)).qres = (s.station (paStation a)).qres := by
    simp only [State.modStation, State.station, State.setStation, Tab.get_set]
    split
    · rename_i h; rw [h, hf]
    · rfl
  simp only [State.homeByte, this]
  rfl

theorem State.homeByte_clearMarks (s : State) (st : Nat) (bs : List (Nat × Byte)) (a : Nat) : (s.clearMarks st bs).homeByte a = s.homeByte a := by
  simp only [State.clearMarks]
  split
  · rfl
  · exact State.homeByte_modStation s st _ a (fun _ => rfl)

theorem State.homeByte_mirror (s : State) (st : Nat) (bs : List (Nat × Byte)) (a : Nat) : (s.mirror st bs).homeByte a = s.homeByte a := by
  simp only [State.mirror]
  split
  · rfl
  · split
    · rfl
    · exact State.homeByte_modStation s st _ a (fun _ => rfl)

/-- What a byte of memory reads after bytes have been written at their home slice (R228): resident queue descriptors are whole. -/
theorem State.homeByte_homePut (s : State) (pa a : Nat) (l : List Byte) (hq : ∀ n, ∀ q ∈ (s.station n).qres, q.bytes.length = 64) : (s.homePut pa l).homeByte a =
   if pa ≤ a ∧ a < pa + l.length then l.getD (a - pa) 0 else s.homeByte a := by
  rw [← State.homeByte_homeSetEach l s pa a hq, State.homePut]
  generalize ((List.range l.length).map (pa + ·)).zip l = bs
  cases bs with
  | nil => rfl
  | cons b rest =>
    obtain ⟨x, v⟩ := b
    simp only [State.homeSetAll]
    split
    · rw [State.homeByte_mirror, State.homeByte_clearMarks]
    · rfl

end Sys2Proof.Machine
end

