-- ==== Sys2Proof/Laws/Cache.lean ====
section
/-! SUPPORT. What the L1 operations can change: the core's record and the model's own numbering, nothing else. -/

namespace Sys2Proof.Machine

/-- Everything but the cores' records and the next number stays. -/
structure State.CoreOnly (s t : State) : Prop where
  eq : t = { s with cores := t.cores, nextId := t.nextId }

theorem State.CoreOnly.refl (s : State) : s.CoreOnly s := ⟨rfl⟩

theorem State.CoreOnly.trans {s t u : State} (h : s.CoreOnly t) (h' : t.CoreOnly u) : s.CoreOnly u := by
  constructor
  have h := h.eq
  have h' := h'.eq
  rw [h] at h'
  exact h'

theorem State.CoreOnly.foldl {α : Type} {f : State → α → State} (hf : ∀ (s : State) (a : α), s.CoreOnly (f s a)) (l : List α) (s : State) :
    s.CoreOnly (l.foldl f s) := by
  induction l generalizing s with
  | nil => exact .refl s
  | cons a l ih => exact (hf s a).trans (ih _)

theorem State.CoreOnly.mem {s t : State} (h : s.CoreOnly t) : t.mem = s.mem := by rw [h.eq]
theorem State.CoreOnly.threads {s t : State} (h : s.CoreOnly t) : t.threads = s.threads := by rw [h.eq]
theorem State.CoreOnly.thread {s t : State} (h : s.CoreOnly t) (u : Tid) : t.thread u = s.thread u := by
  rw [State.thread, h.threads]; rfl
theorem State.CoreOnly.stations {s t : State} (h : s.CoreOnly t) : t.stations = s.stations := by rw [h.eq]
theorem State.CoreOnly.cyc {s t : State} (h : s.CoreOnly t) : t.cyc = s.cyc := by rw [h.eq]
theorem State.CoreOnly.cur {s t : State} (h : s.CoreOnly t) : t.cur = s.cur := by rw [h.eq]

theorem State.coreOnly_modCore (s : State) (st co : Nat) (f : Core → Core) : s.CoreOnly (s.modCore st co f) := ⟨rfl⟩
theorem State.coreOnly_setCore (s : State) (st co : Nat) (k : Core) : s.CoreOnly (s.setCore st co k) := ⟨rfl⟩

theorem State.coreOnly_useLeaf (s : State) (t : Tid) (c va : Nat) : s.CoreOnly (s.useLeaf t c va) := by
  unfold State.useLeaf; split <;> exact ⟨rfl⟩

theorem State.coreOnly_writeBack (s : State) (st co la : Nat) (keep : Bool) : s.CoreOnly (s.writeBack st co la keep) := by
  unfold State.writeBack
  simp only
  split
  · exact .refl s
  · split
    · exact State.coreOnly_setCore _ _ _ _
    · exact ⟨rfl⟩

theorem State.coreOnly_dropTarget (s : State) (t : Tid) (pa : Nat) : s.CoreOnly (s.dropTarget t pa) := by
  unfold State.dropTarget
  exact (s.coreOnly_writeBack _ _ _ _).trans (State.coreOnly_modCore _ _ _ _)

theorem State.coreOnly_cmoLine (s : State) (st co la : Nat) (op : CmoOp) : s.CoreOnly (s.cmoLine st co la op) := by
  unfold State.cmoLine
  cases op <;> simp only
  · exact s.coreOnly_writeBack _ _ _ _
  · exact State.coreOnly_modCore _ _ _ _
  · exact (s.coreOnly_writeBack _ _ _ _).trans (State.coreOnly_modCore _ _ _ _)

theorem State.coreOnly_cmoRun (s : State) (t : Tid) (op : CmoOp) (home : Bool) (pa n : Nat) : s.CoreOnly (s.cmoRun t op home pa n) := by
  unfold State.cmoRun
  exact State.CoreOnly.foldl (fun s _ => State.CoreOnly.foldl (fun s _ => s.coreOnly_cmoLine _ _ _ _) _ s) _ s

/-- A release looks, and at most places its marker. -/
theorem State.coreOnly_release (s : State) (t : Tid) (seq : Nat) (r : Rel) : s.CoreOnly (s.release t seq r).2.2 := by
  unfold State.release
  simp only
  split
  · exact .refl s
  · split
    · exact .refl s
    · split
      · exact .refl s
      · split
        · split
          · exact .refl s
          · exact ⟨rfl⟩
        · split
          · exact .refl s
          · exact .refl s

theorem Ctx.coreOnly_release (x : Ctx) (s : State) (e : Entry) (sc : Scope) : s.CoreOnly (x.release s e sc).2.2 :=
  s.coreOnly_release _ _ _

end Sys2Proof.Machine
end

