-- ==== Sys2Proof/Laws/Issue.lean ====
section
/-! SUPPORT. What the issue of a word can do, said once (R25, R28, R33, R34). -/

namespace Sys2Proof.Machine

open Host

theorem State.issue_pass {s : State} {c : Ctl} {e : Entry} {th : Thread} (h : s.CanRun c e th) (u : ModUse) (extra : Nat)
    (body : Ctx → State → Act) :
    s.issue c u extra body =
      match body (s.ctx c e) (s.setThread s.cur.1 th) with
      | .done s' => s.issued s' c u e extra
      | .hold s' => s'
      | .fault f s' => s'.raise s.cur.1 { f with pc := e.pc, q := s.cur.2 }
      | .gone s' => s' := by
  simp only [State.issue, h.head, h.gate, h.guard, if_true]
  rfl

theorem State.issue_done {s s' : State} {c : Ctl} {e : Entry} {th : Thread} (h : s.CanRun c e th) (u : ModUse) (extra : Nat)
    (body : Ctx → State → Act) (hb : body (s.ctx c e) (s.setThread s.cur.1 th) = .done s') :
    s.issue c u extra body = s.issued s' c u e extra := by
  rw [State.issue_pass h, hb]

theorem State.issue_gone {s s' : State} {c : Ctl} {e : Entry} {th : Thread} (h : s.CanRun c e th) (u : ModUse) (extra : Nat)
    (body : Ctx → State → Act) (hb : body (s.ctx c e) (s.setThread s.cur.1 th) = .gone s') :
    s.issue c u extra body = s' := by
  rw [State.issue_pass h, hb]

theorem State.issue_hold {s s' : State} {c : Ctl} {e : Entry} {th : Thread} (h : s.CanRun c e th) (u : ModUse) (extra : Nat)
    (body : Ctx → State → Act) (hb : body (s.ctx c e) (s.setThread s.cur.1 th) = .hold s') :
    s.issue c u extra body = s' := by
  rw [State.issue_pass h, hb]

theorem State.issue_fault {s s' : State} {c : Ctl} {e : Entry} {th : Thread} (h : s.CanRun c e th) (u : ModUse) (extra : Nat)
    (body : Ctx → State → Act) (f : FRec) (hb : body (s.ctx c e) (s.setThread s.cur.1 th) = .fault f s') :
    s.issue c u extra body = s'.raise s.cur.1 { f with pc := e.pc, q := s.cur.2 } := by
  rw [State.issue_pass h, hb]

@[simp] theorem State.ctx_t (s : State) (c : Ctl) (e : Entry) : (s.ctx c e).t = s.cur.1 := rfl
@[simp] theorem State.ctx_q (s : State) (c : Ctl) (e : Entry) : (s.ctx c e).q = s.cur.2 := rfl
@[simp] theorem State.ctx_c (s : State) (c : Ctl) (e : Entry) : (s.ctx c e).c = c := rfl
@[simp] theorem State.ctx_base (s : State) (c : Ctl) (e : Entry) : (s.ctx c e).e.base = e.base := rfl
@[simp] theorem State.ctx_seq (s : State) (c : Ctl) (e : Entry) : (s.ctx c e).e.seq = e.seq := rfl
@[simp] theorem State.ctx_pc (s : State) (c : Ctl) (e : Entry) : (s.ctx c e).e.pc = e.pc := rfl
@[simp] theorem State.ctx_exts (s : State) (c : Ctl) (e : Entry) : (s.ctx c e).e.exts = e.exts := rfl
@[simp] theorem State.ctx_next (s : State) (c : Ctl) (e : Entry) : (s.ctx c e).e.next = e.next := rfl
@[simp] theorem State.ctx_stage (s : State) (c : Ctl) (e : Entry) : (s.ctx c e).e.stage = e.stage := rfl
@[simp] theorem State.ctx_th (s : State) (c : Ctl) (e : Entry) (th : Thread) :
    (s.ctx c e).th (s.setThread s.cur.1 th) = th := by simp [Ctx.th]
@[simp] theorem State.ctx_s (s : State) (c : Ctl) (e : Entry) (th : Thread) (r : SReg) :
    (s.ctx c e).s (s.setThread s.cur.1 th) r = th.readS e.base r := by simp [Ctx.s]
@[simp] theorem State.ctx_p (s : State) (c : Ctl) (e : Entry) (th : Thread) (r : PReg) :
    (s.ctx c e).p (s.setThread s.cur.1 th) r = th.readP e.base r := by simp [Ctx.p]

@[simp] theorem Thread.leave_s (th : Thread) (e : Entry) (q : QName) (c : Ctl) (now extra : Nat) : (th.leave e q c now extra).s = th.s :=
  Thread.popHead_s _ _ _
@[simp] theorem Thread.leave_p (th : Thread) (e : Entry) (q : QName) (c : Ctl) (now extra : Nat) : (th.leave e q c now extra).p = th.p :=
  Thread.popHead_p _ _ _
@[simp] theorem Thread.leave_k (th : Thread) (e : Entry) (q : QName) (c : Ctl) (now extra : Nat) : (th.leave e q c now extra).k = th.k :=
  Thread.popHead_k _ _ _
@[simp] theorem Thread.leave_l (th : Thread) (e : Entry) (q : QName) (c : Ctl) (now extra : Nat) : (th.leave e q c now extra).l = th.l :=
  Thread.popHead_l _ _ _
@[simp] theorem Thread.leave_z (th : Thread) (e : Entry) (q : QName) (c : Ctl) (now extra : Nat) : (th.leave e q c now extra).z = th.z :=
  Thread.popHead_z _ _ _
@[simp] theorem Thread.leave_g (th : Thread) (e : Entry) (q : QName) (c : Ctl) (now extra : Nat) : (th.leave e q c now extra).g = th.g :=
  Thread.popHead_g _ _ _
@[simp] theorem Thread.leave_pins (th : Thread) (e : Entry) (q : QName) (c : Ctl) (now extra : Nat) : (th.leave e q c now extra).pins = th.pins :=
  Thread.popHead_pins _ _ _
@[simp] theorem Thread.leave_tok (th : Thread) (e : Entry) (q : QName) (c : Ctl) (now extra : Nat) : (th.leave e q c now extra).tok = th.tok :=
  Thread.popHead_tok _ _ _
@[simp] theorem Thread.leave_ctl (th : Thread) (e : Entry) (q : QName) (c : Ctl) (now extra : Nat) : (th.leave e q c now extra).ctl = th.ctl :=
  Thread.popHead_ctl _ _ _
@[simp] theorem Thread.leave_slots (th : Thread) (e : Entry) (q : QName) (c : Ctl) (now extra : Nat) : (th.leave e q c now extra).slots = th.slots :=
  Thread.popHead_slots _ _ _
@[simp] theorem Thread.leave_nest (th : Thread) (e : Entry) (q : QName) (c : Ctl) (now extra : Nat) : (th.leave e q c now extra).nest = th.nest :=
  Thread.popHead_nest _ _ _
@[simp] theorem Thread.leave_pw (th : Thread) (e : Entry) (q : QName) (c : Ctl) (now extra : Nat) : (th.leave e q c now extra).pw = th.pw :=
  Thread.popHead_pw _ _ _
@[simp] theorem Thread.leave_hdr (th : Thread) (e : Entry) (q : QName) (c : Ctl) (now extra : Nat) : (th.leave e q c now extra).hdr = th.hdr :=
  Thread.popHead_hdr _ _ _
@[simp] theorem Thread.leave_winBase (th : Thread) (e : Entry) (q : QName) (c : Ctl) (now extra : Nat) : (th.leave e q c now extra).winBase = th.winBase :=
  Thread.popHead_winBase _ _ _
@[simp] theorem Thread.leave_csBase (th : Thread) (e : Entry) (q : QName) (c : Ctl) (now extra : Nat) : (th.leave e q c now extra).csBase = th.csBase :=
  Thread.popHead_csBase _ _ _
@[simp] theorem Thread.leave_slate (th : Thread) (e : Entry) (q : QName) (c : Ctl) (now extra : Nat) : (th.leave e q c now extra).slate = th.slate :=
  Thread.popHead_slate _ _ _
@[simp] theorem Thread.leave_segExp (th : Thread) (e : Entry) (q : QName) (c : Ctl) (now extra : Nat) : (th.leave e q c now extra).segExp = th.segExp :=
  Thread.popHead_segExp _ _ _
@[simp] theorem Thread.leave_segLen (th : Thread) (e : Entry) (q : QName) (c : Ctl) (now extra : Nat) : (th.leave e q c now extra).segLen = th.segLen :=
  Thread.popHead_segLen _ _ _
@[simp] theorem Thread.leave_mchk (th : Thread) (e : Entry) (q : QName) (c : Ctl) (now extra : Nat) : (th.leave e q c now extra).mchk = th.mchk :=
  Thread.popHead_mchk _ _ _
@[simp] theorem Thread.leave_cmds (th : Thread) (e : Entry) (q : QName) (c : Ctl) (now extra : Nat) : (th.leave e q c now extra).cmds = th.cmds :=
  Thread.popHead_cmds _ _ _
@[simp] theorem Thread.leave_trapped (th : Thread) (e : Entry) (q : QName) (c : Ctl) (now extra : Nat) : (th.leave e q c now extra).trapped = th.trapped :=
  Thread.popHead_trapped _ _ _
@[simp] theorem Thread.leave_removed (th : Thread) (e : Entry) (q : QName) (c : Ctl) (now extra : Nat) : (th.leave e q c now extra).removed = th.removed :=
  Thread.popHead_removed _ _ _
@[simp] theorem Thread.leave_status (th : Thread) (e : Entry) (q : QName) (c : Ctl) (now extra : Nat) : (th.leave e q c now extra).status = th.status :=
  Thread.popHead_status _ _ _
@[simp] theorem Thread.leave_kind (th : Thread) (e : Entry) (q : QName) (c : Ctl) (now extra : Nat) : (th.leave e q c now extra).kind = th.kind :=
  Thread.popHead_kind _ _ _
@[simp] theorem Thread.leave_ctx (th : Thread) (e : Entry) (q : QName) (c : Ctl) (now extra : Nat) : (th.leave e q c now extra).ctx = th.ctx :=
  Thread.popHead_ctx _ _ _
@[simp] theorem Thread.leave_forCtx (th : Thread) (e : Entry) (q : QName) (c : Ctl) (now extra : Nat) : (th.leave e q c now extra).forCtx = th.forCtx :=
  Thread.popHead_forCtx _ _ _
@[simp] theorem Thread.leave_priv (th : Thread) (e : Entry) (q : QName) (c : Ctl) (now extra : Nat) : (th.leave e q c now extra).priv = th.priv :=
  Thread.popHead_priv _ _ _
@[simp] theorem Thread.leave_tier (th : Thread) (e : Entry) (q : QName) (c : Ctl) (now extra : Nat) : (th.leave e q c now extra).tier = th.tier :=
  Thread.popHead_tier _ _ _
@[simp] theorem Thread.leave_job (th : Thread) (e : Entry) (q : QName) (c : Ctl) (now extra : Nat) : (th.leave e q c now extra).job = th.job :=
  Thread.popHead_job _ _ _
@[simp] theorem Thread.leave_seq (th : Thread) (e : Entry) (q : QName) (c : Ctl) (now extra : Nat) : (th.leave e q c now extra).seq = th.seq :=
  Thread.popHead_seq _ _ _
@[simp] theorem Thread.leave_pend (th : Thread) (e : Entry) (q : QName) (c : Ctl) (now extra : Nat) : (th.leave e q c now extra).pend = th.pend :=
  Thread.popHead_pend _ _ _
@[simp] theorem Thread.leave_unobs (th : Thread) (e : Entry) (q : QName) (c : Ctl) (now extra : Nat) : (th.leave e q c now extra).unobs = th.unobs :=
  Thread.popHead_unobs _ _ _
@[simp] theorem Thread.leave_sb (th : Thread) (e : Entry) (q : QName) (c : Ctl) (now extra : Nat) : (th.leave e q c now extra).sb = th.sb :=
  Thread.popHead_sb _ _ _
@[simp] theorem Thread.leave_ops (th : Thread) (e : Entry) (q : QName) (c : Ctl) (now extra : Nat) : (th.leave e q c now extra).ops = th.ops :=
  Thread.popHead_ops _ _ _
@[simp] theorem Thread.leave_acq (th : Thread) (e : Entry) (q : QName) (c : Ctl) (now extra : Nat) : (th.leave e q c now extra).acq = th.acq :=
  Thread.popHead_acq _ _ _
@[simp] theorem Thread.leave_fault (th : Thread) (e : Entry) (q : QName) (c : Ctl) (now extra : Nat) : (th.leave e q c now extra).fault = th.fault :=
  Thread.popHead_fault _ _ _
@[simp] theorem Thread.leave_newFault (th : Thread) (e : Entry) (q : QName) (c : Ctl) (now extra : Nat) : (th.leave e q c now extra).newFault = th.newFault :=
  Thread.popHead_newFault _ _ _
@[simp] theorem Thread.leave_more (th : Thread) (e : Entry) (q : QName) (c : Ctl) (now extra : Nat) : (th.leave e q c now extra).more = th.more :=
  Thread.popHead_more _ _ _
@[simp] theorem Thread.leave_detached (th : Thread) (e : Entry) (q : QName) (c : Ctl) (now extra : Nat) : (th.leave e q c now extra).detached = th.detached :=
  Thread.popHead_detached _ _ _
@[simp] theorem Thread.leave_halted (th : Thread) (e : Entry) (q : QName) (c : Ctl) (now extra : Nat) : (th.leave e q c now extra).halted = th.halted :=
  Thread.popHead_halted _ _ _
@[simp] theorem Thread.leave_haltCyc (th : Thread) (e : Entry) (q : QName) (c : Ctl) (now extra : Nat) : (th.leave e q c now extra).haltCyc = th.haltCyc :=
  Thread.popHead_haltCyc _ _ _
@[simp] theorem Thread.leave_slot (th : Thread) (e : Entry) (q : QName) (c : Ctl) (now extra : Nat) : (th.leave e q c now extra).slot = th.slot :=
  Thread.popHead_slot _ _ _
@[simp] theorem Thread.leave_slotHeld (th : Thread) (e : Entry) (q : QName) (c : Ctl) (now extra : Nat) : (th.leave e q c now extra).slotHeld = th.slotHeld :=
  Thread.popHead_slotHeld _ _ _
@[simp] theorem Thread.leave_preq (th : Thread) (e : Entry) (q : QName) (c : Ctl) (now extra : Nat) : (th.leave e q c now extra).preq = th.preq :=
  Thread.popHead_preq _ _ _
@[simp] theorem Thread.leave_drain (th : Thread) (e : Entry) (q : QName) (c : Ctl) (now extra : Nat) : (th.leave e q c now extra).drain = th.drain :=
  Thread.popHead_drain _ _ _
@[simp] theorem Thread.leave_drainE (th : Thread) (e : Entry) (q : QName) (c : Ctl) (now extra : Nat) : (th.leave e q c now extra).drainE = th.drainE :=
  Thread.popHead_drainE _ _ _
@[simp] theorem Thread.leave_rel (th : Thread) (e : Entry) (q : QName) (c : Ctl) (now extra : Nat) : (th.leave e q c now extra).rel = th.rel :=
  Thread.popHead_rel _ _ _
@[simp] theorem Thread.leave_launched (th : Thread) (e : Entry) (q : QName) (c : Ctl) (now extra : Nat) : (th.leave e q c now extra).launched = th.launched :=
  Thread.popHead_launched _ _ _
@[simp] theorem Thread.leave_uncorr (th : Thread) (e : Entry) (q : QName) (c : Ctl) (now extra : Nat) : (th.leave e q c now extra).uncorr = th.uncorr :=
  Thread.popHead_uncorr _ _ _
@[simp] theorem Thread.leave_kvRestart (th : Thread) (e : Entry) (q : QName) (c : Ctl) (now extra : Nat) : (th.leave e q c now extra).kvRestart = (th.kvRestart && q != .c) := rfl
@[simp] theorem Thread.leave_notBefore (th : Thread) (e : Entry) (q : QName) (c : Ctl) (now extra : Nat) : (th.leave e q c now extra).notBefore = th.notBefore :=
  Thread.popHead_notBefore _ _ _
@[simp] theorem Thread.leave_soft (th : Thread) (e : Entry) (q : QName) (c : Ctl) (now extra : Nat) : (th.leave e q c now extra).soft = th.soft :=
  Thread.popHead_soft _ _ _
@[simp] theorem Thread.leave_vatAt (th : Thread) (e : Entry) (q : QName) (c : Ctl) (now extra : Nat) : (th.leave e q c now extra).vatAt = th.vatAt :=
  Thread.popHead_vatAt _ _ _
@[simp] theorem Thread.leave_saveRec (th : Thread) (e : Entry) (q : QName) (c : Ctl) (now extra : Nat) : (th.leave e q c now extra).saveRec = th.saveRec :=
  Thread.popHead_saveRec _ _ _
@[simp] theorem Thread.leave_saveAt (th : Thread) (e : Entry) (q : QName) (c : Ctl) (now extra : Nat) : (th.leave e q c now extra).saveAt = th.saveAt :=
  Thread.popHead_saveAt _ _ _
@[simp] theorem Thread.leave_needHandler (th : Thread) (e : Entry) (q : QName) (c : Ctl) (now extra : Nat) : (th.leave e q c now extra).needHandler = th.needHandler :=
  Thread.popHead_needHandler _ _ _
@[simp] theorem Thread.queue_leave (th : Thread) (e : Entry) (q : QName) (c : Ctl) (now extra : Nat) :
    (th.leave e q c now extra).queue q = { th.queue q with es := (th.queue q).es.tail, ready := now + 1 + c.delay th + extra } := by
  rw [show (th.leave e q c now extra).queue q = (th.popHead q (now + 1 + c.delay th + extra)).queue q by cases q <;> rfl]
  exact Thread.queue_popHead _ _ _

/-- What a thread is after its word has issued. -/
theorem State.thread_issued (s s' : State) (c : Ctl) (u : ModUse) (e : Entry) (extra : Nat) :
    (s.issued s' c u e extra).thread s.cur.1 =
      ((s'.thread s.cur.1).orFlags (c.issueFlags u)).leave e s.cur.2 c s.tcyc extra := by
  simp [State.issued]

/-- A word whose body only puts writes in flight. -/
theorem State.scalar_wrote {s : State} {c : Ctl} {e : Entry} {th : Thread} (h : s.CanRun c e th) (lat extra : Nat)
    (f : Ctx → State → List RegW) :
    s.scalar c lat extra f = s.wrote c e th lat extra (f (s.ctx c e) (s.setThread s.cur.1 th)) := by
  rw [State.scalar, State.issue_done h {} extra _ rfl]
  simp [State.wrote, Ctx.write, State.modThread]

/-- What an ordered form does once nothing holds it. -/
theorem Ctx.ordered_passes {x : Ctx} {s t : State} {side : Side} {widest sc : Scope} {o : Order} (h : x.Passes s side widest sc o t)
    (k : Scope → Order → State → Act) : x.ordered s side widest k = k sc o t := by
  obtain ⟨⟨h1, h2⟩, hp, hr⟩ := h
  rcases hx : x.c.ordering side widest with ⟨a, b, w⟩
  rw [hx] at h1 h2 hp hr
  subst h1 h2
  simp only [Ctx.ordered, hx]
  cases hb : b.releases with
  | false => simp only [Bool.false_eq_true, if_false]; rw [hp hb]
  | true =>
    obtain ⟨e', u, h1, h2, h3⟩ := hr hb
    simp only [if_true, h1, h3]
    by_cases hc : 5 ≤ a.code
    · simp [hc, State.takeLost, h2 hc]
    · simp [hc]

/-- A request put in flight takes the next number. -/
@[simp] theorem Ctx.start_fst (x : Ctx) (s : State) (tg : Target) (o : MemOp) : (x.start s tg o).1 = s.nextId := rfl

theorem Ctx.start_walk (x : Ctx) (s : State) (o : MemOp) :
    (x.start s .walk o).2 = State.modThread { s with nextId := s.nextId + 1 } x.t fun th =>
      { th with ops := th.ops ++ [{ o with id := s.nextId, e := x.e, q := x.q, since := s.cyc, seg := s.segSeen x.t.st o }] } := rfl

/-! A cached leaf's use touches one micro-TLB and nothing else. -/

@[simp] theorem State.useLeaf_mem (s : State) (t : Tid) (c va : Nat) : (s.useLeaf t c va).mem = s.mem := by
  unfold State.useLeaf; split <;> rfl
@[simp] theorem State.useLeaf_threads (s : State) (t : Tid) (c va : Nat) : (s.useLeaf t c va).threads = s.threads := by
  unfold State.useLeaf; split <;> rfl
@[simp] theorem State.useLeaf_thread (s : State) (t u : Tid) (c va : Nat) : (s.useLeaf t c va).thread u = s.thread u := by
  simp [State.thread]
@[simp] theorem State.useLeaf_stations (s : State) (t : Tid) (c va : Nat) : (s.useLeaf t c va).stations = s.stations := by
  unfold State.useLeaf; split <;> rfl

end Sys2Proof.Machine
end

