-- ==== Sys2Proof/Laws/PerInstr.lean ====
section
/-! SUPPORT. Statements made of every instruction, one lemma for each constructor of `Instr`. -/

namespace Sys2Proof.Laws.Words

/-- An instruction word has an encoding of at least one word; a hardware step has none (R24, spec/95_what_each_step_holds.md). -/
def Statement (i : Instr) : Prop := encode i = [] ↔ i.ctl = none

/-- A word. -/
theorem of_word {i : Instr} {c : Ctl} {x : Nat × Nat × Option Nat} (h : i.ctl = some c) (hx : i.code = some x) : Statement i := by
  simp [Statement, encode, h, hx]

/-- A hardware step. -/
theorem of_step {i : Instr} (h : i.ctl = none) : Statement i := by
  simp [Statement, encode, h]

theorem add (c : Ctl) (d a b : SReg) : Statement (.add c d a b) := of_word rfl rfl
theorem sub (c : Ctl) (d a b : SReg) : Statement (.sub c d a b) := of_word rfl rfl
theorem mul (c : Ctl) (d a b : SReg) : Statement (.mul c d a b) := of_word rfl rfl
theorem mulhi (c : Ctl) (d a b : SReg) : Statement (.mulhi c d a b) := of_word rfl rfl
theorem mulhn (c : Ctl) (d a b : SReg) : Statement (.mulhn c d a b) := of_word rfl rfl
theorem div (c : Ctl) (d a b : SReg) : Statement (.div c d a b) := of_word rfl rfl
theorem divn (c : Ctl) (d a b : SReg) : Statement (.divn c d a b) := of_word rfl rfl
theorem rem (c : Ctl) (d a b : SReg) : Statement (.rem c d a b) := of_word rfl rfl
theorem remn (c : Ctl) (d a b : SReg) : Statement (.remn c d a b) := of_word rfl rfl
theorem and (c : Ctl) (d a b : SReg) : Statement (.and c d a b) := of_word rfl rfl
theorem or (c : Ctl) (d a b : SReg) : Statement (.or c d a b) := of_word rfl rfl
theorem xor (c : Ctl) (d a b : SReg) : Statement (.xor c d a b) := of_word rfl rfl
theorem andn (c : Ctl) (d a b : SReg) : Statement (.andn c d a b) := of_word rfl rfl
theorem shl (c : Ctl) (d a b : SReg) : Statement (.shl c d a b) := of_word rfl rfl
theorem shr (c : Ctl) (d a b : SReg) : Statement (.shr c d a b) := of_word rfl rfl
theorem sar (c : Ctl) (d a b : SReg) : Statement (.sar c d a b) := of_word rfl rfl
theorem rol (c : Ctl) (d a b : SReg) : Statement (.rol c d a b) := of_word rfl rfl
theorem min (c : Ctl) (d a b : SReg) : Statement (.min c d a b) := of_word rfl rfl
theorem max (c : Ctl) (d a b : SReg) : Statement (.max c d a b) := of_word rfl rfl
theorem minn (c : Ctl) (d a b : SReg) : Statement (.minn c d a b) := of_word rfl rfl
theorem maxn (c : Ctl) (d a b : SReg) : Statement (.maxn c d a b) := of_word rfl rfl
theorem clz (c : Ctl) (d a : SReg) : Statement (.clz c d a) := of_word rfl rfl
theorem popc (c : Ctl) (d a : SReg) : Statement (.popc c d a) := of_word rfl rfl
theorem brev (c : Ctl) (d a : SReg) : Statement (.brev c d a) := of_word rfl rfl
theorem sel (c : Ctl) (d a b : SReg) (n : Bool) (p : PReg) : Statement (.sel c d a b n p) := of_word rfl rfl
theorem cmp (c : Ctl) (p : PReg) (a b : SReg) (cc : Cond) : Statement (.cmp c p a b cc) := of_word rfl rfl
theorem pand (c : Ctl) (d a b : PReg) : Statement (.pand c d a b) := of_word rfl rfl
theorem por (c : Ctl) (d a b : PReg) : Statement (.por c d a b) := of_word rfl rfl
theorem pxor (c : Ctl) (d a b : PReg) : Statement (.pxor c d a b) := of_word rfl rfl
theorem pnot (c : Ctl) (d a : PReg) : Statement (.pnot c d a) := of_word rfl rfl
theorem lea (c : Ctl) (d a b : SReg) (sh : Fin 16) : Statement (.lea c d a b sh) := of_word rfl rfl
theorem getc (c : Ctl) (d : SReg) (r : CReg) : Statement (.getc c d r) := of_word rfl rfl
theorem setc (c : Ctl) (d : SReg) (r : CReg) : Statement (.setc c d r) := of_word rfl rfl
theorem addi (c : Ctl) (d a : SReg) (i : Fin 512) : Statement (.addi c d a i) := of_word rfl rfl
theorem andi (c : Ctl) (d a : SReg) (i : Fin 512) : Statement (.andi c d a i) := of_word rfl rfl
theorem ori (c : Ctl) (d a : SReg) (i : Fin 512) : Statement (.ori c d a i) := of_word rfl rfl
theorem xori (c : Ctl) (d a : SReg) (i : Fin 512) : Statement (.xori c d a i) := of_word rfl rfl
theorem shli (c : Ctl) (d a : SReg) (i : Fin 512) : Statement (.shli c d a i) := of_word rfl rfl
theorem shri (c : Ctl) (d a : SReg) (i : Fin 512) : Statement (.shri c d a i) := of_word rfl rfl
theorem sari (c : Ctl) (d a : SReg) (i : Fin 512) : Statement (.sari c d a i) := of_word rfl rfl
theorem li (c : Ctl) (d : SReg) (i : Fin 16384) : Statement (.li c d i) := of_word rfl rfl
theorem cmpi (c : Ctl) (p : PReg) (a : SReg) (i : Fin 512) (cc : Cond) : Statement (.cmpi c p a i cc) := of_word rfl rfl
theorem br (c : Ctl) (disp : Fin 32768) : Statement (.br c disp) := of_word rfl rfl
theorem brc (c : Ctl) (p : PReg) (n : Bool) (disp : Fin 32768) : Statement (.brc c p n disp) := of_word rfl rfl
theorem call (c : Ctl) (disp : Fin 32768) : Statement (.call c disp) := of_word rfl rfl
theorem ret (c : Ctl) (a : SReg) : Statement (.ret c a) := of_word rfl rfl
theorem jtab (c : Ctl) (a b : SReg) : Statement (.jtab c a b) := of_word rfl rfl
theorem loop (c : Ctl) (d a : SReg) (ki rot : Bool) : Statement (.loop c d a ki rot) := of_word rfl rfl
theorem loopend (c : Ctl) (disp : Fin 32768) : Statement (.loopend c disp) := of_word rfl rfl
theorem brk (c : Ctl) (code : Fin 16) : Statement (.brk c code) := of_word rfl rfl
theorem slate (c : Ctl) (d : SReg) (item : Fin 8) : Statement (.slate c d item) := of_word rfl rfl
theorem retire (c : Ctl) : Statement (.retire c) := of_word rfl rfl
theorem lds (c : Ctl) (sz : Size) (m a : SReg) (off : Fin 512) : Statement (.lds c sz m a off) := of_word rfl rfl
theorem sts (c : Ctl) (sz : Size) (m a : SReg) (off : Fin 512) : Statement (.sts c sz m a off) := of_word rfl rfl
theorem ld (c : Ctl) (sz : Size) (m a : SReg) (off : Fin 512) : Statement (.ld c sz m a off) := of_word rfl rfl
theorem st (c : Ctl) (sz : Size) (m a : SReg) (off : Fin 512) : Statement (.st c sz m a off) := of_word rfl rfl
theorem ldp (c : Ctl) (sz : Size) (m a : SReg) (w : Fin 8) (off : Fin 64) : Statement (.ldp c sz m a w off) := of_word rfl rfl
theorem amo (c : Ctl) (dbl : Bool) (d a b : SReg) (op : AmoOp) : Statement (.amo c dbl d a b op) := of_word rfl rfl
theorem cas (c : Ctl) (dbl : Bool) (d a b : SReg) : Statement (.cas c dbl d a b) := of_word rfl rfl
theorem enq (c : Ctl) (d a b : SReg) : Statement (.enq c d a b) := of_word rfl rfl
theorem deq (c : Ctl) (d a b : SReg) : Statement (.deq c d a b) := of_word rfl rfl
theorem fence (c : Ctl) (kind : FenceKind) (scope : Scope) : Statement (.fence c kind scope) := of_word rfl rfl
theorem xfence (c : Ctl) : Statement (.xfence c) := of_word rfl rfl
theorem cmo (c : Ctl) (a b : SReg) (op : CmoOp) (home : Bool) : Statement (.cmo c a b op home) := of_word rfl rfl
theorem pref (c : Ctl) (wr : Bool) (a : SReg) (off : Fin 512) : Statement (.pref c wr a off) := of_word rfl rfl
theorem postS (c : Ctl) (t : Token) : Statement (.postS c t) := of_word rfl rfl
theorem waitS (c : Ctl) (t : Token) : Statement (.waitS c t) := of_word rfl rfl
theorem rdv (c : Ctl) : Statement (.rdv c) := of_word rfl rfl
theorem binit (c : Ctl) (a b : SReg) : Statement (.binit c a b) := of_word rfl rfl
theorem barv (c : Ctl) (a b : SReg) : Statement (.barv c a b) := of_word rfl rfl
theorem bexp (c : Ctl) (a b : SReg) : Statement (.bexp c a b) := of_word rfl rfl
theorem bwait (c : Ctl) (a : SReg) : Statement (.bwait c a) := of_word rfl rfl
theorem yield_ (c : Ctl) : Statement (.yield_ c) := of_word rfl rfl
theorem pchk (c : Ctl) (d : SReg) : Statement (.pchk c d) := of_word rfl rfl
theorem budg (c : Ctl) (a : SReg) : Statement (.budg c a) := of_word rfl rfl
theorem segwait (c : Ctl) (a : SReg) : Statement (.segwait c a) := of_word rfl rfl
theorem accept (c : Ctl) (a b : SReg) : Statement (.accept c a b) := of_word rfl rfl
theorem commit (c : Ctl) (a : SReg) : Statement (.commit c a) := of_word rfl rfl
theorem timewait (c : Ctl) (a : SReg) (late : Bool) : Statement (.timewait c a late) := of_word rfl rfl
theorem ttarm (c : Ctl) (a b : SReg) : Statement (.ttarm c a b) := of_word rfl rfl
theorem syscall (c : Ctl) (code : Fin 512) : Statement (.syscall c code) := of_word rfl rfl
theorem trap (c : Ctl) (code : Fin 512) : Statement (.trap c code) := of_word rfl rfl
theorem sqtrap (c : Ctl) (a : SReg) (code : Fin 512) : Statement (.sqtrap c a code) := of_word rfl rfl
theorem telm (c : Ctl) (a b : SReg) : Statement (.telm c a b) := of_word rfl rfl
theorem frzinfo (c : Ctl) (d a : SReg) : Statement (.frzinfo c d a) := of_word rfl rfl
theorem frzrd (c : Ctl) (d a : SReg) (cls : Fin 16) : Statement (.frzrd c d a cls) := of_word rfl rfl
theorem frzwr (c : Ctl) (a b : SReg) (cls : Fin 16) : Statement (.frzwr c a b cls) := of_word rfl rfl
theorem frzld (c : Ctl) (d a b : SReg) : Statement (.frzld c d a b) := of_word rfl rfl
theorem frzst (c : Ctl) (d a b : SReg) : Statement (.frzst c d a b) := of_word rfl rfl
theorem frzarv (c : Ctl) (a b : SReg) : Statement (.frzarv c a b) := of_word rfl rfl
theorem frzres (c : Ctl) (a b : SReg) : Statement (.frzres c a b) := of_word rfl rfl
theorem frzkil (c : Ctl) (a : SReg) : Statement (.frzkil c a) := of_word rfl rfl
theorem haltx (c : Ctl) (a : SReg) : Statement (.haltx c a) := of_word rfl rfl
theorem vadd (c : Ctl) (d a b : PlaneOp) : Statement (.vadd c d a b) := of_word rfl rfl
theorem vsub (c : Ctl) (d a b : PlaneOp) : Statement (.vsub c d a b) := of_word rfl rfl
theorem vmul (c : Ctl) (d a b : PlaneOp) : Statement (.vmul c d a b) := of_word rfl rfl
theorem vfma (c : Ctl) (d a b : PlaneOp) : Statement (.vfma c d a b) := of_word rfl rfl
theorem vfms (c : Ctl) (d a b : PlaneOp) : Statement (.vfms c d a b) := of_word rfl rfl
theorem vmin (c : Ctl) (d a b : PlaneOp) : Statement (.vmin c d a b) := of_word rfl rfl
theorem vmax (c : Ctl) (d a b : PlaneOp) : Statement (.vmax c d a b) := of_word rfl rfl
theorem vabs (c : Ctl) (d a : PlaneOp) : Statement (.vabs c d a) := of_word rfl rfl
theorem vneg (c : Ctl) (d a : PlaneOp) : Statement (.vneg c d a) := of_word rfl rfl
theorem vmov (c : Ctl) (d a : PlaneOp) : Statement (.vmov c d a) := of_word rfl rfl
theorem vrsum (c : Ctl) (d a : PlaneOp) : Statement (.vrsum c d a) := of_word rfl rfl
theorem vrmax (c : Ctl) (d a : PlaneOp) : Statement (.vrmax c d a) := of_word rfl rfl
theorem vrmin (c : Ctl) (d a : PlaneOp) : Statement (.vrmin c d a) := of_word rfl rfl
theorem vrssq (c : Ctl) (d a : PlaneOp) : Statement (.vrssq c d a) := of_word rfl rfl
theorem vexp2 (c : Ctl) (d a : PlaneOp) : Statement (.vexp2 c d a) := of_word rfl rfl
theorem viadd (c : Ctl) (d a b : PlaneOp) : Statement (.viadd c d a b) := of_word rfl rfl
theorem visub (c : Ctl) (d a b : PlaneOp) : Statement (.visub c d a b) := of_word rfl rfl
theorem vimul (c : Ctl) (d a b : PlaneOp) : Statement (.vimul c d a b) := of_word rfl rfl
theorem vimac (c : Ctl) (d a b : PlaneOp) : Statement (.vimac c d a b) := of_word rfl rfl
theorem vimin (c : Ctl) (d a b : PlaneOp) : Statement (.vimin c d a b) := of_word rfl rfl
theorem vimax (c : Ctl) (d a b : PlaneOp) : Statement (.vimax c d a b) := of_word rfl rfl
theorem vshl (c : Ctl) (d a b : PlaneOp) : Statement (.vshl c d a b) := of_word rfl rfl
theorem vshr (c : Ctl) (d a b : PlaneOp) : Statement (.vshr c d a b) := of_word rfl rfl
theorem vsar (c : Ctl) (d a b : PlaneOp) : Statement (.vsar c d a b) := of_word rfl rfl
theorem vand (c : Ctl) (d a b : PlaneOp) : Statement (.vand c d a b) := of_word rfl rfl
theorem vor (c : Ctl) (d a b : PlaneOp) : Statement (.vor c d a b) := of_word rfl rfl
theorem vxor (c : Ctl) (d a b : PlaneOp) : Statement (.vxor c d a b) := of_word rfl rfl
theorem vcmp (c : Ctl) (d : LReg) (a b : PlaneOp) (cc : Cond) : Statement (.vcmp c d a b cc) := of_word rfl rfl
theorem vsel (c : Ctl) (d a b : PlaneOp) (m : LReg) : Statement (.vsel c d a b m) := of_word rfl rfl
theorem vcvt (c : Ctl) (d a : PlaneOp) (src : Fmt) : Statement (.vcvt c d a src) := of_word rfl rfl
theorem vqnt (c : Ctl) (d a g : PlaneOp) (fmt : GroupFmt) : Statement (.vqnt c d a g fmt) := of_word rfl rfl
theorem vdqnt (c : Ctl) (d a g : PlaneOp) (fmt : GroupFmt) : Statement (.vdqnt c d a g fmt) := of_word rfl rfl
theorem vlog2 (c : Ctl) (d a : PlaneOp) : Statement (.vlog2 c d a) := of_word rfl rfl
theorem vrcp (c : Ctl) (d a : PlaneOp) : Statement (.vrcp c d a) := of_word rfl rfl
theorem vrsq (c : Ctl) (d a : PlaneOp) : Statement (.vrsq c d a) := of_word rfl rfl
theorem vimaxIdx (c : Ctl) (d : SReg) (a : PlaneOp) (val : SReg) : Statement (.vimaxIdx c d a val) := of_word rfl rfl
theorem vbcst (c : Ctl) (d : PlaneOp) (a : SReg) : Statement (.vbcst c d a) := of_word rfl rfl
theorem vld (c : Ctl) (d : PlaneOp) (a : SReg) (off : Fin 4096) : Statement (.vld c d a off) := of_word rfl rfl
theorem vst (c : Ctl) (d : PlaneOp) (a : SReg) (off : Fin 4096) : Statement (.vst c d a off) := of_word rfl rfl
theorem vgth (c : Ctl) (d : PlaneOp) (a : SReg) (b : PlaneOp) : Statement (.vgth c d a b) := of_word rfl rfl
theorem vperm (c : Ctl) (d a b : PlaneOp) (x : Fin 128) : Statement (.vperm c d a b x) := of_word rfl rfl
theorem vshf (c : Ctl) (d a b : PlaneOp) (s : Fin 128) : Statement (.vshf c d a b s) := of_word rfl rfl
theorem vscan (c : Ctl) (d a : PlaneOp) (op : ScanOp) : Statement (.vscan c d a op) := of_word rfl rfl
theorem vkset (c : Ctl) (k : KReg) (a : SReg) (val : Fin 1024) : Statement (.vkset c k a val) := of_word rfl rfl
theorem vkadd (c : Ctl) (k : KReg) (a : SReg) (val : Fin 1024) : Statement (.vkadd c k a val) := of_word rfl rfl
theorem mskand (c : Ctl) (d a b : LReg) : Statement (.mskand c d a b) := of_word rfl rfl
theorem mskor (c : Ctl) (d a b : LReg) : Statement (.mskor c d a b) := of_word rfl rfl
theorem mskxor (c : Ctl) (d a b : LReg) : Statement (.mskxor c d a b) := of_word rfl rfl
theorem msknot (c : Ctl) (d a : LReg) : Statement (.msknot c d a) := of_word rfl rfl
theorem mskmov (c : Ctl) (d : LReg) (a : SReg) : Statement (.mskmov c d a) := of_word rfl rfl
theorem mskget (c : Ctl) (a : SReg) (d : LReg) : Statement (.mskget c a d) := of_word rfl rfl
theorem vrand (c : Ctl) (d : PlaneOp) (key ctr : SReg) (unit : Bool) : Statement (.vrand c d key ctr unit) := of_word rfl rfl
theorem postV (c : Ctl) (t : Token) : Statement (.postV c t) := of_word rfl rfl
theorem waitV (c : Ctl) (t : Token) : Statement (.waitV c t) := of_word rfl rfl
theorem mlease (c : Ctl) : Statement (.mlease c) := of_word rfl rfl
theorem mfree (c : Ctl) : Statement (.mfree c) := of_word rfl rfl
theorem mstrl (c : Ctl) (g : GReg) (a : SReg) : Statement (.mstrl c g a) := of_word rfl rfl
theorem mstrs (c : Ctl) (g : GReg) (a : SReg) : Statement (.mstrs c g a) := of_word rfl rfl
theorem mstrf (c : Ctl) (g : GReg) (a : SReg) (f : Fin 32) : Statement (.mstrf c g a f) := of_word rfl rfl
theorem mnest (c : Ctl) (a : SReg) : Statement (.mnest c a) := of_word rfl rfl
theorem mmm (c : Ctl) (g h : GReg) (a : SReg) (init nest : Bool) : Statement (.mmm c g h a init nest) := of_word rfl rfl
theorem mmc (c : Ctl) (g : GReg) (a : SReg) (init : Bool) : Statement (.mmc c g a init) := of_word rfl rfl
theorem aclr (c : Ctl) (a : SReg) : Statement (.aclr c a) := of_word rfl rfl
theorem ard (c : Ctl) (p : ZReg) (q : Fin 4) (a : SReg) : Statement (.ard c p q a) := of_word rfl rfl
theorem awr (c : Ctl) (p : ZReg) (q : Fin 4) (a : SReg) : Statement (.awr c p q a) := of_word rfl rfl
theorem acpyToCoreStore (c : Ctl) (a b : SReg) : Statement (.acpyToCoreStore c a b) := of_word rfl rfl
theorem acpyToAccumulator (c : Ctl) (a b : SReg) : Statement (.acpyToAccumulator c a b) := of_word rfl rfl
theorem mchk (c : Ctl) (k : Fin 32) : Statement (.mchk c k) := of_word rfl rfl
theorem mwait (c : Ctl) (post : Bool) (t : Token) : Statement (.mwait c post t) := of_word rfl rfl
theorem postM (c : Ctl) (t : Token) : Statement (.postM c t) := of_word rfl rfl
theorem waitM (c : Ctl) (t : Token) : Statement (.waitM c t) := of_word rfl rfl
theorem cpy (c : Ctl) (a b : SReg) : Statement (.cpy c a b) := of_word rfl rfl
theorem cgth (c : Ctl) (a b x : SReg) : Statement (.cgth c a b x) := of_word rfl rfl
theorem csct (c : Ctl) (a b x : SReg) : Statement (.csct c a b x) := of_word rfl rfl
theorem cbcst (c : Ctl) (a b x : SReg) : Statement (.cbcst c a b x) := of_word rfl rfl
theorem xput (c : Ctl) (a b x : SReg) : Statement (.xput c a b x) := of_word rfl rfl
theorem xget (c : Ctl) (a b : SReg) : Statement (.xget c a b) := of_word rfl rfl
theorem kvapp (c : Ctl) (a b x : SReg) : Statement (.kvapp c a b x) := of_word rfl rfl
theorem kvcmp (c : Ctl) (a b x : SReg) : Statement (.kvcmp c a b x) := of_word rfl rfl
theorem seghold (c : Ctl) (a b x : SReg) : Statement (.seghold c a b x) := of_word rfl rfl
theorem cwait (c : Ctl) (post : Bool) (t : Token) : Statement (.cwait c post t) := of_word rfl rfl
theorem ccncl (c : Ctl) : Statement (.ccncl c) := of_word rfl rfl
theorem postC (c : Ctl) (t : Token) : Statement (.postC c t) := of_word rfl rfl
theorem waitC (c : Ctl) (t : Token) : Statement (.waitC c t) := of_word rfl rfl
theorem tapsel (c : Ctl) (t : Fin 16) (a : SReg) : Statement (.tapsel c t a) := of_word rfl rfl
theorem tapstr (c : Ctl) (t : Fin 16) (a : SReg) (z : ZReg) : Statement (.tapstr c t a z) := of_word rfl rfl
theorem tapdot (c : Ctl) (t : Fin 16) (a b : SReg) (z : ZReg) : Statement (.tapdot c t a b z) := of_word rfl rfl
theorem tapeval (c : Ctl) (t : Fin 16) (a b : SReg) (m : LReg) : Statement (.tapeval c t a b m) := of_word rfl rfl
theorem tapclr (c : Ctl) (a : SReg) : Statement (.tapclr c a) := of_word rfl rfl
theorem taprd (c : Ctl) (t : Fin 16) (a b : SReg) : Statement (.taprd c t a b) := of_word rfl rfl
theorem tapprb (c : Ctl) (t : Fin 16) (a b : SReg) : Statement (.tapprb c t a b) := of_word rfl rfl
theorem tapstv (c : Ctl) (a b : SReg) : Statement (.tapstv c a b) := of_word rfl rfl
theorem postX (c : Ctl) (t : Token) : Statement (.postX c t) := of_word rfl rfl
theorem waitX (c : Ctl) (t : Token) : Statement (.waitX c t) := of_word rfl rfl
theorem splitterFetch (t : Tid) : Statement (.splitterFetch t) := of_step rfl
theorem fixedLatencyWriteLand (t : Tid) : Statement (.fixedLatencyWriteLand t) := of_step rfl
theorem loadComplete (t : Tid) (id : Nat) : Statement (.loadComplete t id) := of_step rfl
theorem storeBufferDrain (t : Tid) : Statement (.storeBufferDrain t) := of_step rfl
theorem dirtyLineWriteback (st co line : Nat) : Statement (.dirtyLineWriteback st co line) := of_step rfl
theorem releaseMarkerLeave (st co : Nat) : Statement (.releaseMarkerLeave st co) := of_step rfl
theorem l1InvalidateComplete (t : Tid) : Statement (.l1InvalidateComplete t) := of_step rfl
theorem pageWalk (t : Tid) (id : Nat) : Statement (.pageWalk t id) := of_step rfl
theorem homeSliceRead (r : ReqRef) : Statement (.homeSliceRead r) := of_step rfl
theorem homeSliceWrite (r : ReqRef) : Statement (.homeSliceWrite r) := of_step rfl
theorem homeAtomic (r : ReqRef) : Statement (.homeAtomic r) := of_step rfl
theorem homeQueueOp (r : ReqRef) : Statement (.homeQueueOp r) := of_step rfl
theorem homeBarrierUpdate (r : ReqRef) : Statement (.homeBarrierUpdate r) := of_step rfl
theorem forwardedAccess (id : Nat) : Statement (.forwardedAccess id) := of_step rfl
theorem ackFlit (port : Nat) : Statement (.ackFlit port) := of_step rfl
theorem accessUndeliverable (r : ReqRef) : Statement (.accessUndeliverable r) := of_step rfl
theorem mirrorWrite (st : Nat) : Statement (.mirrorWrite st) := of_step rfl
theorem copyPiece (st id piece : Nat) : Statement (.copyPiece st id piece) := of_step rfl
theorem vatLeaseGrant (st co : Nat) : Statement (.vatLeaseGrant st co) := of_step rfl
theorem handlerReserveClaim (t : Tid) : Statement (.handlerReserveClaim t) := of_step rfl
theorem vatAccept (st co : Nat) : Statement (.vatAccept st co) := of_step rfl
theorem vatComplete (st co : Nat) : Statement (.vatComplete st co) := of_step rfl
theorem deviationLogAppend (st co : Nat) : Statement (.deviationLogAppend st co) := of_step rfl
theorem xWordComplete (t : Tid) : Statement (.xWordComplete t) := of_step rfl
theorem segmentReceive (st : Nat) : Statement (.segmentReceive st) := of_step rfl
theorem slateForm (st frame : Nat) : Statement (.slateForm st frame) := of_step rfl
theorem segmentExpire (st frame : Nat) : Statement (.segmentExpire st frame) := of_step rfl
theorem declaringCycle (st job : Nat) : Statement (.declaringCycle st job) := of_step rfl
theorem launchArbiter (st co : Nat) : Statement (.launchArbiter st co) := of_step rfl
theorem jobComplete (t : Tid) : Statement (.jobComplete t) := of_step rfl
theorem budgetExhausted (t : Tid) : Statement (.budgetExhausted t) := of_step rfl
theorem preemptRaise (st co : Nat) (jobs : Fin 16) : Statement (.preemptRaise st co jobs) := of_step rfl
theorem preemptWithdraw (st co : Nat) (jobs : Fin 16) : Statement (.preemptWithdraw st co jobs) := of_step rfl
theorem forcedSave (t : Tid) : Statement (.forcedSave t) := of_step rfl
theorem saveRecordWrite (t : Tid) : Statement (.saveRecordWrite t) := of_step rfl
theorem timetablePreq (st co e : Nat) : Statement (.timetablePreq st co e) := of_step rfl
theorem timetableLaunch (st co e : Nat) : Statement (.timetableLaunch st co e) := of_step rfl
theorem dbgHaltThread (t : Tid) : Statement (.dbgHaltThread t) := of_step rfl
theorem dbgReleaseThread (t : Tid) : Statement (.dbgReleaseThread t) := of_step rfl
theorem dbgHaltCore (st co : Nat) : Statement (.dbgHaltCore st co) := of_step rfl
theorem dbgReleaseCore (st co : Nat) : Statement (.dbgReleaseCore st co) := of_step rfl
theorem dbgSave (t : Tid) : Statement (.dbgSave t) := of_step rfl
theorem copyqSettle (st co : Nat) : Statement (.copyqSettle st co) := of_step rfl
theorem recordMoveDone (st : Nat) : Statement (.recordMoveDone st) := of_step rfl
theorem tlbInvalidateDone (st : Nat) : Statement (.tlbInvalidateDone st) := of_step rfl
theorem faultDetect (t : Tid) : Statement (.faultDetect t) := of_step rfl
theorem freezeComplete (t : Tid) : Statement (.freezeComplete t) := of_step rfl
theorem handlerSpawn (st co : Nat) : Statement (.handlerSpawn st co) := of_step rfl
theorem handlerSlotTake (t : Tid) : Statement (.handlerSlotTake t) := of_step rfl
theorem intakeDeliver (st tier : Nat) : Statement (.intakeDeliver st tier) := of_step rfl
theorem completionRecord (st ctx : Nat) : Statement (.completionRecord st ctx) := of_step rfl
theorem tileWalkPermit (engine : Nat) : Statement (.tileWalkPermit engine) := of_step rfl
theorem tileWalkDone (engine : Nat) : Statement (.tileWalkDone engine) := of_step rfl
theorem selfTestStart (st : Nat) : Statement (.selfTestStart st) := of_step rfl
theorem afrUpdate (st : Nat) : Statement (.afrUpdate st) := of_step rfl
theorem devlogSizeWrite : Statement (.devlogSizeWrite) := of_step rfl
theorem telemetrySizeWrite : Statement (.telemetrySizeWrite) := of_step rfl
theorem capRevoke : Statement (.capRevoke) := of_step rfl
theorem contextTeardown : Statement (.contextTeardown) := of_step rfl
theorem descriptorWrite : Statement (.descriptorWrite) := of_step rfl
theorem tileWalkStopClear : Statement (.tileWalkStopClear) := of_step rfl
theorem registerWrite : Statement (.registerWrite) := of_step rfl
theorem tlbInvalidate : Statement (.tlbInvalidate) := of_step rfl
theorem recordMove : Statement (.recordMove) := of_step rfl
theorem timetableWrite : Statement (.timetableWrite) := of_step rfl
theorem moduleLeaseAcquire : Statement (.moduleLeaseAcquire) := of_step rfl
theorem moduleLeaseRelease : Statement (.moduleLeaseRelease) := of_step rfl
theorem migenClear : Statement (.migenClear) := of_step rfl
theorem ringSlotStart : Statement (.ringSlotStart) := of_step rfl
theorem hostRdmaWrite : Statement (.hostRdmaWrite) := of_step rfl
theorem hostRdmaWriteImm : Statement (.hostRdmaWriteImm) := of_step rfl
theorem hostRdmaRead : Statement (.hostRdmaRead) := of_step rfl
theorem roceUnsupportedRequest : Statement (.roceUnsupportedRequest) := of_step rfl
theorem controllerCommand : Statement (.controllerCommand) := of_step rfl
theorem imageVerify : Statement (.imageVerify) := of_step rfl
theorem fuseCommit : Statement (.fuseCommit) := of_step rfl
theorem attestRequest : Statement (.attestRequest) := of_step rfl
theorem selfTestEnd : Statement (.selfTestEnd) := of_step rfl
theorem bankScanRow : Statement (.bankScanRow) := of_step rfl
theorem kvRebuild : Statement (.kvRebuild) := of_step rfl
theorem ringSyncLoss : Statement (.ringSyncLoss) := of_step rfl
theorem powerDecision : Statement (.powerDecision) := of_step rfl
theorem thermalTrip : Statement (.thermalTrip) := of_step rfl
theorem railFault : Statement (.railFault) := of_step rfl
theorem pllUnlock : Statement (.pllUnlock) := of_step rfl
theorem resetRelease : Statement (.resetRelease) := of_step rfl
theorem hostLinkAcknowledge : Statement (.hostLinkAcknowledge) := of_step rfl
theorem stationControllerRestart : Statement (.stationControllerRestart) := of_step rfl
theorem ieee1588Timestamp : Statement (.ieee1588Timestamp) := of_step rfl
theorem fabricTrain : Statement (.fabricTrain) := of_step rfl
theorem laneFailRetrain : Statement (.laneFailRetrain) := of_step rfl
theorem fabricFlitReplay : Statement (.fabricFlitReplay) := of_step rfl
theorem skipFlitReplay : Statement (.skipFlitReplay) := of_step rfl
theorem intakeSubmit : Statement (.intakeSubmit) := of_step rfl
theorem delegateInstall : Statement (.delegateInstall) := of_step rfl
theorem returnPageReceive : Statement (.returnPageReceive) := of_step rfl
theorem migrationReady : Statement (.migrationReady) := of_step rfl
theorem migrationClosing : Statement (.migrationClosing) := of_step rfl
theorem migrationClosed : Statement (.migrationClosed) := of_step rfl

end Sys2Proof.Laws.Words
end

