-- ==== Sys2Proof/Laws/Vat.lean ====
section
/-! SUPPORT. Laws of runs of cells, as the accumulator store uses them (R144). -/

namespace Sys2Proof.Machine

/-- A cell of a list with one more entry. -/
theorem Cells.get_cons {w : Nat} (a : Nat) (v : BitVec w) (m : Cells w) (k : Nat) : Cells.get ((a, v) :: m) k = if a = k then v else Cells.get m k := by
  simp only [Cells.get]

theorem Cells.get_filter {w : Nat} (p : Nat → Bool) (m : Cells w) (k : Nat) : Cells.get (m.filter fun x => p x.1) k = if p k then Cells.get m k else 0 := by
  induction m with
  | nil => simp
  | cons x m ih =>
    obtain ⟨a, v⟩ := x
    rw [List.filter_cons]
    by_cases hp : p a = true
    · simp only [hp, if_true, Cells.get_cons, ih]
      by_cases ha : a = k
      · subst ha; simp [hp]
      · simp [ha]
    · rw [if_neg hp, ih, Cells.get_cons]
      by_cases ha : a = k
      · subst ha; simp [hp]
      · simp [ha]

theorem Cells.get_append {w : Nat} (m n : Cells w) (k : Nat) : Cells.get (m ++ n) k = if (∃ x ∈ m, x.1 = k) then Cells.get m k else Cells.get n k := by
  induction m with
  | nil => simp
  | cons x m ih =>
    obtain ⟨a, v⟩ := x
    rw [List.cons_append, Cells.get_cons, Cells.get_cons, ih]
    by_cases ha : a = k <;> simp [ha]

theorem Cells.get_zip_range {w : Nat} (vs : List (BitVec w)) (a k : Nat) :
    Cells.get (((List.range vs.length).map (a + ·) |>.zip vs).filter (fun x => x.2 != 0)) k = if a ≤ k then vs.getD (k - a) 0 else 0 := by
  induction vs generalizing a with
  | nil => simp
  | cons v vs ih =>
    have : ((List.range (v :: vs).length).map (a + ·)) = a :: ((List.range vs.length).map (a + 1 + ·)) := by
      rw [List.length_cons, List.range_succ_eq_map]
      simp [Function.comp_def, Nat.add_assoc, Nat.add_comm 1]
    rw [this, List.zip_cons_cons, List.filter_cons]
    by_cases hv : v = 0
    · simp only [hv, bne_self_eq_false, Bool.false_eq_true, if_false]
      rw [ih]
      by_cases h1 : a + 1 ≤ k
      · rw [if_pos h1, if_pos (by omega), show k - a = (k - (a+1)) + 1 by omega]; simp
      · rw [if_neg h1]
        by_cases h2 : a ≤ k
        · have : k = a := by omega
          subst this; simp
        · simp [h2]
    · simp only [bne_iff_ne, ne_eq, hv, not_false_eq_true, if_true]
      rw [Cells.get_cons, ih]
      by_cases h0 : a = k
      · subst h0; simp
      · rw [if_neg h0]
        by_cases h1 : a + 1 ≤ k
        · rw [if_pos h1, if_pos (by omega), show k - a = (k - (a+1)) + 1 by omega]; simp
        · rw [if_neg h1, if_neg (by omega)]

/-- What a cell reads after a run of cells has been replaced. -/
theorem Cells.get_putRange {w : Nat} (m : Cells w) (a : Nat) (vs : List (BitVec w)) (k : Nat) :
    Cells.get (m.putRange a vs) k = if a ≤ k ∧ k < a + vs.length then vs.getD (k - a) 0 else Cells.get m k := by
  simp only [Cells.putRange]
  rw [Cells.get_append, Cells.get_append]
  have hf1 := Cells.get_filter (fun j => decide (j < a)) m k
  have hf2 := Cells.get_filter (fun j => decide (a + vs.length ≤ j)) m k
  have key : ∀ x ∈ ((List.range vs.length).map (a + ·) |>.zip vs).filter (fun x => x.2 != 0), a ≤ x.1 ∧ x.1 < a + vs.length := by
    rintro ⟨i, v⟩ hx
    have := (List.mem_filter.1 hx).1
    have := List.of_mem_zip this
    simp only [List.mem_map, List.mem_range] at this
    obtain ⟨⟨j, hj, rfl⟩, _⟩ := this
    exact ⟨by simp, by simpa using hj⟩
  by_cases h1 : k < a
  · rw [if_neg (show ¬(a ≤ k ∧ k < a + vs.length) by omega)]
    by_cases hm : ∃ x ∈ List.filter (fun x => decide (x.1 < a)) m, x.1 = k
    · have : ∃ x ∈ List.filter (fun x => decide (x.1 < a)) m ++ ((List.range vs.length).map (a + ·) |>.zip vs).filter (fun x => x.2 != 0), x.1 = k := by
        obtain ⟨x, hx, hk⟩ := hm; exact ⟨x, List.mem_append_left _ hx, hk⟩
      rw [if_pos this, if_pos hm, hf1]; simp [h1]
    · have hn : ¬ ∃ x ∈ List.filter (fun x => decide (x.1 < a)) m ++ ((List.range vs.length).map (a + ·) |>.zip vs).filter (fun x => x.2 != 0), x.1 = k := by
        rintro ⟨x, hx, hk⟩
        rcases List.mem_append.1 hx with hx | hx
        · exact hm ⟨x, hx, hk⟩
        · have := key x hx; omega
      rw [if_neg hn, hf2]
      have : ¬ a + vs.length ≤ k := by omega
      simp only [this, decide_false, Bool.false_eq_true, if_false]
      -- not listed
      have : Cells.get (m.filter fun x => decide (x.1 < a)) k = 0 := by
        generalize List.filter (fun x => decide (x.1 < a)) m = l at hm
        induction l with
        | nil => rfl
        | cons y l ih =>
          obtain ⟨b, v⟩ := y
          rw [Cells.get_cons, if_neg (by intro h; exact hm ⟨(b, v), by simp, h⟩)]
          exact ih (by rintro ⟨x, hx, hk⟩; exact hm ⟨x, by simp [hx], hk⟩)
      rw [hf1] at this
      simpa [h1] using this.symm
  · have hm : ¬ ∃ x ∈ List.filter (fun x => decide (x.1 < a)) m, x.1 = k := by
      rintro ⟨x, hx, hk⟩
      have := (List.mem_filter.1 hx).2
      simp at this; omega
    by_cases h2 : k < a + vs.length
    · rw [if_pos (show a ≤ k ∧ k < a + vs.length by omega)]
      have hz := Cells.get_zip_range vs a k
      rw [if_pos (by omega)] at hz
      rw [if_neg hm]
      by_cases hx : ∃ x ∈ List.filter (fun x => decide (x.1 < a)) m ++ ((List.range vs.length).map (a + ·) |>.zip vs).filter (fun x => x.2 != 0), x.1 = k
      · rw [if_pos hx]; exact hz
      · rw [if_neg hx, hf2]
        have : ¬ a + vs.length ≤ k := by omega
        simp only [this, decide_false, Bool.false_eq_true, if_false]
        have : Cells.get (((List.range vs.length).map (a + ·) |>.zip vs).filter (fun x => x.2 != 0)) k = 0 := by
          have hx' : ¬ ∃ x ∈ ((List.range vs.length).map (a + ·) |>.zip vs).filter (fun x => x.2 != 0), x.1 = k := by
            rintro ⟨x, h, hk⟩; exact hx ⟨x, List.mem_append_right _ h, hk⟩
          generalize ((List.range vs.length).map (a + ·) |>.zip vs).filter (fun x => x.2 != 0) = l at hx'
          induction l with
          | nil => rfl
          | cons y l ih =>
            obtain ⟨b, v⟩ := y
            rw [Cells.get_cons, if_neg (by intro h; exact hx' ⟨(b, v), by simp, h⟩)]
            exact ih (by rintro ⟨x, hx, hk⟩; exact hx' ⟨x, by simp [hx], hk⟩)
        rw [← hz, this]
    · rw [if_neg (show ¬(a ≤ k ∧ k < a + vs.length) by omega)]
      have hx : ¬ ∃ x ∈ List.filter (fun x => decide (x.1 < a)) m ++ ((List.range vs.length).map (a + ·) |>.zip vs).filter (fun x => x.2 != 0), x.1 = k := by
        rintro ⟨x, h, hk⟩
        rcases List.mem_append.1 h with h | h
        · exact hm ⟨x, h, hk⟩
        · have := key x h; omega
      rw [if_neg hx, hf2]
      have : a + vs.length ≤ k := by omega
      simp [this]

end Sys2Proof.Machine
end

