-- ==== Sys2Proof/Tests/Slice0.lean ====
section
/-! SUPPORT. The model's own tests: terms that `WellFormed` refuses, words decoded, one named witness for the hypotheses
of each statement, and single steps whose results the spec gives. -/

namespace Sys2Proof.Tests

open Host Sys2Proof Sys2Proof.Machine

/-- A control part with its V and D alone. -/
def k (v d : Fin 4) : Ctl := { v := v, d := d }

/-- Every list of words decodes to its instruction with nothing left over, and is what the encoder gives. -/
def decodeAll (l : List (List Nat × Instr)) : Bool :=
  l.all fun (ws, i) =>
    (match decodeWords ws with
      | .ok (j, []) => j == i
      | _ => false) && encode i == ws

/-- S words, ALU groups to PREF (R38 to R41): words put together from the encoding tables. -/
theorem test_decode_scalar_1 : decodeAll [
    ([0x12064640], .add (k 2 1) 25 3 4),
    ([0x0400DA21], .sub (k 0 2) 3 13 2),
    ([0x060688F2], .mul (k 0 3) 26 4 15),
    ([0x0600CEE3], .mulhi (k 0 3) 3 7 14),
    ([0x0600DC24], .mulhn (k 0 3) 3 14 2),
    ([0x0C069275], .div (k 1 2) 26 9 7),
    ([0x12019976], .divn (k 2 1) 6 12 23),
    ([0x0000DBF7], .rem (k 0 0) 3 13 31),
    ([0x1C077B78], .remn (k 3 2) 29 29 23),
    ([0x1202DE59], .and (k 2 1) 11 15 5),
    ([0x1605792A], .or (k 2 3) 21 28 18),
    ([0x0006955B], .xor (k 0 0) 26 10 21),
    ([0x0E06844C], .andn (k 1 3) 26 2 4),
    ([0x1405BFDD], .shl (k 2 2) 22 31 29),
    ([0x00047C4E], .shr (k 0 0) 17 30 4),
    ([0x0407258F], .sar (k 0 2) 28 18 24),
    ([0x100F6CA0], .rol (k 2 0) 29 22 10),
    ([0x0608DB21], .min (k 0 3) 3 13 18)] = true := by decide

/-- S words, ALU groups to PREF (R38 to R41): words put together from the encoding tables. -/
theorem test_decode_scalar_2 : decodeAll [
    ([0x0A0E73F2], .max (k 1 1) 25 25 31),
    ([0x020F3313], .minn (k 0 1) 28 25 17),
    ([0x0E0C7564], .maxn (k 1 3) 17 26 22),
    ([0x1A0A4A05], .clz (k 3 1) 9 5),
    ([0x0A0B9C06], .popc (k 1 1) 14 14),
    ([0x060AE007], .brev (k 0 3) 11 16),
    ([0x1012757A], .sel (k 2 0) 9 26 23 true 2),
    ([0x0619B397], .cmp (k 0 3) 6 25 25 .gen),
    ([0x06218030], .pand (k 0 3) 6 0 3),
    ([0x0221C411], .por (k 0 1) 7 2 1),
    ([0x10204022], .pxor (k 2 0) 1 0 2),
    ([0x04200203], .pnot (k 0 2) 0 1),
    ([0x0E2A616B], .lea (k 1 3) 9 16 22 11),
    ([0x1831C220], .getc (k 3 0) 7 (.dt 2)),
    ([0x1E3F8220], .setc (k 3 3) 30 (.dt 2)),
    ([0x0241AB0F], .addi (k 0 1) 6 21 271),
    ([0x1A485B72], .andi (k 3 1) 1 13 370),
    ([0x0854CB0B], .ori (k 1 0) 19 5 267)] = true := by decide

/-- S words, ALU groups to PREF (R38 to R41): words put together from the encoding tables. -/
theorem test_decode_scalar_3 : decodeAll [
    ([0x125D9D51], .xori (k 2 1) 22 14 337),
    ([0x0A63F228], .shli (k 1 1) 15 25 40),
    ([0x0E6D821C], .shri (k 1 3) 22 1 28),
    ([0x16741820], .sari (k 2 3) 16 12 32),
    ([0x1C7DCA4F], .li (k 3 2) 23 2639),
    ([0x0892EAD1], .cmpi (k 1 0) 3 21 209 .gtn),
    ([0x18A07ABE], .br (k 3 0) 31422),
    ([0x10A9B306], .brc (k 2 0) 1 true 13062),
    ([0x1AB06F15], .call (k 3 1) 28437),
    ([0x10B83200], .ret (k 2 0) 25),
    ([0x1EC00AA0], .jtab (k 3 3) 5 10),
    ([0x0AC85202], .loop (k 1 1) 1 9 true false),
    ([0x1CD027E9], .loopend (k 3 2) 10217),
    ([0x08D80000], .brk (k 1 0) 0),
    ([0x02E6C006], .slate (k 0 1) 27 6),
    ([0x08E80000], .retire (k 1 0)),
    ([0x1313E909], .lds (k 2 1) .w 15 20 265),
    ([0x1B25BBAE], .sts (k 3 1) .b 22 29 430)] = true := by decide

/-- S words, ALU groups to PREF (R38 to R41): words put together from the encoding tables. -/
theorem test_decode_scalar_4 : decodeAll [
    ([0x0B471604], .ld (k 1 1) .b 28 11 4),
    ([0x0B6F8E3F], .st (k 1 1) .h 30 7 63),
    ([0x1780DEE3], .ldp (k 2 3) .b 3 15 3 35),
    ([0x01A849C6], .amo (k 0 0) true 1 4 28 .minn),
    ([0x0DBF9F00], .cas (k 1 2) true 30 15 16),
    ([0x0FC23470], .enq (k 1 3) 8 26 7),
    ([0x1FCD08F0], .deq (k 3 3) 20 4 15),
    ([0x19D08005], .fence (k 3 0) .rel .domain),
    ([0x03D80000], .xfence (k 0 1)),
    ([0x13E02085], .cmo (k 2 1) 16 8 .inval true),
    ([0x07E854E5], .pref (k 0 3) true 10 229),
    ([0x0FF18000], .postS (k 1 3) 6),
    ([0x17F0C001], .waitS (k 2 3) 3),
    ([0x15F00002], .rdv (k 2 2))] = true := by decide

/-- Y words (R42): words put together from the encoding tables. -/
theorem test_decode_system_1 : decodeAll [
    ([0x84000350], .binit (k 0 2) 1 21),
    ([0x9E080380], .barv (k 3 3) 1 24),
    ([0x94100870], .bexp (k 2 2) 4 7),
    ([0x88180A00], .bwait (k 1 0) 5),
    ([0x94200000], .yield_ (k 2 2)),
    ([0x822C4000], .pchk (k 0 1) 17),
    ([0x8E302000], .budg (k 1 3) 16),
    ([0x9A383E00], .segwait (k 3 1) 31),
    ([0x90402230], .accept (k 2 0) 17 3),
    ([0x8E480800], .commit (k 1 3) 4),
    ([0x90500A01], .timewait (k 2 0) 5 true),
    ([0x82580900], .ttarm (k 0 1) 4 16),
    ([0x8660000B], .syscall (k 0 3) 11),
    ([0x96680112], .trap (k 2 3) 274),
    ([0x88701E70], .sqtrap (k 1 0) 15 112),
    ([0x8C7806B0], .telm (k 1 2) 3 11),
    ([0x8C84DA00], .frzinfo (k 1 2) 19 13),
    ([0x968AE20B], .frzrd (k 2 3) 11 17 11)] = true := by decide

/-- Y words (R42): words put together from the encoding tables. -/
theorem test_decode_system_2 : decodeAll [
    ([0x84900400], .frzwr (k 0 2) 2 0 0),
    ([0x8E9BF860], .frzld (k 1 3) 15 28 6),
    ([0x9EA666D0], .frzst (k 3 3) 25 19 13),
    ([0x8CA81880], .frzarv (k 1 2) 12 8),
    ([0x9CB00680], .frzres (k 3 2) 3 8),
    ([0x80B82000], .frzkil (k 0 0) 16),
    ([0x9AC00600], .haltx (k 3 1) 3)] = true := by decide

/-- Short V words (R43): words put together from the encoding tables. -/
theorem test_decode_vector : decodeAll [
    ([0x26121F4B], .vadd (k 0 3) ⟨4, .diag, 0⟩ ⟨3, .anti, 2⟩ ⟨4, .diag, 3⟩),
    ([0x262BD444], .vsub (k 0 3) ⟨2, .anti, 3⟩ ⟨2, .diag, 0⟩ ⟨4, .col, 0⟩),
    ([0x3850EED4], .vmul (k 3 0) ⟨4, .row, 3⟩ ⟨5, .anti, 1⟩ ⟨5, .col, 0⟩),
    ([0x326227B7], .vfma (k 2 1) ⟨0, .diag, 0⟩ ⟨4, .anti, 3⟩ ⟨3, .col, 3⟩),
    ([0x32802AE1], .vfms (k 2 1) ⟨0, .row, 0⟩ ⟨5, .col, 1⟩ ⟨6, .row, 1⟩),
    ([0x26B1D9BF], .vmin (k 0 3) ⟨4, .col, 3⟩ ⟨3, .row, 3⟩ ⟨3, .anti, 3⟩),
    ([0x20D0CB24], .vmax (k 0 0) ⟨4, .row, 3⟩ ⟨1, .col, 2⟩ ⟨2, .col, 0⟩),
    ([0x38F90280], .vabs (k 3 0) ⟨6, .col, 0⟩ ⟨0, .col, 1⟩),
    ([0x350ECA80], .vneg (k 2 2) ⟨3, .diag, 3⟩ ⟨1, .col, 1⟩),
    ([0x2F34FF00], .vmov (k 1 3) ⟨5, .row, 3⟩ ⟨7, .anti, 2⟩),
    ([0x2D494580], .vrsum (k 1 2) ⟨2, .col, 1⟩ ⟨0, .diag, 3⟩),
    ([0x3B611D00], .vrmax (k 3 1) ⟨0, .col, 0⟩ ⟨3, .diag, 2⟩),
    ([0x21829100], .vrmin (k 0 0) ⟨0, .diag, 2⟩ ⟨2, .row, 2⟩),
    ([0x31B83980], .vrssq (k 2 0) ⟨6, .row, 0⟩ ⟨7, .row, 3⟩),
    ([0x21CFBE80], .vexp2 (k 0 0) ⟨3, .anti, 2⟩ ⟨7, .anti, 1⟩)] = true := by decide

/-- M words (R45): words put together from the encoding tables. -/
theorem test_decode_vat : decodeAll [
    ([0x50000000], .mlease (k 2 0)),
    ([0x58100000], .mfree (k 3 0)),
    ([0x402F0010], .mstrl (k 0 0) 15 16),
    ([0x4437000D], .mstrs (k 0 2) 7 13),
    ([0x4E4F0304], .mstrf (k 1 3) 15 4 24),
    ([0x5C500002], .mnest (k 3 2) 2),
    ([0x4864A068], .mmm (k 1 0) 4 10 8 true true),
    ([0x46710031], .mmc (k 0 3) 1 17 true),
    ([0x4280001F], .aclr (k 0 1) 31),
    ([0x549003FD], .ard (k 2 2) 7 3 29),
    ([0x42A0021E], .awr (k 0 1) 4 0 30),
    ([0x44B003A4], .acpyToCoreStore (k 0 2) 4 29),
    ([0x5CB0070D], .acpyToAccumulator (k 3 2) 13 24),
    ([0x48C00005], .mchk (k 1 0) 5),
    ([0x4CD0000A], .mwait (k 1 2) true 2),
    ([0x50E00005], .postM (k 2 0) 5),
    ([0x4EF00007], .waitM (k 1 3) 7)] = true := by decide

/-- C words (R46): words put together from the encoding tables. -/
theorem test_decode_copy : decodeAll [
    ([0x78050000], .cpy (k 3 0) 10 0),
    ([0x7E1CCD20], .cgth (k 3 3) 25 19 9),
    ([0x7C2C50E0], .csct (k 3 2) 24 20 7),
    ([0x703A5720], .cbcst (k 2 0) 20 21 25),
    ([0x62404A00], .xput (k 0 1) 0 18 16),
    ([0x705CE000], .xget (k 2 0) 25 24),
    ([0x646DC460], .kvapp (k 0 2) 27 17 3),
    ([0x7071C920], .kvcmp (k 2 0) 3 18 9),
    ([0x6C8DD180], .seghold (k 1 2) 27 20 12),
    ([0x76900006], .cwait (k 2 3) false 6),
    ([0x68A00000], .ccncl (k 1 0)),
    ([0x66B00007], .postC (k 0 3) 7),
    ([0x6CC00007], .waitC (k 1 2) 7)] = true := by decide

/-- X words (R47): words put together from the encoding tables. -/
theorem test_decode_tap : decodeAll [
    ([0xA20BE000], .tapsel (k 0 1) 5 30),
    ([0xBC333040], .tapstr (k 3 2) 9 19 4),
    ([0xB64F3F60], .tapdot (k 2 3) 7 19 30 6),
    ([0xA26A4683], .tapeval (k 0 1) 5 4 13 3),
    ([0xAE815000], .tapclr (k 1 3) 21),
    ([0xBEA8C780], .taprd (k 3 3) 4 12 15),
    ([0xA2D45A00], .tapprb (k 0 1) 10 5 20),
    ([0xACE10600], .tapstv (k 1 2) 16 12),
    ([0xA7000006], .postX (k 0 3) 6),
    ([0xBB200006], .waitX (k 3 1) 6)] = true := by decide

/-- Long V words with their kind 0b10 word (R44): words put together from the encoding tables. -/
theorem test_decode_vectorLong_1 : decodeAll [
    ([0x3DF16B0F, 0xF0800000], .viadd (k 3 2) ⟨4, .col, 1⟩ ⟨5, .col, 2⟩ ⟨0, .anti, 3⟩),
    ([0x25F71037, 0xF0880000], .visub (k 0 2) ⟨5, .anti, 0⟩ ⟨2, .row, 0⟩ ⟨3, .col, 3⟩),
    ([0x3FEFF166, 0xF0900000], .vimul (k 3 3) ⟨3, .anti, 3⟩ ⟨6, .row, 2⟩ ⟨6, .col, 2⟩),
    ([0x27F3C2A0, 0xF0980000], .vimac (k 0 3) ⟨4, .anti, 3⟩ ⟨0, .col, 1⟩ ⟨2, .row, 0⟩),
    ([0x27FE7E80, 0xF0A00000], .vimin (k 0 3) ⟨7, .diag, 1⟩ ⟨7, .anti, 1⟩ ⟨0, .row, 0⟩),
    ([0x23FDF93F, 0xF0A80000], .vimax (k 0 1) ⟨7, .col, 3⟩ ⟨7, .row, 2⟩ ⟨3, .anti, 3⟩),
    ([0x39E9D31B, 0xF0B00000], .vshl (k 3 0) ⟨2, .col, 3⟩ ⟨2, .col, 2⟩ ⟨1, .diag, 3⟩),
    ([0x29E28020, 0xF0B80000], .vshr (k 1 0) ⟨0, .diag, 2⟩ ⟨0, .row, 0⟩ ⟨2, .row, 0⟩),
    ([0x39F35040, 0xF0C00000], .vsar (k 3 0) ⟨4, .anti, 1⟩ ⟨2, .row, 0⟩ ⟨4, .row, 0⟩),
    ([0x2FE6494C, 0xF0C80000], .vand (k 1 3) ⟨1, .diag, 1⟩ ⟨1, .row, 2⟩ ⟨4, .anti, 0⟩),
    ([0x25F09C80, 0xF0D00000], .vor (k 0 2) ⟨4, .row, 2⟩ ⟨3, .diag, 1⟩ ⟨0, .row, 0⟩),
    ([0x2FFD63D0, 0xF0D80000], .vxor (k 1 3) ⟨7, .col, 1⟩ ⟨4, .col, 3⟩ ⟨5, .row, 0⟩),
    ([0x3DE0DF87, 0xF1000008], .vcmp (k 3 2) 3 ⟨3, .anti, 3⟩ ⟨0, .col, 3⟩ .len),
    ([0x21EF1F87, 0xF1080002], .vsel (k 0 0) ⟨3, .anti, 0⟩ ⟨3, .anti, 3⟩ ⟨0, .col, 3⟩ 2),
    ([0x2FEF1F80, 0xF110000D], .vcvt (k 1 3) ⟨3, .anti, 0⟩ ⟨3, .anti, 3⟩ .bf16),
    ([0x39EF1F80, 0xF1187005], .vqnt (k 3 0) ⟨3, .anti, 0⟩ ⟨3, .anti, 3⟩ ⟨0, .col, 3⟩ .q4g64),
    ([0x33EFDE00, 0xF1207009], .vdqnt (k 2 1) ⟨3, .anti, 3⟩ ⟨3, .anti, 0⟩ ⟨0, .col, 3⟩ .q8g128),
    ([0x3DEFC380, 0xF1400000], .vlog2 (k 3 2) ⟨3, .anti, 3⟩ ⟨0, .col, 3⟩)] = true := by decide

/-- Long V words with their kind 0b10 word (R44): words put together from the encoding tables. -/
theorem test_decode_vectorLong_2 : decodeAll [
    ([0x2FEFC380, 0xF1480000], .vrcp (k 1 3) ⟨3, .anti, 3⟩ ⟨0, .col, 3⟩),
    ([0x25EFC380, 0xF1500000], .vrsq (k 0 2) ⟨3, .anti, 3⟩ ⟨0, .col, 3⟩),
    ([0x21E14B00, 0xF1806000], .vimaxIdx (k 0 0) 5 ⟨1, .col, 2⟩ 6),
    ([0x3DEF0E80, 0xF1C00000], .vbcst (k 3 2) ⟨3, .anti, 0⟩ 29),
    ([0x3BEF0880, 0xF1C80FFE], .vld (k 3 1) ⟨3, .anti, 0⟩ 17 0xFFE),
    ([0x25EFC180, 0xF1D00801], .vst (k 0 2) ⟨3, .anti, 3⟩ 3 0x801),
    ([0x23EF0487, 0xF1D80000], .vgth (k 0 1) ⟨3, .anti, 0⟩ 9 ⟨0, .col, 3⟩),
    ([0x3BEF1F87, 0xF1E0006A], .vperm (k 3 1) ⟨3, .anti, 0⟩ ⟨3, .anti, 3⟩ ⟨0, .col, 3⟩ 0x6A),
    ([0x33EF1F87, 0xF1E80015], .vshf (k 2 1) ⟨3, .anti, 0⟩ ⟨3, .anti, 3⟩ ⟨0, .col, 3⟩ 0x15),
    ([0x2FEF1F80, 0xF1F00002], .vscan (k 1 3) ⟨3, .anti, 0⟩ ⟨3, .anti, 3⟩ .min),
    ([0x2DE00A80, 0xF2000AF3], .vkset (k 1 2) 3 21 700),
    ([0x31E00000, 0xF2080015], .vkadd (k 2 0) 1 0 5),
    ([0x3BE04103, 0xF2100000], .mskand (k 3 1) 1 2 3),
    ([0x2FE0C082, 0xF2180000], .mskor (k 1 3) 3 1 2),
    ([0x39E00181, 0xF2200000], .mskxor (k 3 0) 0 3 1),
    ([0x2FE08080, 0xF2280000], .msknot (k 1 3) 2 1),
    ([0x23E0CF00, 0xF2300000], .mskmov (k 0 1) 3 30),
    ([0x23E04580, 0xF2380000], .mskget (k 0 1) 11 1)] = true := by decide

/-- Long V words with their kind 0b10 word (R44): words put together from the encoding tables. -/
theorem test_decode_vectorLong_3 : decodeAll [
    ([0x39EF0380, 0xF2413001], .vrand (k 3 0) ⟨3, .anti, 0⟩ 7 19 true),
    ([0x23E00000, 0xF2600006], .postV (k 0 1) 6),
    ([0x3FE00000, 0xF2680003], .waitV (k 3 3) 3)] = true := by decide

/-- The reason for which the decoder refuses a list of words. -/
def refusal (ws : List Nat) : Option DecErr :=
  match decodeWords ws with
  | .ok _ => none
  | .error r => some r

/-- What the decoder refuses (R24, R35, R36, R39, R41, R44). -/
theorem test_decode_refusals :
    refusal [] = some .noWord ∧ refusal [0xC0000000] = some .engine ∧ refusal [0xE0000000] = some .orphanExt
      ∧ refusal [0x00004430, 0xF8000000] = some .extKind ∧ refusal [0x00004430, 0xE8000000, 0xE8000000] = some .extDuplicate
      ∧ refusal [0x00004430, 0xE8600000] = some .modUnassigned ∧ refusal [0x00004430, 0xE8050000] = some .modUnassigned
      ∧ refusal [0x00004430, 0xE8000700] = some .modUnassigned ∧ refusal [0x00004430, 0xE8000030] = some .modUnassigned
      ∧ refusal [0x00004430, 0xE0000001] = some .extRefused ∧ refusal [0x00004430, 0xF0800000] = some .extRefused
      ∧ refusal [0x21E00000] = some .longMissing ∧ refusal [0x00980000] = some .opUnassigned := by decide

/-- The modifier word in bits: TYPE 1 (I4), RND 5, SAT, MASK 2, GEN, GNEG, GP 5, SCOPE 3, ORD 2, FLUSH 1 on ADD S1, S2, S3 (R36, R37). -/
theorem test_decode_modifier :
    decodeAll [([0x00004430, 0b11101000110110101110101110010000],
      .add { mods := some { type := .i4, rnd := .dth, sat := true, mask := .l2, gen := true, gneg := true, gp := 5,
                            scope := .station, ord := .release, flush := .flush } } 1 2 3)] = true := by decide

/-- Immediates extended by one and by two EXT words: LI, ADDI (R35). -/
theorem test_decode_immediates :
    decodeAll [([0x007FFFFF % 2 ^ 14 + 0x00780000, 0xE0000001], .li { imms := [1] } 0 0x3FFF),
      ([0x00404401, 0xE0000002, 0xE7FFFFFF], .addi { imms := [2, 0x7FFFFFF] } 1 2 1)] = true := by decide

/-- The words in memory's byte order (R7), and a nonzero reserved bit kept as such (R32). -/
theorem test_decode_bytes_and_reserved :
    decodeTableWord 32 0x00004430 = some (.add {} 1 2 3)
      ∧ (decodeWords [0x00E80001]).toOption = some (.retire { rsv := true }, []) := by decide

/-- One ill-formed term for each check of `Instr.wf`, and a well-formed one beside it. -/
theorem test_wf_reserved : (Instr.add { rsv := true } 1 2 3).wf = false ∧ (Instr.add {} 1 2 3).wf = true := by decide

theorem test_wf_ext_words :
    (Instr.addi { imms := [1, 2], mods := some {} } 1 2 3).wf = false ∧ (Instr.addi { imms := [1, 2] } 1 2 3).wf = true
      ∧ (Instr.viadd { imms := [0], mods := some {} } ⟨0, .row, 0⟩ ⟨1, .row, 0⟩ ⟨2, .row, 0⟩).wf = false
      ∧ (Instr.viadd { mods := some {} } ⟨0, .row, 0⟩ ⟨1, .row, 0⟩ ⟨2, .row, 0⟩).wf = true := by decide

theorem test_wf_immediate_kinds :
    (Instr.add { imms := [1] } 1 2 3).wf = false ∧ (Instr.loop { imms := [1] } 1 2 false true).wf = false
      ∧ (Instr.loop { imms := [0] } 1 2 false true).wf = true := by decide

theorem test_wf_fields :
    (Instr.shli {} 1 2 64).wf = false ∧ (Instr.shri {} 1 2 64).wf = false ∧ (Instr.sari {} 1 2 64).wf = false
      ∧ (Instr.shli {} 1 2 63).wf = true ∧ (Instr.fence {} .acq .unset).wf = false ∧ (Instr.fence {} .acq .thread).wf = true
      ∧ (Instr.vperm {} ⟨0, .row, 0⟩ ⟨1, .row, 0⟩ ⟨2, .row, 0⟩ 63).wf = false
      ∧ (Instr.vperm {} ⟨0, .row, 0⟩ ⟨1, .row, 0⟩ ⟨2, .row, 0⟩ 64).wf = true := by decide

/-- A placed word is the next thing that steps: ADDI S1, S0, 7 issues, leaves its queue and puts 7 in flight for S1 (R83, R29). -/
theorem test_placed_word_runs :
    (match step (State.reset.withFetchWord 32 0x00404007) with
      | .next s => (((s.thread ⟨0, 0, 0⟩).queue .s).es.length, (s.thread ⟨0, 0, 0⟩).pend.map (·.ws))
      | _ => (9, [])) = (0, [[.s 1 7]]) := by decide

/-! Witnesses. One theorem for each statement that has hypotheses, named after it: a concrete state that meets them, with its
clauses at values where they meet. -/

/-- A supervisor thread that every resource is granted to. -/
def top : Thread := { status := .running, slotHeld := true, hdr := fullHeader, priv := .supervisor }

/-- The thread with one entry at the head of a queue. -/
def on (q : QName) (th : Thread) (e : Entry := {}) : Thread := th.setQueue q { es := [e] }

/-- A module after reset in which thread context 0 of core 0 of station 0 holds that thread, about to issue from that queue. -/
def at_ (q : QName) (th : Thread) (e : Entry := {}) (s : State := .reset) : State :=
  { s.setThread ⟨0, 0, 0⟩ (on q th e) with cur := (⟨0, 0, 0⟩, q) }

/-- The thread with a value in a scalar register. -/
def rs (th : Thread) (i : Nat) (v : Word) : Thread := { th with s := Cells.set th.s i v }

/-- A word without modifiers and without a token that stands at the head can run. -/
theorem can {s : State} {c : Ctl} {e : Entry} (h : (s.thread s.cur.1).head s.cur.2 = some e) (hv : c.v.val ≠ 3) (hm : c.mods = none) :
    s.CanRun c e (s.thread s.cur.1) :=
  ⟨h, by simp [tokenGate, hv], by simp [Ctl.guardHolds, hm]⟩

/-- The thread that runs in `at_`. -/
abbrev thOf (s : State) : Thread := s.thread s.cur.1

theorem witness_ScalarArithmetic :
    let a := at_ .s top
    let b := at_ .s (rs (rs top 1 (BitVec.intMin 64)) 2 (BitVec.allOnes 64))
    (a.CanRun {} {} (thOf a) ∧ (thOf a).readS 0 2 = 0)
      ∧ (b.CanRun {} {} (thOf b) ∧ (thOf b).readS 0 2 ≠ 0 ∧ (thOf b).readS 0 1 = BitVec.intMin 64 ∧ (thOf b).readS 0 2 = BitVec.allOnes 64) :=
  ⟨⟨can rfl (by decide) rfl, by decide⟩, can rfl (by decide) rfl, by decide, by decide, by decide⟩

/-- Also with a token of V = 3 that is there, and with a guard that holds. -/
theorem witness_ScalarImmediates :
    let a := at_ .s { top with tok := [(2, [none])] }
    let c : Ctl := { v := 3, d := 2, mods := some { gen := true, gneg := true, gp := 5 } }
    a.CanRun c {} ((thOf a).consume .s 2 |>.setHead .s { tok := true }) :=
  ⟨rfl, by decide, by decide⟩

theorem witness_ControlRegisters :
    let a := at_ .s top
    let u := at_ .s { top with priv := .user }
    (a.CanRun {} {} (thOf a) ∧ (thOf a).priv ≠ .user) ∧ (u.CanRun {} {} (thOf u) ∧ (thOf u).priv = .user) :=
  ⟨⟨can rfl (by decide) rfl, by decide⟩, can rfl (by decide) rfl, by decide⟩

theorem witness_ControlTransfer :
    let w (lc ec : Word) (pc : Word) := at_ .s (rs ({ top with spl := { stop := .transfer 0 } }.setCreg 0x028 lc |>.setCreg 0x029 ec) 1 pc)
    (∀ lc ec pc, (w lc ec pc).CanRun {} {} (thOf (w lc ec pc)) ∧ (thOf (w lc ec pc)).spl.stop = .transfer 0)
      ∧ ((thOf (w 0 0 4)).readS 0 1).toNat % 4 = 0 ∧ ((thOf (w 0 0 7)).readS 0 1).toNat % 4 ≠ 0
      ∧ ((thOf (w 1 0 0)).creg 0x028).toNat ≠ 0
      ∧ (((thOf (w 0 2 0)).creg 0x028).toNat = 0 ∧ 1 < ((thOf (w 0 2 0)).creg 0x029).toNat % 256)
      ∧ (((thOf (w 0 1 0)).creg 0x028).toNat = 0 ∧ ((thOf (w 0 1 0)).creg 0x029).toNat % 256 ≤ 1) :=
  ⟨fun _ _ _ => ⟨can rfl (by decide) rfl, rfl⟩, by decide, by decide, by decide, by decide, by decide⟩

theorem witness_TrapWords :
    let a := at_ .s { top with ctx := 15, preq := some ⟨1, 9, 0, 0⟩ }
    let b := at_ .s { top with ctx := 15 } {} (State.reset.setCb 0 0x1A90 0x8000)
    (a.CanRun {} {} (thOf a) ∧ (thOf a).ctx < 16 ∧ (a.cb 0 0x1A90).getLsbD 15 = false ∧ (thOf a).preq = some ⟨1, 9, 0, 0⟩ ∧ 0 ≤ a.cyc)
      ∧ b.CanRun {} {} (thOf b) ∧ (b.cb 0 0x1A90).getLsbD 15 = true ∧ ∀ r, (thOf b).preq = some r → b.cyc < r.seen :=
  ⟨⟨can rfl (by decide) rfl, by decide, by decide, rfl, by decide⟩, can rfl (by decide) rfl, by decide, nofun⟩

theorem witness_TimeWords :
    let seg := at_ .s { top with segExp := 17280, segLen := 64, slate := [(7, 100)] }
    let w (s : State) (c : Nat) : State := { s with cyc := c }
    let tk := at_ .s { top with tok := [(7, [none])] }
    let no := at_ .s { top with hdr := 0 }
    let full := at_ .s { top with tok := [(7, List.replicate 15 none)] }
    let early := at_ .s { top with qv := { es := [{ seq := 0 }] } } { seq := 1 }
    (∀ c, (w seg c).CanRun {} {} (thOf (w seg c))) ∧ ((thOf seg).segExp ≠ 0 ∧ ((thOf seg).readS 0 0).toNat < 256 + (thOf seg).segLen)
      ∧ (Cells.get (thOf seg).slate 7).toNat + 8 + 0 / 6400 ≤ (w seg 108).cyc ∧ (w seg 107).cyc < (Cells.get (thOf seg).slate 7).toNat + 8 + 0 / 6400
      ∧ (tk.CanRun {} {} (thOf tk) ∧ (thOf tk).segExp = 0 ∧ 7 < (thOf tk).tokenCount ∧ (thOf tk).tokens 7 ≠ [] ∧ (thOf tk).tokens 6 = []
        ∧ tk.postReady tk.cur.1 tk.cur.2 0 = true ∧ (thOf tk).tokensHeld 7 < 15)
      ∧ (full.CanRun {} {} (thOf full) ∧ 15 ≤ (thOf full).tokensHeld 7) ∧ (no.CanRun {} {} (thOf no) ∧ (thOf no).tokenCount ≤ 0)
      ∧ (∀ x ∈ (thOf tk).entries, 0 ≤ x.seq) ∧ (early.CanRun {} { seq := 1 } (thOf early) ∧ ∃ x ∈ (thOf early).entries, x.seq < 1) :=
  ⟨fun _ => can rfl (by decide) rfl, by decide, by decide, by decide,
    ⟨can rfl (by decide) rfl, by decide, by decide, by decide, by decide, by decide, by decide⟩, ⟨can rfl (by decide) rfl, by decide⟩,
    ⟨can rfl (by decide) rfl, by decide⟩, by decide, can rfl (by decide) rfl, by decide⟩

/-- A TIMEWAIT that had slipped, and one whose time has just come. -/
theorem witness_TimeWords_slip :
    let s := { at_ .s top with tb := 0x100000000, tbskew := 0xFFFFFFFF }
    s.CanRun {} {} (thOf s) ∧ 0 + s.tbskew.toNat < s.tb ∧ ¬ 1 + s.tbskew.toNat < s.tb ∧ (0x100000000 : Word).toNat ≤ s.tb ∧ s.tb < (0x100000001 : Word).toNat :=
  ⟨can rfl (by decide) rfl, by decide, by decide, by decide, by decide⟩

/-- What an ordered form that orders nothing goes on with, and one that releases at THREAD scope. -/
theorem passes_plain (x : Ctx) (s : State) (side : Side) (w : Scope) (h : x.c.mods = none) :
    x.Passes s side w .unset .plain (x.flag s (flagIf false flMODWARN)) :=
  ⟨by simp [Ctl.ordering, h], by simp [Ctl.ordering, h], by simp [Order.releases]⟩

theorem witness_CoreStoreWords :
    let a := at_ .s (rs { top with pw := [(7, [1, 2, 3, 4])] } 1 (BitVec.ofNat 64 (768 * 4096 - 8)))
    let x := a.ctx {} {}
    let rel : Ctl := { mods := some { scope := .thread, ord := .release } }
    a.CanRun {} {} (thOf a) ∧ (∃ t, x.Passes (a.setThread a.cur.1 (thOf a)) .load .station .unset .plain t)
      ∧ (let A := (thOf a).readS 0 1; A.toNat % 8 = 0 ∧ A.toNat + 8 ≤ (thOf a).csBytes ∧ (A + 8).toNat % 8 = 0 ∧ (thOf a).csBytes < (A + 8).toNat + 8
        ∧ (A + 1).toNat % 8 ≠ 0)
      ∧ (Tab.has (thOf a).pw 7 = true ∧ Tab.has (thOf a).pw 0 = false) ∧ (∀ f ∈ (thOf a).soft, QName.s ∈ f.seen)
      ∧ ∃ t, (a.ctx rel {}).Passes a .store .station .thread .release t :=
  ⟨can rfl (by decide) rfl, ⟨_, passes_plain _ _ _ _ rfl⟩, by decide, by decide, by decide,
    ⟨_, { ord := by decide, released := fun _ => ⟨_, _, rfl, by decide, rfl⟩, plain := fun h => absurd h (by decide) }⟩⟩

/-- A pair by its parts. -/
theorem pr {α β : Type} (p : α × β) : p = (p.1, p.2) := rfl

/-- A cached leaf: the page 0x1000 of context 0 at the physical page 0x4000 of station 0 of this module. -/
def leaf0 : Leaf := { ctx := 0, va := 0x1000, span := 4096, pa := 0x4000, r := true, w := true, x := true, u := true, nc := false, mp := 0 }

/-- A module after reset whose core 0 of station 0 holds that leaf. -/
def mapped : State := State.reset.modCore 0 0 fun c => { c with mutlb := [leaf0] }

theorem witness_MemoryWords :
    let a := at_ .s (rs top 1 0x1008) {} mapped
    let full := at_ .s (rs { top with sb := List.replicate 16 { id := 0, e := {}, va := 0, size := 1, v := 0 } } 1 0x1008) {} mapped
    let far := at_ .s (rs top 1 0x9000) {} mapped
    let bad := at_ .s (rs top 1 0x0200000000000000) {} mapped
    let tg (s : State) (acc : Access) := (s.ctx {} {}).target (s.setThread s.cur.1 (thOf s)) ((thOf s).readS 0 1) acc 8
    (a.CanRun {} {} (thOf a) ∧ full.CanRun {} {} (thOf full) ∧ far.CanRun {} {} (thOf far) ∧ bad.CanRun {} {} (thOf bad))
      ∧ (0x1008 % 8 = 0 ∧ 0x1008 % 16 ≠ 0 ∧ (0x1009 : Nat) % 2 ≠ 0)
      ∧ (tg a .read = .at_ 0x4008 false ∧ tg a .write = .at_ 0x4008 false ∧ (thOf a).sb.length < 16)
      ∧ (tg full .write = .at_ 0x4008 false ∧ 16 ≤ (thOf full).sb.length) ∧ (tg far .read = .walk ∧ tg far .write = .walk)
      ∧ (tg bad .read = .fault (fXlate 4 4 0x0200000000000000) ∧ tg bad .write = .fault (fXlate 4 4 0x0200000000000000))
      ∧ ∃ t, (a.ctx {} {}).Passes (a.setThread a.cur.1 (thOf a)) .store .system .unset .plain t :=
  ⟨⟨can rfl (by decide) rfl, can rfl (by decide) rfl, can rfl (by decide) rfl, can rfl (by decide) rfl⟩, by decide, by decide, by decide,
    by decide, by decide, _, passes_plain _ _ _ _ rfl⟩

theorem witness_AtomicWords :
    let a := at_ .s (rs top 1 0x1040) {} mapped
    let held := at_ .s (rs { top with sb := [{ id := 0, e := {}, va := 0x1047, size := 1, v := 0 }] } 1 0x1040) {} mapped
    let bad := at_ .s (rs top 1 0x0200000000000000) {} mapped
    let tg (s : State) := (s.ctx {} {}).target (s.setThread s.cur.1 (thOf s)) ((thOf s).readS 0 1) .atomic 8
    (a.CanRun {} {} (thOf a) ∧ held.CanRun {} {} (thOf held) ∧ bad.CanRun {} {} (thOf bad)) ∧ (0x1040 % 64 = 0 ∧ 0x1044 % 8 ≠ 0)
      ∧ (tg a = .at_ 0x4040 false ∧ ∀ y ∈ (thOf a).sb, y.meets (tg a).pa? 0x1040 64 = false)
      ∧ ((tg held).pa? = some 0x4040 ∧ ∃ y ∈ (thOf held).sb, y.meets (some 0x4040) 0x1040 8 = true)
      ∧ tg bad = .fault (fXlate 4 4 0x0200000000000000) ∧ OpKind.atHome .cas = true
      ∧ ∃ t, (a.ctx {} {}).Passes (a.setThread a.cur.1 (thOf a)) .both .system .unset .plain t :=
  ⟨⟨can rfl (by decide) rfl, can rfl (by decide) rfl, can rfl (by decide) rfl⟩, by decide, by decide, by decide, by decide, by decide, _,
    passes_plain _ _ _ _ rfl⟩

theorem witness_FenceWords :
    let fresh := at_ .s top
    let marked := at_ .s top { mark := 1 }
    let later := at_ .s top { stage := 2 }
    let cmo := at_ .s (rs (rs top 1 0x1080) 2 1) {} mapped
    let s0 (s : State) := s.setThread s.cur.1 (thOf s)
    (fresh.CanRun {} {} (thOf fresh) ∧ marked.CanRun {} { mark := 1 } (thOf marked) ∧ later.CanRun {} { stage := 2 } (thOf later) ∧ cmo.CanRun {} {} (thOf cmo))
      ∧ (∃ e' u, (fresh.ctx {} {}).release (s0 fresh) {} .core = (true, e', u) ∧ (u.core 0 0).lost = false)
      ∧ (∃ e' u, (marked.ctx {} { mark := 1 }).release (s0 marked) { mark := 1 } .system = (true, e', u) ∧ (u.core 0 0).lost = false)
      ∧ (∃ e' u, (marked.ctx {} { mark := 1 }).release (s0 marked) { mark := 1 } .station = (true, e', u) ∧ (u.thread u.cur.1).csLanded 0 = true)
      ∧ ((∀ o ∈ (thOf fresh).ops, 0 ≤ o.e.seq) ∧ ∀ a ∈ (thOf fresh).acq, a.q ≠ fresh.cur.2) ∧ (Scope.code .core ≤ 2 ∧ 2 < Scope.code .station)
      ∧ (((thOf cmo).readS 0 0).toNat = 0 ∧ ((thOf cmo).readS 0 2).toNat ≠ 0)
      ∧ ∃ v, (s0 cmo).cmoPages ⟨0, 0, 0⟩ 0 .supervisor .flush true (0x1080 + 1) (pagesOf 0x1080 1) = (none, v) :=
  ⟨⟨can rfl (by decide) rfl, can rfl (by decide) rfl, can rfl (by decide) rfl, can rfl (by decide) rfl⟩, ⟨_, _, rfl, by decide⟩,
    ⟨_, _, rfl, by decide⟩, ⟨_, _, rfl, by decide⟩, by decide, by decide, by decide, _, rfl⟩

theorem witness_BarrierWords :
    let a := at_ .s (rs (rs top 1 0x1007) 2 0x0000000100000000) {} mapped
    let none_ := at_ .s (rs top 2 0xFFFF0000) {} mapped
    let few := at_ .s (rs { top with hdr := BitVec.ofNat 64 (7 * 2 ^ 24) } 1 0x1007) {} mapped
    let bad := at_ .s (rs top 1 0x0200000000000000) {} mapped
    let tg (s : State) (va : Word) := (s.ctx {} {}).target (s.setThread s.cur.1 (thOf s)) va .atomic 16
    (a.CanRun {} {} (thOf a) ∧ none_.CanRun {} {} (thOf none_) ∧ few.CanRun {} {} (thOf few) ∧ bad.CanRun {} {} (thOf bad))
      ∧ (0x1007 % 16 < (thOf a).barriers ∧ tg a 0x1000 = .at_ 0x4000 false ∧ ((thOf a).readS 0 2).toNat / 2 ^ 32 ≠ 0)
      ∧ (((thOf none_).readS 0 2).toNat % 2 ^ 16 = 0 ∧ ((thOf none_).readS 0 2).toNat / 2 ^ 32 = 0) ∧ (thOf few).barriers ≤ 0x1007 % 16
      ∧ tg bad 0x0200000000000000 = .fault (fXlate 4 4 0x0200000000000000) :=
  ⟨⟨can rfl (by decide) rfl, can rfl (by decide) rfl, can rfl (by decide) rfl, can rfl (by decide) rfl⟩, by decide, by decide, by decide, by decide⟩

/-- A buffered store of the thread that meets the barrier object, and one that does not. -/
theorem witness_BarrierWords_stores :
    let b (pa : Nat) : SbEntry := { id := 0, e := {}, va := BitVec.ofNat 64 (pa - 0x3000), size := 1, v := 7, pa := some pa }
    let s (pa : Nat) : State := at_ .s (rs (rs { top with sb := [b pa] } 1 0x1007) 2 1) {} mapped
    let tg (s : State) := (s.ctx {} {}).target (s.setThread s.cur.1 (thOf s)) 0x1000 .atomic 16
    ((s 0x400F).CanRun {} {} (thOf (s 0x400F)) ∧ (s 0x4010).CanRun {} {} (thOf (s 0x4010)))
      ∧ tg (s 0x400F) = .at_ 0x4000 false ∧ (∃ y ∈ (((s 0x400F).ctx {} {}).th (s 0x400F)).sb, y.meets (tg (s 0x400F)).pa? 0x1000 16 = true)
      ∧ ∀ y ∈ (((s 0x4010).ctx {} {}).th (s 0x4010)).sb, y.meets (tg (s 0x4010)).pa? 0x1000 16 = false :=
  ⟨⟨can rfl (by decide) rfl, can rfl (by decide) rfl⟩, by decide, by decide, by decide⟩

theorem witness_BarrierWait :
    let w (b : BSlot) : State := at_ .s { rs top 1 0x1000 with slots := [(0, b)] } {} mapped
    let got (s : State) := (s.setThread s.cur.1 (thOf s)).targetFill ⟨0, 0, 0⟩ 0 .supervisor 0x1000 .atomic 16
    let b : BObj := { phase := 0xFFFF, expect := 1, arrived := 1, ovf := false, xbytes := 0, rbytes := 0 }
    (∀ y, (w y).CanRun {} {} (thOf (w y)) ∧ (thOf (w y)).bslot 0 = y)
      ∧ (∀ y, ∃ u, got (w y) = (.at_ 0x4000 false, u))
      ∧ ((w {}).bobj 0x4000).phase = 0 ∧ (b.phase < 2 ^ 16 ∧ b.expect ≤ b.arrived ∧ b.xbytes ≤ b.rbytes) ∧ ({ b with expect := 2 } : BObj).arrived < ({ b with expect := 2 } : BObj).expect :=
  ⟨fun _ => ⟨can rfl (by decide) rfl, rfl⟩, fun _ => ⟨_, rfl⟩, by decide, by decide, by decide⟩

/-- A job of one row with a sequence block, launched in thread context 0 of core 0. -/
def job0 : Job := { id := 7, core := 0, ctx := 0, rows := [{ va := 0x1000, pa := 0x4000 }, {}], live := 3, st := .launched 0 }

/-- A module after reset with that job in station 0. -/
def withJob : State := State.reset.modStation 0 fun x => { x with jobs := [job0] }

/-- The thread that runs `job0`: a live row with a sequence, a live row without one. -/
def jobTh : Thread := { top with job := 7, slate := [(0, 2)], l := [(0, 3)] }

theorem witness_RowWords :
    let a := at_ .s jobTh {} withJob
    let u := at_ .s { top with priv := .user }
    (a.CanRun {} {} (thOf a) ∧ (thOf a).rows = 2 ∧ (a.rowBlock a.cur.1 0).isSome = true ∧ a.rowBlock a.cur.1 1 = none ∧ (thOf a).rowLive 0 = true
        ∧ a.copiesDone a.cur.1 0 = true)
      ∧ ((thOf a).priv ≠ .user ∧ 32 % 32 = 0 ∧ 31 % 32 ≠ 0 ∧ 0 + 32 ≤ (thOf a).csBytes ∧ (thOf a).csBytes < 768 * 4096 + 32)
      ∧ (u.CanRun {} {} (thOf u) ∧ (thOf u).priv = .user)
      ∧ (a.cb 0 0x1408).toNat % 2 ^ 21 = 0 ∧ let t := at_ .s top {} (State.reset.setCb 0 0x1408 4)
        t.CanRun {} {} (thOf t) ∧ (t.cb 0 0x1408).toNat % 2 ^ 21 ≠ 0 ∧ (thOf t).priv ≠ .user :=
  ⟨⟨can rfl (by decide) rfl, by decide, by decide, by decide, by decide, by decide⟩, by decide, ⟨can rfl (by decide) rfl, by decide⟩, by decide,
    can rfl (by decide) rfl, by decide, by decide⟩

/-- A capability of each kind with every right, for its handler's context 0. -/
def capOf (kind : Nat) : CapE := { valid := true, gen := 5, kind := kind, rights := 15, target := ⟨0, 1, 0⟩, blk := 0x4000, blkVa := 0x1000 }

/-- The handle of entry 3 with generation 5 and every right. -/
def handle3 (kind : Nat) : Word := BitVec.ofNat 64 (kind * 2 ^ 62 + 15 * 2 ^ 58 + 5 * 2 ^ 32 + 3)

/-- A thread that holds the handle, in a module that holds the capability. -/
def capped (kind : Nat) (v : Word) : State :=
  at_ .s (rs (rs (rs top 1 (handle3 kind)) 2 v) 3 9) {} (mapped.modStation 0 fun x => { x with caps := [(3, capOf kind)] })

theorem witness_CapabilityCheck :
    let a := capped 1 0
    let u := at_ .s { top with priv := .user }
    (a.CanRun {} {} (thOf a) ∧ (thOf a).priv ≠ .user ∧ a.capCheck a.cur.1 ((thOf a).readS 0 1) [1] 3 = some (3, capOf 1))
      ∧ a.capCheck a.cur.1 ((thOf a).readS 0 3) [1] 3 = none ∧ u.CanRun {} {} (thOf u) ∧ (thOf u).priv = .user :=
  ⟨⟨can rfl (by decide) rfl, by decide, by decide⟩, by decide, can rfl (by decide) rfl, by decide⟩

theorem witness_FrozenWords :
    let a := capped 1 0x1008
    let q := capped 2 0x1008
    let f := (capped 1 0x1008).setThread ⟨0, 1, 0⟩ { hdr := fullHeader, status := .frozen }
    let s0 (s : State) := s.setThread s.cur.1 (thOf s)
    (a.CanRun {} {} (thOf a) ∧ q.CanRun {} {} (thOf q) ∧ f.CanRun {} {} (thOf f))
      ∧ ((s0 a).capCheck a.cur.1 ((thOf a).readS 0 1) [1, 2] 0 = some (3, capOf 1) ∧ (capOf 1).kind ≠ 2 ∧ (capOf 2).kind = 2)
      ∧ (s0 q).capCheck q.cur.1 ((thOf q).readS 0 1) [1, 2] 3 = some (3, capOf 2)
      ∧ ((s0 f).frzElem ⟨0, 1, 0⟩ 5 0x7000 = .ok 0 ∧ (s0 a).frzElem ⟨0, 1, 0⟩ 5 0x7000 = .error fFormat)
      ∧ (∃ u, (s0 a).frzPut ⟨0, 1, 0⟩ 3 2 63 = .ok u) ∧ (s0 a).frzPut ⟨0, 1, 0⟩ 5 0x7000 0 = .error fFormat
      ∧ ((s0 a).capTarget a.cur.1 (capOf 2) 0x9000 .read).1 = .fault (fXlate 0x2 0 0x9000)
      ∧ (8 < (thOf f).barriers ∧ (a.thread ⟨0, 1, 0⟩).barriers ≤ 0x1008 % 16) ∧ ((4 : SReg).val % 2 = 0 ∧ 0 < (4 : SReg).val ∧ (5 : SReg).val = 4 + 1) :=
  ⟨⟨can rfl (by decide) rfl, can rfl (by decide) rfl, can rfl (by decide) rfl⟩, by decide, by decide, ⟨rfl, rfl⟩, ⟨_, rfl⟩, rfl, by decide,
    by decide, by decide⟩

/-- The translations behind FRZLD, FRZST and FRZARV: an address that is mapped for the target, and one that is not. -/
theorem witness_FrozenWords_translate :
    let b (v : Word) := (capped 1 v).modCore 0 1 fun c => { c with mutlb := [leaf0] }
    let s0 := (b 0x1008).setThread (b 0x1008).cur.1 (thOf (b 0x1008))
    (s0.capTarget s0.cur.1 (capOf 1) 0x1008 .read).1 = .at_ 0x4008 false ∧ (s0.capTarget s0.cur.1 (capOf 1) 0x1008 .write).1 = .at_ 0x4008 false
      ∧ (s0.capTarget s0.cur.1 (capOf 2) 0x1008 .write).1 = .at_ 0x4008 false
      ∧ (∃ u, s0.targetFill ⟨0, 1, 0⟩ 0 .user 0x1000 .atomic 16 = (.at_ 0x4000 false, u))
      ∧ ∃ u, s0.targetFill ⟨0, 1, 0⟩ 0 .user 0x0200000000000000 .atomic 16 = (.fault (fXlate 4 4 0x0200000000000000), u) :=
  ⟨by decide, by decide, by decide, ⟨_, rfl⟩, _, rfl⟩

theorem witness_SequenceTrapAndHalt :
    let a := at_ .s (rs jobTh 1 0) {} withJob
    let early := at_ .s { jobTh with qv := { es := [{ seq := 0 }] } } { seq := 1 } withJob
    let u := at_ .s { top with priv := .user }
    let h := at_ .s top {} (State.reset.setThread ⟨0, 1, 0⟩ { status := .running, ctx := 0 })
    (a.CanRun {} {} (thOf a) ∧ (∀ y ∈ (thOf a).entries, ¬ y.seq < 0) ∧ (a.core 0 0).xs = [] ∧ 0 < (thOf a).rows ∧ (thOf a).rows ≤ 2
        ∧ (thOf a).rowLive 0 = true ∧ a.rowBlock a.cur.1 0 ≠ none ∧ a.rowBlock a.cur.1 1 = none)
      ∧ (early.CanRun {} { seq := 1 } (thOf early) ∧ ∃ y ∈ (thOf early).entries, y.seq < 1) ∧ (u.CanRun {} {} (thOf u) ∧ (thOf u).priv = .user)
      ∧ (h.CanRun {} {} (thOf h) ∧ (thOf h).priv ≠ .user ∧ h.halted 0 0 = false ∧ (⟨0, 1, 0⟩ : Tid) ∈ h.ctxThreads 0 0) :=
  ⟨⟨can rfl (by decide) rfl, by decide, by decide, by decide, by decide, by decide, by decide, by decide⟩, ⟨can rfl (by decide) rfl, by decide⟩,
    ⟨can rfl (by decide) rfl, by decide⟩, can rfl (by decide) rfl, by decide, by decide, by decide⟩

/-- A thread with four planes. -/
def four : Thread := { top with hdr := BitVec.ofNat 64 (4 * 2 ^ 52 + 2 ^ 30), l := [(0, 5)] }

theorem witness_PlaneLines :
    let a := at_ .v four
    a.CanRun {} {} (thOf a) ∧ 63 < 64 ∧ (thOf a).planes ≤ physZ 0 4 ∧ ¬ (thOf a).planes ≤ physZ 0 3 ∧ (64 : Fin 128).val / 64 % 2 = 1 :=
  ⟨can rfl (by decide) rfl, by decide, by decide, by decide, by decide⟩

theorem witness_VectorFp :
    let a := at_ .v four
    a.CanRun {} {} (thOf a) ∧ ∀ o ∈ [PlaneOp.mk 3 .anti 3, ⟨0, .row, 0⟩, ⟨1, .col, 2⟩], physZ 0 o.z.val < (thOf a).planes :=
  ⟨can rfl (by decide) rfl, by decide⟩

theorem witness_VectorReductions :
    let a := at_ .v four
    a.CanRun {} {} (thOf a) ∧ ∀ o ∈ [PlaneOp.mk 3 .diag 3, ⟨0, .row, 0⟩], physZ 0 o.z.val < (thOf a).planes :=
  ⟨can rfl (by decide) rfl, by decide⟩

theorem witness_LaneSearches :
    let a := at_ .v four
    (a.CanRun {} {} (thOf a) ∧ ∀ o ∈ [PlaneOp.mk 3 .diag 3, ⟨0, .row, 0⟩], physZ 0 o.z.val < (thOf a).planes)
      ∧ (bestLane 0x8000000000000001 ((List.replicate 64 0).set 63 1) = some (63, 1) ∧ bestLane 1 [0x7FC00000] = none)
      ∧ ((0x8000000000000001 : Word).getLsbD 0 = true ∧ (0x8000000000000001 : Word).getLsbD 63 = true
        ∧ ∀ k, 0 < k → k < 63 → (0x8000000000000001 : Word).getLsbD k = false) :=
  ⟨⟨can rfl (by decide) rfl, by decide⟩, by decide, by decide, by decide, fun k h g => by
    have h : ∀ k : Fin 63, 0 < k.val → (0x8000000000000001 : Word).getLsbD k.val = false := by decide
    exact h ⟨k, g⟩ ‹_›⟩

theorem witness_VectorLaneForms :
    let a := at_ .v four
    a.CanRun {} {} (thOf a) ∧ ∀ o ∈ [PlaneOp.mk 3 .diag 3, ⟨0, .row, 0⟩, ⟨2, .col, 1⟩], physZ 0 o.z.val < (thOf a).planes :=
  ⟨can rfl (by decide) rfl, by decide⟩

theorem witness_VectorMemory :
    let a := at_ .v (rs four 1 2)
    a.CanRun {} {} (thOf a) ∧ (∀ o ∈ [PlaneOp.mk 3 .diag 3, ⟨0, .row, 0⟩], physZ 0 o.z.val < (thOf a).planes) ∧ onLanes 5 = [0, 2]
      ∧ (thOf a).vcsCheck .fp32 2 [0, 2] = some (fAlign 2) ∧ (thOf a).vcsCheck .fp32 4088 [0, 2] = some (fOver 2) ∧ (thOf a).vcsCheck .fp32 4084 [0, 2] = none
      ∧ ∃ t, (a.ctx {} {}).Passes (a.setThread a.cur.1 (thOf a)) .store .station .unset .plain t :=
  ⟨can rfl (by decide) rfl, by decide, by decide, by decide, by decide, by decide, _, passes_plain _ _ _ _ rfl⟩

/-- A stream record of one 8-bit element in core store (space 0) or by virtual address (space 1). -/
def rec1 (space base : Nat) : List Word := [BitVec.ofNat 64 base, BitVec.ofNat 64 (2 + 16 * space), 0, 0, 0, 0, 0, 0]

theorem witness_StreamPins :
    let s : State := State.reset.setThread ⟨0, 0, 0⟩ four
    let f := s.modStation 0 fun x => { x with frames := [(63, { tag := 9 })] }
    let va (b : Nat) := segBase + 63 * 2 ^ 22 + b
    let c := s.thread ⟨0, 0, 0⟩
    let sp (l : List Word) := (Stream.of l).span
    ((rec1 0 4095).length = 8 ∧ (Stream.of (rec1 0 4095)).space = 0 ∧ 0 ≤ (sp (rec1 0 4095)).1 ∧ (sp (rec1 0 4095)).2 ≤ (c.csBytes : Int))
      ∧ ((c.csBytes : Int) < (sp (rec1 0 4096)).2 ∧ 2 ≤ (Stream.of (rec1 2 0)).space)
      ∧ ((Stream.of (rec1 1 (va 2303999))).space = 1 ∧ inSegRegion (va 2303999) = true ∧ (sp (rec1 1 (va 2303999))).2 ≤ (va 2304000 : Nat)
        ∧ (va 2304000 : Int) < (sp (rec1 1 (va 2304000))).2 ∧ s.hasFrame 0 63 = false ∧ f.hasFrame 0 63 = true) :=
  ⟨by decide, by decide, by decide⟩

/-- A frame that still holds its segment, one whose segment has expired, and a marker's first 256 bytes. -/
theorem witness_StreamPins_frames :
    let s (c : Nat) (m : Bool) : State :=
      { (State.reset.setThread ⟨0, 0, 0⟩ four).modStation 0 (fun x => { x with frames := [(63, { tag := 9, expiry := 17280, marker := m })] }) with cyc := c }
    let hi (b : Nat) := (Stream.of (rec1 1 (segBase + 63 * 2 ^ 22 + b))).span.2
    ((s 17279 false).hasFrame 0 63 = true ∧ (s 17279 false).cyc < ((s 17279 false).frame 0 63).expiry ∧ ((s 17279 false).frame 0 63).marker = false)
      ∧ (((s 17280 false).frame 0 63).expiry ≤ (s 17280 false).cyc ∧ ((s 0 true).frame 0 63).marker = true)
      ∧ (hi 255 ≤ (segBase + 63 * 2 ^ 22 + 256 : Nat) ∧ ((segBase + 63 * 2 ^ 22 + 256 : Nat) : Int) < hi 256) := by decide

/-- The M words: a holder and a thread without the lease, records that fit, an unfit nest. -/
theorem witness_StreamPins_words :
    let a := at_ .m (rs four 1 64)
    let h := a.modCore 0 0 fun c => { c with vat := { holder := some ⟨0, 0, 0⟩, cmds := [{ id := 0, t := ⟨0, 0, 0⟩, seq := 0, base := 0, instr := .aclr {} 1, acc := 0 }] } }
    let w := a.modCore 0 0 fun c => { c with vat := { waiters := [(⟨0, 0, 0⟩, 0)] } }
    let s0 := a.setThread a.cur.1 (thOf a)
    (a.CanRun {} {} (thOf a) ∧ h.CanRun {} {} (thOf h) ∧ w.CanRun {} {} (thOf w)) ∧ ((h.vat 0 0).holder = some ⟨0, 0, 0⟩ ∧ (a.vat 0 0).holder ≠ some ⟨0, 0, 0⟩)
      ∧ ((∃ y ∈ (w.vat 0 0).waiters, y.1 = ⟨0, 0, 0⟩) ∧ ∀ y ∈ (a.vat 0 0).waiters, y.1 ≠ ⟨0, 0, 0⟩)
      ∧ (64 % 64 = 0 ∧ 65 % 64 ≠ 0 ∧ 3968 + 128 ≤ (thOf a).csBytes ∧ (thOf a).csBytes < 4032 + 128 ∧ 4032 + 64 ≤ (thOf a).csBytes ∧ (thOf a).csBytes < 4096 + 64)
      ∧ ((s0.pin a.cur.1 (cleanRecord (List.replicate 8 0)).1).1 = .ok none ∧ (s0.pin a.cur.1 (cleanRecord (rec1 2 0)).1).1 = .error { cause := 0x03 })
      ∧ ((∃ m ∈ (h.vat 0 0).cmds, m.t = ⟨0, 0, 0⟩) ∧ ¬ ∃ m ∈ (a.vat 0 0).cmds, m.t = ⟨0, 0, 0⟩) ∧ (thOf a).tokenCount ≤ (0 : Token).val
      ∧ let b := at_ .m { top with tok := [(7, List.replicate 14 none)] }
        b.CanRun {} {} (thOf b) ∧ 7 < (thOf b).tokenCount ∧ (thOf b).tokensHeld 7 < 15 ∧ ¬ ∃ y ∈ (thOf b).pend, y.q = .m :=
  ⟨⟨can rfl (by decide) rfl, can rfl (by decide) rfl, can rfl (by decide) rfl⟩, by decide, by decide, by decide, ⟨rfl, rfl⟩, by decide, by decide,
    can rfl (by decide) rfl, by decide, by decide, by decide⟩

/-- ACLR of the row count in bits 26:16 of S1, as a word at the head of the M queue. -/
def aclrWord : Nat := (encode (.aclr {} 1)).headD 0

theorem witness_VatCommandWords :
    let th (v : Word) : Thread := { rs top 1 v with hdr := fullHeader }
    let e : Entry := { word := aclrWord }
    let a (v : Word) := at_ .m (th v) e
    let held (s : State) (granted : Nat) := s.modCore 0 0 fun c => { c with vat := { holder := some ⟨0, 0, 0⟩, granted := granted } }
    let hnd := at_ .m { th 0 with kind := .handler } e
    let tries (s : State) := ((s.ctx {} e).keep (s.setThread s.cur.1 (thOf s)) { (s.ctx {} e).e with stage := 1 }).modThread s.cur.1 fun y =>
      y.setHead .m { (s.ctx {} e).e with stage := 0 }
    let b := held (a 0x00010000) 0
    let z := held (a 0) 0
    let late := { held (a 0x00090000) 0 with cyc := 8191 }
    (b.CanRun {} e (thOf b) ∧ z.CanRun {} e (thOf z) ∧ late.CanRun {} e (thOf late) ∧ (a 0).CanRun {} e (thOf (a 0)) ∧ hnd.CanRun {} e (thOf hnd))
      ∧ (hnd.cur.2 = .m ∧ (thOf hnd).kind = .handler ∧ (hnd.core 0 0).resOwner = none ∧ (thOf b).kind ≠ .handler ∧ (b.vat 0 0).holder = some b.cur.1 ∧ ((a 0).vat 0 0).holder ≠ some (a 0).cur.1)
      ∧ (decodeInstr e.word e.exts).toOption = some (.aclr {} 1) ∧ ((b.vat 0 0).nextAcc ≤ b.cyc ∧ (thOf b).vatAt ≤ b.cyc)
      ∧ (∃ p, ((tries b).vatPlan b.cur.1 0 (.aclr {} 1)).1 = .ok p ∧ p.occ = 1 ∧ p.occ ≤ 8192 ∧ b.cyc + p.occ ≤ (b.vat 0 0).granted + 8192)
      ∧ ((tries z).vatPlan z.cur.1 0 (.aclr {} 1)).1 = .error fFormat
      ∧ ∃ p, ((tries late).vatPlan late.cur.1 0 (.aclr {} 1)).1 = .ok p ∧ p.occ = 2 ∧ (late.vat 0 0).granted + 8192 < late.cyc + p.occ :=
  ⟨⟨can rfl (by decide) rfl, can rfl (by decide) rfl, can rfl (by decide) rfl, can rfl (by decide) rfl, can rfl (by decide) rfl⟩, by decide, by decide, by decide,
    ⟨_, rfl, by decide, by decide, by decide⟩, rfl, _, rfl, by decide, by decide⟩

/-- A thread context with bases, planes and streams for each clause: rows at the edge of its window, core-store bytes at the edge. -/
theorem witness_VatPlans :
    let s : State := State.reset.setThread ⟨0, 0, 0⟩ { four with hdr := BitVec.ofNat 64 (4 * 2 ^ 52 + 65 * 2 ^ 40 + 2 ^ 30), g := Cells.setAll [] [(1, 2), (9, 2)] }
    let th := s.thread ⟨0, 0, 0⟩
    th.accRows = 65 ∧ (64 + 1 ≤ th.accRows ∧ th.accRows < 64 + 2) ∧ (1 + 64 ≤ th.accRows ∧ th.accRows < 2 + 64) ∧ (th.planes ≤ physZ 0 4 ∧ physZ 0 3 < th.planes)
      ∧ (ardFmt .fp32 = true ∧ ardFmt .i4 = false ∧ Fmt.group .q4g32 ≠ 0 ∧ Fmt.group .fp32 = 0)
      ∧ (3072 + 1024 * 1 ≤ th.csBytes ∧ th.csBytes < 3076 + 1024 * 1 ∧ 3074 % 4 ≠ 0)
      ∧ (vatKc (Stream.of (th.stream 0)).fmt (Stream.of (th.stream 1)).fmt).isSome = true ∧ vatKc .fp32 .fp32 = none
      ∧ (∃ p, (s.vatPlan ⟨0, 0, 0⟩ 0 (.mmm {} 0 1 0 true false)).1 = .ok p) :=
  ⟨by decide, by decide, by decide, by decide, by decide, by decide, by decide, by decide, _, rfl⟩

theorem witness_VatLeaseSteps :
    let s := State.reset.modCore 0 0 fun c => { c with vat := { waiters := [(⟨0, 0, 2⟩, 0), (⟨0, 0, 1⟩, 0), (⟨0, 0, 3⟩, 2)] } }
    let h := State.reset.setThread ⟨0, 0, 4⟩ { kind := .handler }
    let cmd (i : Instr) (ops : List Nat) (rows : List (Nat × Nat)) (ab : Bool) : VatCmd :=
      { id := 0, t := ⟨0, 0, 0⟩, seq := 0, base := 0, instr := i, ops := ops, rows := rows, acc := 0, abandoned := ab }
    let d := State.reset.modCore 0 0 fun c => { c with vat := { cmds := [cmd (.aclr {} 1) [] [(3, 2)] false] } }
    (s.vat 0 0).waiters ≠ [] ∧ (s.vat 0 0).holder = none ∧ (s.vat 0 0).nextAcc ≤ s.cyc ∧ s.nextLease (s.vat 0 0).waiters = some (⟨0, 0, 3⟩, 2)
      ∧ ((h.core 0 0).resOwner = none ∧ (h.thread ⟨0, 0, 4⟩).kind = .handler)
      ∧ ((d.vat 0 0).cmds = [cmd (.aclr {} 1) [] [(3, 2)] false] ∧ (cmd (.aclr {} 1) [] [(3, 2)] false).done ≤ d.cyc)
      ∧ ((cmd (.aclr {} 1) [] [(3, 2)] true).abandoned = true ∧ (cmd (.awr {} 1 2 3) [0, 2] [(3, 64)] false).ops.getD 1 0 = 2) :=
  ⟨by decide, by decide, by decide, by decide, by decide, by decide, by decide⟩

theorem witness_VatProduct :
    let w : WtUnit := { codes := [3, -2], zp := 1 }
    let x : ActUnit := { ints := [1, 2] }
    [[w]].length ≤ 256 ∧ [w].length = [x].length ∧ x.nan = false ∧ ({ x with nan := true } : ActUnit).nan = true
      ∧ w.s.finite = true ∧ x.bs.finite = true ∧ w.codes.length = x.ints.length :=
  ⟨by decide, by decide, rfl, rfl, rfl, rfl, rfl⟩

/-- The fault of a refused check. -/
def err {α : Type} : Except FRec α → Option FRec
  | .error f => some f
  | .ok _ => none

/-- A descriptor of one element of 8 bytes, both sides in core store. -/
def desc1 : Desc := { src := 0, dst := 64, dsp := 0, ssp := 0, esz := 3, e := [1, 1, 1, 1, 1, 1], ss := [8, 0, 0, 0, 0, 0], ds := [8, 0, 0, 0, 0, 0], rsv := false }

/-- A thread about to issue a copy word; its core store holds `desc1` at 0. -/
def copying : State :=
  at_ .c (rs four 1 64) {} (State.reset.modCore 0 0 fun c => { c with cs := [(8, 64), (16, 3)] })

/-- `copying` as the word's body sees it. -/
def copying0 : State := copying.setThread copying.cur.1 (thOf copying)

theorem witness_CopyWords :
    let x := copying.ctx {} {}
    copying.CanRun {} {} (thOf copying) ∧ err (x.desc copying0 32) = some (fAlign 32) ∧ err (x.desc copying0 4032) = some (fOver 2) ∧ 4032 % 64 = 0
      ∧ (thOf copying).csBytes < 4032 + 128 ∧ ∃ t, x.Passes copying0 .both .system .unset .plain t :=
  ⟨can rfl (by decide) rfl, by decide, by decide, by decide, by decide, _, passes_plain _ _ _ _ rfl⟩

theorem witness_CopyWords_desc : ((copying.ctx {} {}).desc copying0 0).toOption = some (Desc.of [0, 64, 3]) := by decide +kernel

theorem witness_CopyWords_engine :
    let k (i : Nat) : CopyJob := { id := i, t := ⟨0, 0, 1⟩, e := {}, engine := i, acc := 0 }
    let full := copying.modStation 0 fun y => { y with copies := [k 0, k 1] }
    full.engine 0 = none ∧ copying0.engine 0 = some 0 ∧ (copying0.thread ⟨0, 0, 0⟩).csLanded 0 = true ∧ (copying0.copyBar ⟨0, 0, 0⟩ 0).1 = .ok none
      ∧ (copying0.copyBar ⟨0, 0, 0⟩ 0x0200000000000000).1 = .error (fXlate 4 4 0x0200000000000000) :=
  ⟨by decide, by decide, by decide, rfl, rfl⟩

theorem witness_CopyWords_plan :
    (((copying.ctx {} {}).planCpy (Desc.of [0, 64, 3]) copying0).1.toOption.map CopyPlan.pieces) = some [{ src := .cs 0 0, dst := .cs 0 64, len := 8 }] := by decide +kernel

/-- A copy word whose modifiers ask for a release, behind a store that has not issued, and without one. -/
theorem witness_CopyWords_release :
    let c : Ctl := { mods := some { ord := .release } }
    let st : Entry := { word := 0x017AEA00 }
    let a := at_ .c { four with qs := { es := [st] } } { seq := 1 }
    let e : Entry := { seq := 1, mark := 1 }
    let b := at_ .c four e
    (a.CanRun c { seq := 1 } (thOf a) ∧ b.CanRun c e (thOf b) ∧ ¬ ∃ y ∈ (thOf b).qs.es, y.seq < 1 ∧ y.isUpdate = true) ∧ (c.ordering .both .station).2.1.releases = true ∧ ((∃ y ∈ (thOf a).qs.es, y.seq < 1 ∧ y.isUpdate = true))
      ∧ (({} : Ctl).ordering .both .station).2.1.releases = false ∧ ∃ t, (b.ctx c e).Passes b .both .station .station .release t :=
  ⟨⟨⟨rfl, by decide, by decide⟩, ⟨rfl, by decide, by decide⟩, by decide⟩, by decide, by decide, by decide, _,
    { ord := by decide, released := fun _ => ⟨_, _, rfl, by decide, rfl⟩, plain := fun h => absurd h (by decide) }⟩

theorem witness_CopyRuns :
    desc1.e = [1, 1, 1, 1, 1, 1] ∧ desc1.ss = [8, 0, 0, 0, 0, 0] ∧ 0 < 1 ∧ ([5, 9][1]? = some 9 ∧ 0 < desc1.e.headD 1)
      ∧ (∃ p ∈ ({ desc1 with src := 4 }).elems 0 [], p.1 % 8 ≠ 0) ∧ ∀ p ∈ desc1.elems 0 [], p.1 % 8 = 0 ∧ p.2 % 8 = 0 :=
  ⟨rfl, rfl, by decide, by decide, by decide, by decide⟩

theorem witness_CopySteps :
    let p : Piece := { src := .cs 0 0, dst := .mem 0x4000, len := 256 }
    let g : Piece := { src := .seg 5 0, dst := .mem 0x4000, len := 1 }
    let k (p : List Piece) (kv : Option KvRun) : CopyJob := { id := 4, t := ⟨0, 0, 0⟩, e := {}, engine := 0, acc := 0, pieces := p, kv := kv }
    let h : CopyJob := { k [g] none with tag := some 9 }
    let r : KvRun := { pa := 0x4000, ent := 1, ppg := 1, nl := 1, np := 1, len := 0, pl := 0, alt := 0, list := [], next := 3 }
    let s (k : CopyJob) : State := { State.reset.modStation 0 (fun x => { x with copies := [k] }) with cyc := 1 }
    let w := at_ .c { top with tok := [(7, List.replicate 14 none)], short := some 8 } { seq := 9 }
    let full := at_ .c { top with tok := [(7, List.replicate 15 none)] } { seq := 9 }
    ((s (k [p] none)).copy? 0 4 = some (k [p] none) ∧ (s (k [p] none)).canPiece 0 (k [p] none) 0 = true ∧ (s (k [p] none)).pieceStands 0 (k [p] none) p = true)
      ∧ ((s (k [g] none)).canPiece 0 (k [g] none) 0 = true ∧ (s (k [g] none)).pieceStands 0 (k [g] none) g = false ∧ (k [g] none).tag = none)
      ∧ ((s h).canPiece 0 h 0 = true ∧ (s h).pieceStands 0 h g = false ∧ h.tag ≠ none ∧ (s h).copy? 0 4 = some h)
      ∧ ((s (k [p] none)).canPiece 0 (k [p] none) 1 = true ∧ (k [p] none).pieces ≠ [])
      ∧ ((s (k [] (some r))).canPiece 0 (k [] (some r)) 0 = true ∧ r.total ≤ r.next ∧ (k [] (some r)).kv = some r)
      ∧ ({ p with grp := 2 }.grp ≠ 0 ∧ ({ h with cancel := true }).cancel = true)
      ∧ (w.CanRun {} { seq := 9 } (thOf w) ∧ w.copiesDone ⟨0, 0, 0⟩ 9 = true ∧ (thOf w).tokensHeld 7 < 15 ∧ 7 < (thOf w).tokenCount)
      ∧ (full.CanRun {} { seq := 9 } (thOf full) ∧ 15 ≤ (thOf full).tokensHeld 7)
      ∧ (s (k [p] none)).copiesDone ⟨0, 0, 0⟩ 1 = false
      ∧ (let t : State := { State.reset with engines := [(1, { stn := 0, busy := true, pieces := [⟨p, none⟩] })] }; t.canTile 1 0 = true) :=
  ⟨by decide, by decide, by decide, by decide, by decide, by decide, ⟨can rfl (by decide) rfl, by decide, by decide, by decide⟩,
    ⟨can rfl (by decide) rfl, by decide⟩, by decide, by decide⟩

/-- A line of an L1 at 0x4000 with byte 8 dirty. -/
def line0 : Line := { la := 0x4000, clean := true, data := 0, mask := 0x100 }

/-- A module after reset whose thread context 0 of core 0 has one operation under way; core 0 holds `leaf0` and `line0`. -/
def under (o : MemOp) : State :=
  { (State.reset.setThread ⟨0, 0, 0⟩ { top with ops := [o] }).modCore 0 0 (fun c => { c with mutlb := [leaf0], lines := [line0], fifo := [.line 0x4000] }) with cyc := 65536 }

theorem witness_LoadSteps :
    let w (va : Word) : MemOp := { id := 2, kind := .load, e := {}, va := va }
    let o (pa : Nat) (nc : Bool) : MemOp := { id := 2, kind := .load, e := {}, va := 0x1008, pa := some pa, nc := nc, stage := .send }
    let s := under (o 0x4008 false)
    let seg := 2 ^ 52 + 5 * 2 ^ 22 + 256
    let f := (under (o seg false)).modStation 0 fun x => { x with frames := [(5, { expiry := 70000, arrive := 0 })] }
    let gone := 2 ^ 41 * 7
    (s.op? ⟨0, 0, 0⟩ 2 = some (o 0x4008 false) ∧ isSegPa 0x4008 = false ∧ (s.core 0 0).wbs = [] ∧ s.migrOf 0x4008 = none ∧ s.paKind 0x4008 = .own)
      ∧ ((s.core 0 0).line? (0x4008 / 128 * 128) = some line0 ∧ line0.serves (0x4008 % 128) 8 = true ∧ s.l1Serves ⟨0, 0, 0⟩ (o 0x4080 false) 0x4080 = false)
      ∧ ((under (w 0x1008)).op? ⟨0, 0, 0⟩ 2 = some (w 0x1008) ∧ (s.xlateFill ⟨0, 0, 0⟩ 0 .supervisor 0x1008 .read).1 = .pa 0x4008 false
        ∧ (s.xlateFill ⟨0, 0, 0⟩ 0 .supervisor (2 ^ 57) .read).1 = .fault 4 4)
      ∧ (isSegPa seg = true ∧ f.frameHas 0 5 256 8 = true ∧ f.frameReady 0 5 (256 + 8 - 1) ≤ f.cyc ∧ (under (o seg false)).hasFrame 0 5 = false)
      ∧ (s.paKind gone = .gone ∧ isSegPa gone = false ∧ (o gone false).since + 65536 ≤ s.cyc) ∧ (s.thread ⟨0, 0, 0⟩).newFault = none :=
  ⟨by decide +kernel, by decide +kernel, by decide +kernel, by decide +kernel, by decide +kernel, by decide +kernel⟩

/-- A load that goes past the L1 finds its line dirty, clean or absent; a buffered store whose address is not known yet stands before it or not. -/
theorem witness_LoadSteps_lines :
    let t : Tid := ⟨0, 0, 0⟩
    let o (pa : Nat) : MemOp := { id := 2, kind := .load, e := { seq := 5 }, va := 0x1008, pa := some pa, nc := true, stage := .send }
    let s (pa : Nat) (l : Line) := (under (o pa)).modCore 0 0 fun c => { c with lines := [l] }
    let b (seq : Nat) : SbEntry := { id := 0, e := { seq := seq }, va := 0x1008, size := 8, v := 7 }
    ((s 0x4008 line0).op? t 2 = some (o 0x4008) ∧ ((s 0x4008 line0).core 0 0).line? 0x4000 = some line0 ∧ line0.mask ≠ 0 ∧ t ∈ (s 0x4008 line0).tids)
      ∧ (((s 0x4008 { line0 with mask := 0 }).core 0 0).line? 0x4000 = some { line0 with mask := 0 } ∧ ((s 0x4088 line0).core 0 0).line? 0x4080 = none)
      ∧ ((((s 0x4008 line0).thread t).aliasWaits (some 5) 0x4008 0x1008 8 = false)
        ∧ ({ top with sb := [b 4] } : Thread).aliasWaits (some 5) 0x4008 0x1008 8 = true ∧ ({ top with sb := [b 6] } : Thread).aliasWaits (some 5) 0x4008 0x1008 8 = false) := by
  decide +kernel

theorem witness_StoreSteps :
    let b (past : Bool) : SbEntry := { id := 0, e := {}, va := 0x107F, size := 1, v := 7, pa := some 0x407F, past := past }
    let s (past : Bool) := (under { id := 2, kind := .load, e := {} }).modThread ⟨0, 0, 0⟩ fun th => { th with sb := [b past], ops := [] }
    let c := (s false).core 0 0
    let wb : Wb := { id := 9, pa := 0x4000, bytes := [(0x4000, 1), (0x4001, 2)] }
    let m (l : List Wb) := State.reset.modCore 0 0 fun c => { c with fifo := [.mark 1 5], wbs := l }
    (((s false).thread ⟨0, 0, 0⟩).sb = [b false] ∧ ((s false).thread ⟨0, 0, 0⟩).ops = [] ∧ c.line? (0x407F / 128 * 128) = some line0 ∧ line0.la = 0x4000 ∧ c.fifoLines < 2048
        ∧ 0x407F % 128 + 1 ≤ 128 ∧ ¬ 0x407F % 128 + 2 ≤ 128) ∧ (b true).past = true
      ∧ (((s false).modCore 0 0 fun c => { c with fifo := [.line 0x4000, .mark 1 5] }).nextBack 0 0 = some 0x4000 ∧ line0.mask ≠ 0)
      ∧ (((m []).core 0 0).fifo.head? = some (.mark 1 5) ∧ (∀ x ∈ ((m []).core 0 0).wbs, x.by_ = none → 5 ≤ x.ord) ∧ ∃ x ∈ ((m [wb]).core 0 0).wbs, x.by_ = none ∧ x.ord < 5)
      ∧ (((m [wb]).core 0 0).wbs.find? (fun x => x.id == 9) = some wb ∧ wb.away = false ∧ (m [wb]).migrOf wb.pa = none ∧ (m [wb]).paKind wb.pa = .own
        ∧ (wb.bytes.map Prod.fst).Nodup ∧ (m [wb]).stations = []) :=
  ⟨by decide +kernel, by decide +kernel, by decide +kernel, by decide +kernel, by decide +kernel⟩

theorem witness_HomeUpdates :
    let o (k : OpKind) (size : Nat) : MemOp := { id := 2, kind := k, e := {}, va := 0x1000, pa := some 0x4000, size := size, stage := .send }
    let q (cap head tail : Nat) : State := { under (o .enq 64) with mem := Memory.writeBytes [] 0x4000 (leBytes 8 0x1100 ++ leBytes 8 cap ++ leBytes 8 head ++ leBytes 8 tail) }
    let n (s : State) (i : Nat) := s.homeN (0x4000 + i) 8
    (∀ k ∈ [OpKind.amo .xchg, .cas, .enq, .deq, .barv, .bexp, .binit, .row true], (under (o k 8)).op? ⟨0, 0, 0⟩ 2 = some (o k 8) ∧ (o k 8).rel = none)
      ∧ (isSegPa 0x4000 = false ∧ ((under (o .cas 8)).core 0 0).wbs = [] ∧ (under (o .cas 8)).migrOf 0x4000 = none ∧ (under (o .cas 8)).paKind 0x4000 = .own)
      ∧ (n (q 21 0 0) 8 % 32 = 21 ∧ n (q 1 5 7) 24 - n (q 1 5 7) 16 = 2 ∧ n (q 1 5 5) 24 - n (q 1 5 5) 16 = 0 ∧ n (q 1 5 6) 24 - n (q 1 5 6) 16 = 1)
      ∧ (((q 1 5 6).xlateFill ⟨0, 0, 0⟩ 0 .supervisor (n (q 1 5 6) 0 + 8 * (5 % 2)) .atomic).1 = .pa 0x4108 false ∧ (q 1 5 6).paKind 0x4108 = .own
        ∧ paStation 0x4108 = paStation 0x4000 ∧ paModule 0x4108 = paModule 0x4000) :=
  ⟨by decide, by decide, by decide +kernel, by decide +kernel⟩

/-- A thread of a module after reset that fetches at 0x1000, mapped to the physical page 0x4000 that holds the given words. -/
def fetching (th : Thread) (ws : List Nat) : State :=
  { mapped.setThread ⟨0, 0, 0⟩ { th with spl := { pc := 0x1000 } } with mem := Memory.writeBytes [] 0x4000 (ws.flatMap (leBytes 4)) }

theorem witness_SplitterWords :
    let a := fetching top [0x00004430, 0xE8000000, 0x00004430]
    let u := fetching { top with priv := .user } [0x80C00800]
    let full := fetching { top with qs := { es := List.replicate 32 {} } } [0x00004430]
    let t : Tid := ⟨0, 0, 0⟩
    ((a.thread t).status = .running ∧ (a.thread t).slotHeld = true ∧ (a.thread t).halted = false ∧ (a.thread t).drain = none ∧ (a.thread t).newFault = none
        ∧ (a.thread t).spl.stop = .run ∧ (a.thread t).spl.resumeAt ≤ a.tcyc)
      ∧ ((a.fetch t 0x1000).1.toOption = some 0x00004430 ∧ isExt 0x00004430 = false ∧ (a.fetchExts t 2 0x1004).1 = [0xE8000000]
        ∧ (a.fetch t 0x1004).1.toOption = some 0xE8000000 ∧ isExt 0xE8000000 = true ∧ (a.fetch t 0x2000).1.toOption = none)
      ∧ ((decodeInstr 0x00004430 [0xE8000000]).toOption.isSome = true ∧ (decodeInstr 0x00980000 []).toOption = none ∧ queueOf 0x00004430 = .s)
      ∧ ((u.thread t).priv = .user ∧ (decodeInstr 0x80C00800 []).toOption.any (fun i => i.privileged.any fun c => !c.guarded) = true)
      ∧ (32 ≤ ((full.thread t).queue .s).es.length ∧ ((a.thread t).queue .s).es.length < 32) :=
  ⟨by decide, by decide +kernel, by decide, by decide, by decide⟩

/-- A thread whose restore is still under way does not fetch. -/
theorem witness_SplitterWords_restoring : top.restoring = none ∧ ({ top with restoring := some (0, 0) } : Thread).restoring ≠ none := by decide

theorem witness_WritesLand :
    let w (land issued seq : Nat) (ws : List RegW) : PWrite := ⟨land, issued, seq, .s, ws⟩
    let p := [w 3 2 9 [.s 1 5], w 3 1 8 [.s 1 6, .p 2 true], w 2 2 7 [.k 3 1, .l 0 3, .z 64 2, .g 9 4], w 9 2 7 [.s 4 4]]
    let s (c : Nat) : State := { State.reset.setThread ⟨0, 0, 0⟩ { top with pend := p } with cyc := c }
    let due := (sortPW (p.filter fun w => decide (w.land ≤ (s 12).tcyc))).flatMap PWrite.ws
    (s 12).tcyc < 9 ∧ 3 ≤ (s 12).tcyc ∧ due = [.k 3 1, .l 0 3, .z 64 2, .g 9 4] ++ .s 1 6 :: [.p 2 true, .s 1 5] ∧ due.any RegW.isBud = false
      ∧ (let b := State.reset.setThread ⟨0, 0, 0⟩ { (top.setCreg 0x009 0xFFFFFFFF) with pend := [w 0 0 0 [.bud true 0xFFFFFFFF]] }
        (b.thread ⟨0, 0, 0⟩).pend = [w 0 0 0 [.bud true 0xFFFFFFFF]] ∧ 0 ≤ b.tcyc ∧ ((b.thread ⟨0, 0, 0⟩).creg 0x009).toNat < 2 ^ 32) :=
  ⟨by decide, by decide, by decide, by decide, by decide⟩

theorem witness_InvalidateEnds :
    let s (c : Nat) : State := { (under { id := 2, kind := .load, e := {} }).modThread ⟨0, 0, 0⟩ (fun th => { th with acq := [⟨.station, 80, .v⟩, ⟨.station, 70, .s⟩] }) with cyc := c }
    let x : Shadow := { id := 1, due := some 70, entry := [1] }
    let t (c : Nat) (w : List InvUser) : State := { ((State.reset.modStation 0 fun y => { y with tiDone := some 70, tiWait := w }).modCore 0 0 fun k => { k with shadow := some x }).setCb 0 0x08 4 with cyc := c }
    (((s 70).thread ⟨0, 0, 0⟩).acq = [⟨.station, 80, .v⟩] ++ ⟨.station, 70, .s⟩ :: [] ∧ (∀ a ∈ [(⟨.station, 80, .v⟩ : Acq)], (s 70).cyc < a.due) ∧ 70 ≤ (s 70).cyc ∧ (s 69).cyc < 70)
      ∧ (((t 70 []).station 0).tiDone = some 70 ∧ 70 ≤ (t 70 []).cyc ∧ (t 69 []).cyc < 70 ∧ ((t 70 []).core 0 0).shadow = some x ∧ ((t 70 []).cb 0 0x08).toNat % 2 ^ 21 ≠ 0)
      ∧ (State.reset.station 0).tiDone = none :=
  ⟨by decide, by decide, by decide⟩

theorem witness_FaultSteps :
    let t : Tid := ⟨0, 0, 0⟩
    let s (th : Thread) := State.reset.setThread t th
    let f : FRec := { cause := 4 }
    let bad : Thread := { top with spl := { stop := .bad f } }
    (((s { top with newFault := some f }).thread t).newFault = some f ∧ top.status = .running)
      ∧ (((s bad).thread t).spl.stop = .bad f ∧ ((s bad).thread t).entries = [] ∧ ((s (on .s bad)).thread t).entries ≠ [])
      ∧ (((s { bad with status := .freezing }).thread t).status = .freezing ∧ (s { bad with status := .freezing, fault := some f }).quiet t = true
        ∧ (s { bad with status := .freezing, pend := [⟨1, 1, 1, .s, []⟩] }).quiet t = false)
      ∧ (((s (on .s top)).thread t).creg 0x009 = 0 ∧ ((s (on .s top)).thread t).head .s = some {} ∧ (s (on .s top)).jobDeclared t = false)
      ∧ ({ top with kind := .handler } : Thread).kind = .handler :=
  ⟨by decide, by decide, by decide, by decide, by decide⟩

/-- A thread that waits at a YIELD or a RETIRE, a thread that ends, and one whose zeroing is still under way. -/
theorem witness_FaultSteps_drains :
    let t : Tid := ⟨0, 0, 0⟩
    let s (th : Thread) := State.reset.setThread t th
    let f : FRec := { cause := 4 }
    let d (k : Drain) : Thread := { top with newFault := some f, drain := some k, drainE := some (.s, {}) }
    (((s (d .yield_)).thread t).drain = some .yield_ ∧ ((s (d .retire)).thread t).drainE = some (.s, {}) ∧ (d .retire).drain ≠ some .ended
        ∧ (d .retire).drain ≠ some .killed ∧ (d .retire).newFault = some f)
      ∧ ((d .ended).drain = some .ended ∧ ({} : Thread).status ≠ .running ∧ ({} : Thread).status ≠ .waiting)
      ∧ (((s (d .yield_)).thread t).creg 0x009 = 0 ∧ top.notBefore ≤ (s top).cyc ∧ (s { top with notBefore := 1 }).cyc < ({ top with notBefore := 1 } : Thread).notBefore) := by
  decide

theorem witness_DrainSteps :
    let t : Tid := ⟨0, 0, 0⟩
    let s (d : Drain) (c : Nat) (save : Option Nat) : State :=
      { withJob.setThread t { jobTh with drain := some d, rel := some { scope := .system, mark := some 1 }, saveAt := save, preq := some ⟨1, 9, 0, 0⟩ } with cyc := c }
    ((s .retire 0 none).drained t = true ∧ ((s .retire 0 none).release t 0 { scope := .system, mark := some 1 }).1 = true ∧ ((s .retire 0 none).core 0 0).lost = false
        ∧ (s .retire 0 none).jobOf t = some job0 ∧ job0.core = t.co ∧ ((s .retire 0 none).thread t).kind = .job)
      ∧ ((s .forced 0 none).drained t = true ∧ ((s .yield_ 5 (some 5)).thread t).saveAt = some 5 ∧ 5 ≤ (s .yield_ 5 (some 5)).cyc)
      ∧ (State.reset.setThread t jobTh).drained t = false
      ∧ (let p : State := { State.reset.setThread t { top with preq := some ⟨1, 9, 0, 0⟩ } with cyc := 9 }; (p.thread t).preq = some ⟨1, 9, 0, 0⟩ ∧ 9 ≤ p.cyc
        ∧ (p.thread t).halted = false ∧ (p.thread t).drain = none ∧ ({ p with cyc := 8 } : State).cyc < 9) :=
  ⟨by decide, by decide, by decide, by decide⟩

/-- A save whose thread holds the Vat: the release runs once the lease is dropped. -/
theorem witness_DrainSteps_saves :
    let t : Tid := ⟨0, 0, 0⟩
    let s : State := (withJob.setThread t { jobTh with drain := some .forced, rel := some { scope := .system, mark := some 1 } }).modCore 0 0 fun c =>
      { c with vat := { holder := some t } }
    (s.drained t = true ∧ (s.dropLease t).drained t = true ∧ ((s.dropLease t).release t 0 { scope := .system, mark := some 1 }).1 = true
        ∧ ((s.dropLease t).vat 0 0).holder ≠ some t ∧ (s.thread t).saveAt = none ∧ (s.thread t).restoring = none) := by decide

/-- A marker whose HCRC is right, as station 47 holds it for slot 3. -/
def marker0 : Resident := { ({ bytes := Memory.writeBytes [] 16 [1] } : Resident).seal with arriveSlot := 3 }

/-- The module in ring slot 3 of a station whose share is 1, with `marker0` in frame 3 of its predecessor. -/
def ring (g : Resident) (origin : Nat) (lost : Bool) : State :=
  { ((State.reset.modStation 0 fun x => { x with share := 1 }).modStation 47 fun x => { x with share := 1, frames := [(3, g)], lost := lost }).setCb 0 0x210
      (BitVec.ofNat 64 (1 + origin * 2 ^ 17)) with cyc := 1080 }

theorem witness_RingSteps :
    let s := ring marker0 1 false
    let bad := { marker0 with bytes := Memory.writeBytes marker0.bytes 20 [1] }
    ((s.station 0).share ≠ 0 ∧ (s.station 0).spoil = [] ∧ (s.station 0).segs = [] ∧ s.rsn 0 = 3 ∧ s.pred 0 = 47 ∧ s.passes 47 3 = some marker0)
      ∧ (marker0.parse.hcrcOk = true ∧ marker0.parse.pcrcOk = true ∧ marker0.parse.tag ≠ BitVec.allOnes 64 ∧ bad.parse.hcrcOk = false)
      ∧ (s.origin 0 ≠ 0 ∧ (ring marker0 0 false).origin 0 = 0) ∧ ((ring marker0 0 true).passes 47 3 = none ∧ (State.reset.station 0).share = 0)
      ∧ (s.repair = none ∧ ((s.stations.map Prod.fst).filter s.slotBegins) = [0, 47] ∧ s.shareReg 0 = (s.station 0).share ∧ (s.station 0).uncorr = []) :=
  ⟨by decide +kernel, by decide +kernel, by decide +kernel, by decide +kernel, by decide +kernel⟩

theorem witness_RingSteps_expiry :
    let f : State := { State.reset.modStation 0 (fun x => { x with frames := [(5, { tag := 9, expiry := 17280 })] }) with cyc := 17280 }
    (f.hasFrame 0 5 = true ∧ (f.frame 0 5).expiry = f.cyc) ∧ (({ f with cyc := 17279 } : State).frame 0 5).expiry ≠ 17279
      ∧ 87608 < (State.reset.setCb 0 0x210 (BitVec.ofNat 64 (87609 * 2 ^ 23))).stageSize 0 :=
  ⟨by decide, by decide, by decide⟩

/-- A word of the one key-value page of the sequence at 0x1100, in which an error has been found: the sequence has one position and waits
for a rebuild; a word of no page; a replayed flit. -/
theorem witness_RingSteps_rebuild :
    let m : Memory := [(0x4000, 8, 0x1100), (0x410D, 1, 12), (0x4140, 8, 16 + 2 ^ 32 + 2 ^ 48), (0x4148, 4, 1), (0x4150, 8, 0x1200), (0x4160, 4, 1), (0x4200, 8, 0x1400)].foldl
      (fun m p => Memory.writeBytes m p.1 (leBytes p.2.1 p.2.2)) []
    let u : State := { ((mapped.setCb 0 0x2008 (BitVec.ofNat 64 (2 ^ 63))).setCb 0 0x408 0x1000).setCb 0 0x410 1 with inputs := [.skip 0], mem := m }
    let s (l : List (Nat × Word)) (b : Nat) : State := u.modStation 0 fun x => { x with bad := [b], rebuilding := l }
    let p : State := { State.reset with stations := (List.range 48).map fun i => (i, { share := 1 }) }
    (((s [] 0x4408).stations.find? fun z => !z.2.bad.isEmpty).isSome = true ∧ (∀ z ∈ u.stations, z.2.bad = []) ∧ u.kvOwner 0 0x4408 = some (0, 0x1100, 0)
        ∧ u.kvOwner 0 0x5000 = none ∧ u.seqBlock 0 0 0x1100 = some 0x4100)
      ∧ ((u.homeN 0x410D 1).testBit 3 = true ∧ ((s [(0, 0x1100)] 0x4408).station 0).rebuilding.contains (0, 0x1100) = true
        ∧ ((s [] 0x4408).station 0).rebuilding.contains (0, 0x1100) = false ∧ u.inputs = .skip 0 :: [])
      ∧ (∀ j, j < 48 → (p.station j).lost = false ∧ (p.station j).share ≠ 0) ∧ p.stageSize 0 ≤ 87608 ∧ (p.station 0).transitHi ≤ (p.station 0).transitLo := by
  decide +kernel

/-- An expired frame that a copy still reads, with no sequence engaged; a hoop store of no slot and of two. -/
theorem witness_RingSteps_copies :
    let t : Tid := ⟨0, 0, 0⟩
    let k : CopyJob := { id := 3, t := t, e := {}, engine := 0, acc := 0, tag := some 9, pieces := [{ src := .seg 5 0, dst := .mem 0, len := 32 }] }
    let s : State := { State.reset.modStation 0 (fun x => { x with frames := [(5, { tag := 9, expiry := 17280 })], copies := [k] }) with cyc := 17280 }
    (k ∈ (s.station 0).copies ∧ k.tag = some (s.frame 0 5).tag ∧ (∃ p ∈ k.pieces, p.src = .seg 5 0) ∧ (s.station 0).engaged = [])
      ∧ (∀ a ∈ (s.station 0).copies, ∀ b ∈ (s.station 0).copies, a.id = b.id → a = b) ∧ (s.station 0).hoopHi ≤ (s.station 0).hoopLo
      ∧ (0 < 0 + Config.segmentBytes ∧ 0 + Config.segmentBytes ≤ 2 * Config.segmentBytes) := by
  refine ⟨by decide, ?_, by decide, by decide⟩
  intro a ha b hb _
  exact (List.mem_singleton.1 ha).trans (List.mem_singleton.1 hb).symm

theorem witness_SlateSteps :
    let g : Resident := { arrive := 100, tag := 0, marker := false }
    let s (c : Nat) : State := { State.reset.modStation 0 (fun x => { x with frames := [(5, g)] }) with cyc := c }
    let m (c : Nat) : State := (s c).setCb 0 0x218 0x8000
    let j : Job := { id := 7, core := 0, ctx := 0, dl := 500 }
    let p (c : Nat) (st : JState) : State := { mapped.modStation 0 (fun x => { x with jobs := [{ j with st := st }] }) with cyc := c }
    let sl : State := (mapped.setCb 0 0x6108 1).setCb 0 0x6100 0x1000
    ((s 108).hasFrame 0 5 = true ∧ ((s 108).frame 0 5).arrive + 8 = (s 108).cyc ∧ ((s 107).frame 0 5).arrive + 8 ≠ (s 107).cyc ∧ g.tag ≠ BitVec.allOnes 64)
      ∧ ((s 108).modelOn 0 (tagModel g.tag) = false ∧ (m 108).modelOn 0 (tagModel g.tag) = true ∧ (s 108).dispatches 0 0 = false)
      ∧ (((sl.core 0 0).posted.length < 256) ∧ sl.freeSlate 0 0 = some 0 ∧ mapped.freeSlate 0 0 = none)
      ∧ ((p 500 .posted).job? 0 7 = some j ∧ (p 500 .posted).declareAt 0 j = some 500 ∧ 500 ≤ (p 500 .posted).cyc ∧ (p 499 .posted).cyc < 500 ∧ j.dead = false ∧ j.tid 0 = none)
      ∧ (({ j with st := .launched 2 } : Job).tid 0 = some ⟨0, 0, 2⟩ ∧ top.status = .running ∧ top.halted = false ∧ top.drain = none) :=
  ⟨by decide, by decide, by decide, by decide, by decide⟩

/-- A lost segment that is due, and a slate record whose page is mapped or is not. -/
theorem witness_SlateSteps_lost :
    let s : State := { State.reset.modStation 0 (fun x => { x with frames := [(5, { arrive := 100, tag := BitVec.allOnes 64 })] }) with cyc := 108 }
    let sl : State := (mapped.setCb 0 0x6108 1).setCb 0 0x6100 0x1000
    let un : State := (mapped.setCb 0 0x6108 1).setCb 0 0x6100 0x0200000000000000
    (s.hasFrame 0 5 = true ∧ (s.frame 0 5).arrive + 8 = s.cyc ∧ (s.frame 0 5).tag = BitVec.allOnes 64)
      ∧ (sl.freeSlate 0 0 = some 0 ∧ sl.dispTarget 0 0 0x1000 1024 = some 0x4000) ∧ (un.freeSlate 0 0 = some 0 ∧ un.dispTarget 0 0 0x0200000000000000 1024 = none) := by decide +kernel

/-- A station whose context 0 is resident with every grant, one posted job of tier 0 on core 0, and one save record of 64 KiB for the
context. -/
def posting (fr : Word) : State :=
  (((((mapped.modStation 0 fun x => { x with jobs := [{ id := 7, core := 0, ctx := 0, frag := fr }] }).modCore 0 0 fun c => { c with posted := [7] }).setCb
    0 0x2008 (BitVec.ofNat 64 (2 ^ 63))).setCb 0 0x2010 (BitVec.allOnes 64)).setCb 0 0x1808 0x10001)

theorem witness_LaunchSteps :
    let s := posting 0x9000
    let run (th : Thread) (s : State) := s.setThread ⟨0, 0, 0⟩ th
    let busy := (List.range 4).foldl (fun s j => s.setThread ⟨0, 0, j⟩ top) s
    let tt (c : Nat) : State := { ((s.setCb 0 (ttOff 0 1) 8000).setCb 0 (ttOff 0 1 + 0x18) 0x100).modCore 0 0 (fun c => { c with posted := [] }) with cyc := c }
    (s.arbSlot 0 0 = some 0 ∧ busy.arbSlot 0 0 = none ∧ (s.arbitrate 0 0).isSome = true ∧ (tt 0).arbitrate 0 0 = none)
      ∧ (((run top s).thread ⟨0, 0, 0⟩).kind ≠ .handler ∧ (run { top with hdr := 0 } s).freeRec 0 0 (recSize 0) = some 0 ∧ (run top s).freeRec 0 0 (recSize fullHeader) = none)
      ∧ ((tt 3903).ttAsks 0 0 1 = false ∧ ((run top (tt 3904)).ttAsks 0 0 1 = true) ∧ (run top (tt 3903)).ttAsks 0 0 1 = false)
      ∧ ((tt 8000).ttReady 0 0 1 = true ∧ (tt 7999).ttReady 0 0 1 = false ∧ (tt 8000).jobFits 0 ((tt 8000).ttJob 0 0 1) = true
        ∧ (tt 8000).granted 0 0 ((tt 8000).header 0 0 0) = true) :=
  ⟨by decide +kernel, by decide +kernel, by decide +kernel, by decide +kernel⟩

/-- A withdrawal of a halted thread's request: the halt began before the forcing cycle, or at it. -/
theorem witness_LaunchSteps_halted :
    let th (h : Nat) : Thread := { top with halted := true, haltCyc := h, preq := some ⟨1, 9, 0, 0⟩ }
    (1 : Fin 16).val.testBit 0 = true ∧ (1 : Fin 16).val.testBit 1 = false ∧ (th 8).halted = true ∧ (th 8).haltCyc < 9 ∧ 9 ≤ (th 9).haltCyc := by decide

/-- The refused launches: of the timetable and of a job, where the fragment's header asks for a plane and the context has no grant; and a window
that is too large for what is left. -/
theorem witness_LaunchState :
    let g (s : State) : State := { s with mem := Memory.writeBytes [] 0x4000 (leBytes 8 (2 ^ 52 + 1984 * 2 ^ 40)) }
    let s := g (posting 0x1000)
    let no := s.setCb 0 0x2010 0
    let full := s.modCore 0 0 fun c => { c with wins := [(1, 0, 1)] }
    let h := s.header 0 0 0x1000
    s.granted 0 0 h = true ∧ no.granted 0 0 h = false ∧ hdrRows h = 1984 ∧ (s.core 0 0).rowRoom 1984 = some 0 ∧ (s.core 0 0).csRoom (hdrUnits h) = some 0
      ∧ (full.core 0 0).rowRoom 1984 = none ∧ (s.job? 0 7).map Job.st = some .posted := by decide +kernel

theorem witness_DebugSteps :
    let t : Tid := ⟨0, 0, 0⟩
    let s (th : Thread) (ctl dbg : Word) : State := ((posting 0).setThread t th).setCb 0 0x1A90 ctl |>.setCb 0 0x1B00 dbg
    let halted : Thread := { top with halted := true, haltCyc := 0, hdr := 0, preq := some ⟨1, 9, 0, 0⟩ }
    ((s top 1 0).thread t).status ≠ .free ∧ ((s top 1 0).cb 0 0x1A90).toNat.testBit 0 = true ∧ ((s top 0 0).cb 0 0x1A90).toNat.testBit 0 = false
      ∧ (((s halted 1 0).cb 0 0x1B00).getLsbD 20 = false ∧ ((s halted 1 0x100000).cb 0 0x1B00).getLsbD 20 = true ∧ ((s halted 1 0).thread t).needHandler = false)
      ∧ (((s halted 1 0).thread t).preq = some ⟨1, 9, 0, 0⟩ ∧ (s { halted with preq := none } 1 0).freeRec 0 0 (recSize 0) = some 0
        ∧ (s { halted with preq := none, hdr := fullHeader } 1 0).freeRec 0 0 (recSize fullHeader) = none)
      ∧ ((s top 1 0).coreQuiet 0 0 = true ∧ (s { top with pend := [⟨1, 1, 1, .s, []⟩] } 1 0).coreQuiet 0 0 = false) :=
  ⟨by decide, by decide, by decide, by decide +kernel, by decide +kernel⟩

/-- A release of a halted thread that still owes its fault handler, and of one that does not. -/
theorem witness_DebugSteps_owing :
    let t : Tid := ⟨0, 0, 0⟩
    let s (st : TStatus) : State := State.reset.setThread t { top with halted := true, needHandler := true, status := st }
    ((s .frozen).cb 0 0x1B00).getLsbD 20 = false ∧ ((s .frozen).thread t).halted = true ∧ ((s .frozen).thread t).needHandler = true
      ∧ ((s .frozen).thread t).status = .frozen ∧ ((s .freezing).thread t).status ≠ .frozen := by decide

/-- Record moves: a saved job in record 0 of context 0, asked to core 3 of its own station, or to station 2. -/
theorem witness_DebugSteps_move :
    let j : Job := { id := 7, core := 0, ctx := 0, st := .saved 0 }
    let w (stn co : Nat) : CbWrite := { st := 0, off := 0x1A98, size := 8, val := BitVec.ofNat 64 (stn * 2 ^ 24 + co * 2 ^ 20), priv := .firmware }
    let s (rec : Nat) : State := (((mapped.modStation 0 fun x => { x with jobs := [j] }).setCb 0 0x1808 0x20001).setCb 2 0x1808 0x20001).homePut (mapped.pa 0 0) [BitVec.ofNat 8 rec]
    let s1 (w : CbWrite) (rec : Nat) := (s rec).regWrite w
    (((s 2).station 0).moving = none ∧ (s1 (w 0 3) 2).savedJob 0 0 0 = some j ∧ (s1 (w 0 3) 2).recState 0 0 0 = 2 ∧ (s1 (w 0 3) 2).freeRec 0 0 (recSize j.hdr) = some 1)
      ∧ ((s1 (w 2 3) 2).freeRec 2 0 (recSize j.hdr) = some 0 ∧ ((s1 (w 2 3) 2).cb 0 0x1A98).toNat / 2 ^ 24 % 64 = 2 ∧ j.segwin = 0 ∧ (s1 (w 0 3) 1).recState 0 0 0 ≠ 2)
      ∧ mapped.savedJob 0 0 0 = none :=
  ⟨by decide +kernel, by decide +kernel, by decide +kernel⟩

theorem witness_HandlerSteps :
    let r : HReq := { core := 0, ctx := 0, rcd := List.replicate 64 0, cap := some 3, capE := capOf 1 }
    let s : State := (posting 0).modStation 0 fun x => { x with reqs := [r], caps := [(3, capOf 1)] }
    let hnd : Thread := { kind := .handler, status := .waiting }
    let w (th : Thread) : State := (List.range 4).foldl (fun s j => s.setThread ⟨0, 0, j⟩ { top with hdr := 0, preq := th.preq }) (s.setThread ⟨0, 0, 4⟩ hnd)
    (s.freeHandler 0 0 = some 4 ∧ s.nextRequest 0 0 = some r ∧ s.granted 0 0 (s.header 0 0 0) = true ∧ (s.core 0 0).csRoom 0 = some 0)
      ∧ (((s.setThread ⟨0, 0, 4⟩ hnd).slotIdle 0 0 0 = true) ∧ (s.setThread ⟨0, 0, 4⟩ hnd).freeHandler 0 0 = some 5)
      ∧ ((∀ n, n < 4 → (w top).slotIdle 0 0 n = false) ∧ (w top).coreRequested 0 0 = false ∧ (w { preq := some ⟨1, 9, 0, 0⟩ }).coreRequested 0 0 = true
        ∧ (w top).latestJob 0 0 = some ⟨0, 0, 3⟩ ∧ (((w top).raisePreq ⟨0, 0, 3⟩ 2).thread ⟨0, 0, 3⟩).preq.isSome = true) :=
  ⟨by decide +kernel, by decide +kernel, by decide +kernel⟩

/-- A handler that asked in vain: the thread to be asked has no save record still, or has one by now; and no thread that can be asked. -/
theorem witness_HandlerSteps_asked :
    let hnd : Thread := { kind := .handler, status := .waiting, needHandler := true }
    let w (th : Thread) : State := (List.range 4).foldl (fun s j => s.setThread ⟨0, 0, j⟩ th) ((posting 0).setThread ⟨0, 0, 4⟩ hnd)
    let full (s : State) := s.freeRec 0 (s.thread ⟨0, 0, 3⟩).ctx (recSize (s.thread ⟨0, 0, 3⟩).hdr)
    ((w top).latestJob 0 0 = some ⟨0, 0, 3⟩ ∧ (w top).coreRequested 0 0 = false ∧ ((w top).thread ⟨0, 0, 4⟩).needHandler = true ∧ full (w top) = none)
      ∧ (full (w { top with hdr := 0 }) = some 0 ∧ (w { top with halted := true }).latestJob 0 0 = none)
      ∧ ∀ n, n < 4 → (w { top with halted := true }).slotIdle 0 0 n = false := by decide +kernel

theorem witness_ControlBlockWrites :
    let w (off size : Nat) (v : Word) : CbWrite := { st := 0, off := off, size := size, val := v, priv := .firmware }
    let s (w : CbWrite) : State := { State.reset.modStation 0 (fun x => { x with caps := [(3, capOf 1), (4, capOf 2)] }) with cbw := some w }
    ((s (w 0x2C18 8 1)).cbw = some (w 0x2C18 8 1) ∧ (w 7 1 0).off % 8 + 1 ≤ 8 ∧ ¬ (w 7 2 0).off % 8 + 2 ≤ 8 ∧ regShared 0x2000 = false)
      ∧ ((Tab.get ((s (w 0 8 3)).station 0).caps ((w 0 8 3).val.toNat % 2 ^ 12)).kind = 1 ∧ (Tab.get ((s (w 0 8 4)).station 0).caps ((w 0 8 4).val.toNat % 2 ^ 12)).kind ≠ 1)
      ∧ (0x2000 ≤ 0x23C0 ∧ 0x23C0 < 0x2400 ∧ (s (w 0x23C0 8 0)).hasJobs 0 ((0x23C0 - 0x2000) / 0x40) = false)
      ∧ ((State.reset.leaseHeld = false) ∧ (let h : State := { State.reset with leaseHeld := true, leaseHolder := 1, leaseExp := 1 }
        (!h.leaseHeld || decide (h.leaseExp ≤ h.tb) || decide (h.leaseHolder = 0)) = false))
      ∧ (((s (w 0x48 8 3)).station 0).tiDone = none ∧ (State.reset.invSel 0 0xB).scope ≠ 3 ∧ (State.reset.invSel 0 0xC).scope = 3)
      ∧ (((s (w 0x100 8 0)).station 0).migr = [] ∧ (w 0x00 8 0).touches 0 21 = true) :=
  ⟨by decide, by decide, by decide, by decide, by decide, by decide⟩

/-- An invalidation under way and one that has ended, and stations that have no page away. -/
theorem witness_ControlBlockWrites_busy :
    let s (c : Nat) : State := { State.reset.modStation 0 (fun x => { x with tiDone := some 70 }) with cyc := c }
    ((s 6).station 0).tiDone = some 70 ∧ 70 < (s 6).cyc + 65 ∧ ¬ 70 < (s 5).cyc + 65
      ∧ (∀ y ∈ (s 5).stations, ∀ m ∈ y.2.migr, m.home = false ∨ m.st ≠ .away) ∧ ((s 5).station 0).moving = none := by decide

/-- A module after reset with one input. -/
def fed (i : Input) (s : State := .reset) : State := { s with inputs := [i] }

/-- A submitted entry: sequence number, context, tier. -/
def entryOf (seq c t : Nat) : List Byte := leBytes 8 (seq + c * 2 ^ 32 + t * 2 ^ 36) ++ List.replicate 56 0

theorem witness_HostSteps :
    let live := State.reset.setCb 0 0x2008 (BitVec.ofNat 64 (2 ^ 63))
    let e : InEntry := { tier := 0, ctx := 0, deadl := 0, bytes := entryOf 0 0 0 }
    let full := live.modStation 0 fun x => { x with intake := List.replicate 512 e }
    let some_ := mapped.modStation 0 fun x => { x with intake := [e] }
    let c := mapped.modStation 0 fun x => { x with compl := [(0, some 0x1000)] }
    ((entryOf 0 0 0).length = 64 ∧ 4032 % 64 = 0 ∧ 4032 < 4096 ∧ ¬ 4096 < 4096) ∧ (State.reset.resident 0 0 = false ∧ live.resident 0 0 = true)
      ∧ ((live.hreg 0 0 0).toNat % 2 ^ 32 = 0 ∧ leNat ((entryOf 1 0 0).take 8) % 2 ^ 32 = 1 ∧ (BitVec.ofNat 32 1 - BitVec.ofNat 32 0).msb = false)
      ∧ ((live.station 0).tierQueue 0 = [] ∧ ((full.station 0).tierQueue 0).length = 512)
      ∧ (live.inTurn 0 0 = false ∧ some_.inTurn 0 0 = true ∧ (some_.station 0).tierQueue 0 = [e] ∧ some_.deliver 0 0 e = (false, some_))
      ∧ (Tab.get (c.station 0).compl 0 = some 0x1000 ∧ c.complRoom 0 0 = true ∧ (c.setHreg 0 0 0x18 1).complRoom 0 0 = false ∧ c.handleQueue 0 0 0 = none) :=
  ⟨by decide, by decide, by decide, by decide +kernel, by decide +kernel, by decide +kernel⟩

/-- A delivery: the input slot and the queue behind handle 0 are mapped, the queue's capacity is 2. A completion record's queue is the same. -/
theorem witness_HostSteps_queues :
    let m : Memory := (Memory.writeBytes [] 0x4000 (leBytes 8 0x1040)).writeBytes 0x4040 (leBytes 8 0x1100 ++ leBytes 8 1 ++ leBytes 8 0 ++ leBytes 8 1)
    let s : State := { ((((((State.reset.modCore 0 0 fun c => { c with mutlb := [leaf0] }).setCb 0 0x438 1).setCb 0 0x428 0x1800).setCb 0 0x2008 (BitVec.ofNat 64 (2 ^ 63))).setCb 0 0x420 0x1000).setHreg 0 0 0x18 1) with mem := m }
    let e : InEntry := { tier := 0, ctx := 0, deadl := 0, bytes := entryOf 0 0 0 }
    (s.deliver 0 0 e).1 = true ∧ s.dispTarget 0 0 (s.inSlotVa 0 0).toNat 64 = some 0x4800 ∧ s.pageHeld 0x4040 = false ∧ s.handleQueue 0 0 0 = some 0x4040 ∧ (s.queueStep (dispTid 0) 0 .supervisor 0x4040 none).1.2 = 0
      ∧ (s.queueStep (dispTid 0) 0 .supervisor 0x4040 none).2.complRoom 0 0 = false := by decide +kernel

theorem witness_MigrationSteps :
    let m (st : MigState) (home : Bool) : Migr := { page := 4, st := st, module_ := 3, home := home }
    let s (l : List Migr) : State := State.reset.modStation 0 fun x => { x with migr := l }
    let r : RemOp := { id := 5, kind := .load, pa := 2 ^ 41, size := 8, v1 := 0, v2 := 0, from_ := 2 }
    let q (pa : Nat) : State := State.reset.modStation 0 fun x => { x with rems := [{ r with pa := pa }], mirrors := [{ off := 0, bytes := [(0, 1)] }] }
    let w : Wb := { id := 9, pa := 2 ^ 41 * 7, bytes := [], since := 0 }
    let g : State := { State.reset.modCore 0 0 (fun c => { c with wbs := [w] }) with cyc := 65536, ports := [(2, { acks := [⟨3, 5, 65536⟩, ⟨3, 6, 65537⟩] })] }
    (((s (List.replicate 8 (m .away false))).station 0).framesUsed 4 = 8 ∧ ((s (List.replicate 7 (m .away false))).station 0).framesUsed 4 < 8)
      ∧ ((s [m .leaving true]).migrOf 0x4000 = some (m .leaving true) ∧ (∀ i, i < 48 → (State.reset.cb i 0x100).getLsbD 48 = true) ∧ State.reset.migrOf 0x4000 = none)
      ∧ ((s [m .away true]).migrOf 0x4000 = some (m .away true) ∧ (s [m .away false]).migrOf 0x4000 = some (m .away false) ∧ (s [m .closing true]).migrOf 0x4000 = some (m .closing true)
        ∧ (List.replicate 4096 (0 : Byte)).length = 4096 ∧ ([(0, 1), (4095, 2)].map (Prod.fst (α := Nat) (β := Byte))).Nodup ∧ ∀ n, ∀ q ∈ (State.reset.station n).qres, q.bytes.length = 64)
      ∧ (((q (2 ^ 41)).rem? 5).isSome = true ∧ (q (2 ^ 41)).migrOf (2 ^ 41) = none ∧ (∀ x ∈ ((q (2 ^ 41)).station 0).rems.takeWhile (fun x => x.id != 5), x.pa / 4096 ≠ 2 ^ 41 / 4096) ∧ paModule (2 ^ 41) ≠ State.reset.modnum ∧ paModule 0x4000 = State.reset.modnum
        ∧ ((q 0).station 0).mirrors = [{ off := 0, bytes := [(0, 1)] }])
      ∧ ((g.port 2).acks = [⟨3, 5, 65536⟩, ⟨3, 6, 65537⟩] ∧ 65536 ≤ g.cyc ∧ ¬ 65537 ≤ g.cyc ∧ w ∈ (g.core 0 0).wbs ∧ w.since + 65536 ≤ g.cyc ∧ g.paKind w.pa = .gone) :=
  ⟨by decide +kernel, by decide +kernel, ⟨by decide +kernel, by decide +kernel, by decide +kernel, List.length_replicate, by decide, nofun⟩, by decide +kernel, by decide +kernel⟩

theorem witness_FabricSteps :
    let m : Memory := Memory.writeBytes [] 0x4040 (leBytes 8 0x1100 ++ leBytes 8 1 ++ leBytes 8 0 ++ leBytes 8 1)
    let s (x : TWalk) (va : Word) : State := { mapped with engines := [(1, x)], pcb := Cells.setAll [] [(0x1020, va), (0x1028, va), (0x1038, 1)], mem := m }
    let a := s {} 0x1040
    let q := a.engQueue 1 (a.engCell 1 0)
    let b := (s { busy := true } 0x1040)
    ((Cells.get a.pcb (0x1018 + 0x20 * 1)).toNat % 2 = 1 ∧ (Cells.get a.pcb (0x1018 + 0x20 * 1)).toNat / 2 % 2 = 0 ∧ (a.engineOf 1).busy = false)
      ∧ (q.1 = some 0x4040 ∧ ((s {} 0x9000).engQueue 1 0x9000).1 = none) ∧ (q.2.queueStep (dispTid 0) (q.2.engCtx 1) .supervisor 0x4040 none).1.2 = 0
      ∧ ((b.engineOf 1).busy = true ∧ (b.engineOf 1).pieces = [] ∧ (b.engQueue 1 (b.engCell 1 8)).1 = some 0x4040 ∧ ((s { busy := true } 0x9000).engQueue 1 0x9000).1 = none
        ∧ (b.queueStep (dispTid 0) 0 .supervisor 0x4040 (some 9)).1.1 = 0)
      ∧ ((1 ≤ 16 ∧ 16 ≤ 16 ∧ (((List.range 78).filter fun q => decide (q < 31) = decide (77 < 31)).map fun q => (List.replicate 77 0 ++ [16]).getD q 0).sum ≤ 320)) :=
  ⟨by decide +kernel, by decide +kernel, by decide +kernel, by decide +kernel, by decide +kernel⟩

theorem witness_FirmwareSteps :
    let l := { State.reset with leaseHeld := true, leaseEpoch := 5, leaseExp := 1, fuseReq := true, attest := [List.replicate 44 0] }
    let r : ErrRep := { off := 4096, un := false, cyc := 9 }
    let s (c : Nat) : State := { State.reset.modStation 0 (fun x => { x with errs := [r], testing := some (r, 0) }) with cyc := c }
    let z : State := { State.reset.modStation 0 (fun x => { x with scan := some (3, 32767, 16) }) with cyc := 16 }
    (l.leaseHeld = true ∧ l.tb < l.leaseExp ∧ ¬ ({ l with tb := 1 } : State).tb < 1 ∧ 4 < l.leaseEpoch ∧ l.leaseEpoch ≤ 5 ∧ l.fuseReq = true ∧ l.attest = [List.replicate 44 0])
      ∧ (leNat (([] : List Byte).take 4) ≠ 0x46585358)
      ∧ ((s 2048).station 0).errs = [r] ∧ ((State.reset.modStation 0 fun x => { x with errs := [r] }).station 0).testing = none
      ∧ (((s 2048).station 0).testing = some (r, 0) ∧ 0 + 2048 ≤ (s 2048).cyc ∧ (∃ e ∈ ((s 2048).station 0).errs, e.off / 2048 = r.off / 2048 ∧ 0 ≤ e.cyc)
        ∧ ((s 2048).station 0).retired.countP (fun q => bankOf q = bankOf 2) < 32)
      ∧ (z.scanDue = some 0 ∧ ({ z with cyc := 15 } : State).scanDue = none ∧ (z.station 0).scan = some (3, 32767, 16))
      ∧ (min 105 ((Cells.get State.reset.pcb 0x4008).toNat / 2 ^ 8 % 2 ^ 8) = 95 ∧ State.reset.temp < 95 ∧ 95 + 10 ≤ ({ State.reset with temp := 105 } : State).temp) :=
  ⟨by decide, by decide, by decide, by decide, by decide, by decide, by decide⟩

theorem witness_GuardAndToken :
    let c3 (d : Fin 4) : Ctl := { v := 3, d := d }
    let off : Ctl := { v := 3, d := 1, mods := some { gen := true, gneg := true, gp := 0 } }
    let a := at_ .x { top with hdr := BitVec.ofNat 64 (3 * 2 ^ 20), tok := [(1, [none])] }
    (Instr.rdv (c3 0)).ctl = some (c3 0) ∧ (thOf State.reset).head .x = none ∧ (thOf a).head .x = some {} ∧ wbits (thOf a).hdr 20 4 = 3
      ∧ (3 ≤ (c3 3).d.val ∧ (c3 2).d.val < 3 ∧ (thOf a).tokens 2 = [] ∧ (thOf a).tokens 1 ≠ [])
      ∧ (∃ m, off.mods = some m ∧ m.gen = true ∧ (if m.gp.val = 0 then true else (thOf a).p.getLsbD (physP 0 m.gp.val)) = m.gneg) :=
  ⟨rfl, by decide, by decide, by decide, by decide, _, rfl, rfl, rfl⟩

theorem witness_IssueFrame :
    let a := at_ .x { top with tok := [(1, [none])] } {}
    a.CanRun { v := 3, d := 1 } {} ((thOf a).consume .x 1 |>.setHead .x { tok := true }) ∧ a.CanRun { v := 2, d := 3 } {} (thOf a) :=
  ⟨⟨rfl, by decide, by decide⟩, can rfl (by decide) rfl⟩

theorem witness_StepRuns :
    let e : Entry := { word := 0x00004430 }
    let s : State := { at_ .s top e with agenda := [.issue ⟨0, 0, 0⟩ .s, .ev .powerDecision] }
    let b := at_ .s top { word := 0xC0000000 }
    (s.agenda = .issue ⟨0, 0, 0⟩ .s :: [.ev .powerDecision] ∧ s.canIssue ⟨0, 0, 0⟩ .s = true ∧ (s.spoiled ⟨0, 0, 0⟩ .s).isNone = true ∧ (s.thread ⟨0, 0, 0⟩).head .s = some e
        ∧ (decodeInstr e.word e.exts).toOption = some (.add {} 1 2 3))
      ∧ ((thOf b).head .s = some { word := 0xC0000000 } ∧ (decodeInstr 0xC0000000 []).toOption = none) ∧ s.canIssue ⟨0, 0, 0⟩ .v = false
      ∧ (State.reset.agenda = [] ∧ State.reset.inReset = false ∧ State.reset.enabled = [])
      ∧ ({ State.reset with inReset := true, inputs := [.pll] } : State).inputs = [.pll] ∧ Input.release ∉ [Input.pll] ∧ Input.release ∈ [Input.pll, .release] :=
  ⟨by decide, by decide, by decide, by decide, rfl, by decide, by decide⟩

theorem witness_DecodeEncode :
    let i : Instr := .vperm { v := 3, d := 3, mods := some { gen := true, gp := 7 } } ⟨7, .anti, 3⟩ ⟨0, .row, 0⟩ ⟨1, .col, 2⟩ 127
    i.ctl = some { v := 3, d := 3, mods := some { gen := true, gp := 7 } } ∧ i.wf = true := by decide

/-- Memory in its canonical form, and a step that answers a next state. -/
theorem witness_MemoryInvariant : State.reset.memWf ∧ ∃ t, step State.reset = .next t := ⟨rfl, _, rfl⟩

theorem witness_ClockPulse :
    let s (p k : Nat) : State := { State.reset with period := p, pcb := Cells.set State.reset.pcb 0x4008 (BitVec.ofNat 64 (8 * 2 ^ 16 + 95 * 2 ^ 8 + k)) }
    let order := [15, 7, 11, 3, 13, 5, 9, 1, 14, 6, 10, 2]
    (s 15 1).inputs = [] ∧ (Cells.get (s 15 1).pcb 0x4008).toNat % 16 = 1 ∧ (0 < 1 ∧ order[0]? = some (s 15 1).period) ∧ (∀ n, n < 1 → order[n]? ≠ some (s 7 1).period)
      ∧ (s 0 0).period = 0 :=
  ⟨rfl, by decide, by decide, by decide, by decide⟩

/-- A root table at 0x1000000, pointer entries down to level 1, a leaf of 2 MiB there; a bad entry, and an address in the segments' region. -/
theorem witness_Translation :
    let root := 0x1000000
    let s : State := { State.reset.setCb 0 0x2000 (BitVec.ofNat 64 root) with
      mem := [(root, 0x1001001), (0x1001000, 0x1002001), (0x1002000, 0x1003001), (0x1003000, 7)].foldl (fun m p => Memory.writeBytes m p.1 (leBytes 8 p.2)) [] }
    let tab (k : Nat) : Nat := [0, 0x1003000, 0x1002000, 0x1001000, root].getD k 0
    let e (k : Nat) : Nat := s.mem.readN (tab k) 8
    (s.cached ⟨0, 0, 0⟩ 0 0x1234 = none ∧ (s.station 0).wc = [] ∧ 0x1234 / 2 ^ 48 < 511 ∧ tab 4 = ((s.cb 0 0x2000).toNat / 2 ^ 12 % 2 ^ 40) * 4096)
      ∧ (∀ k, k ∈ [1, 2, 3, 4] → s.paKind (tab k) = .own) ∧ (∀ k, k ∈ [2, 3, 4] → tbit (e k) 0 = true ∧ reservedBits (e k) k = false ∧ tab (k - 1) = e k / 2 ^ 12 % 2 ^ 40 * 4096)
      ∧ (tbit (e 1) 0 = true ∧ tbit (e 1) 1 = true ∧ reservedBits (e 1) 1 = false ∧ s.paKind 0 = .own ∧ s.paKind (2 ^ 21 - 1) = .own)
      ∧ (State.reset.paKind 0 = .own ∧ (State.reset.setCb 0 0x2000 (BitVec.ofNat 64 (2047 * 2 ^ 41))).paKind (2047 * 2 ^ 41) ≠ .own)
      ∧ ((2 ^ 57 - 1) / 2 ^ 48 = 511 ∧ 2 ^ 57 ≤ 2 ^ 57 ∧ 2303999 % 2 ^ 22 < 2304000 ∧ 64 * 2 ^ 22 ≤ (511 * 2 ^ 48 + 64 * 2 ^ 22) % 2 ^ 48) :=
  ⟨by decide +kernel, by decide +kernel, by decide +kernel, by decide +kernel, by decide +kernel, by decide⟩

/-- A thread of one row about to issue an X word; slot 0 of context 0 is valid with 64 results and one probe. -/
def tapping (th : Thread) : State :=
  at_ .x { th with slate := [(0, 1)], l := [(0, 1)] } {}
    { ((State.reset.setCb 0 0x2A08 0x10000).setCb 0 0x2800 0x100) with mem := Memory.writeBytes [] 0x100 (leBytes 8 (2 ^ 63 + 2 ^ 16 + 64)) }

theorem witness_TapWords :
    let a := tapping (rs top 1 0)
    let none_ := tapping { top with hdr := 0 }
    let u := tapping { top with priv := .user }
    let late := tapping { top with qv := { es := [{ seq := 0 }] } }
    (a.CanRun {} {} (thOf a) ∧ none_.CanRun {} {} (thOf none_) ∧ u.CanRun {} {} (thOf u))
      ∧ ((a.tapSlot 0 0 0).v = true ∧ (a.tapSlot 0 0 0).nres = 64 ∧ (a.tapSlot 0 0 1).v = false ∧ 64 * 0 + 63 < 64 ∧ ¬ 64 * 1 + 63 < 64)
      ∧ (physZ 0 7 < (thOf a).planes ∧ (thOf none_).planes ≤ physZ 0 0 ∧ 6 % 2 = 0 ∧ 6 % 8 + 1 < (thOf a).planes ∧ (thOf none_).planes ≤ 0 % 8 + 1 ∧ 7 % 2 = 1)
      ∧ ((∀ y ∈ (thOf a).entries, 0 ≤ y.seq) ∧ (∃ y ∈ (thOf late).entries, ¬ 1 ≤ y.seq) ∧ (thOf u).priv = .user)
      ∧ (a.prbTarget 0 0 0x3F = some (0x100 + 64 + 16 * 63, 16) ∧ a.prbTarget 0 0 0x41 = none ∧ a.inTables 0 (0x100 + 64 + 16 * 63) 16 = true ∧ a.inTables 0 0xFFF1 16 = false
        ∧ 768 * 4096 - 16 + 16 ≤ (thOf a).csBytes ∧ (thOf none_).csBytes < 0 + 16) :=
  ⟨⟨can rfl (by decide) rfl, can rfl (by decide) rfl, can rfl (by decide) rfl⟩, by decide +kernel, by decide, by decide, by decide +kernel⟩

/-- A tap command whose time has come, and a probe that its score crosses. -/
theorem witness_TapWords_effect :
    let m : XCmd := { t := ⟨0, 0, 0⟩, seq := 0, base := 0, instr := .tapclr {} 1, ops := [0], rows := 1, done := 8 }
    let s : State := { State.reset.modCore 0 0 (fun k => { k with xs := [m] }) with cyc := 8 }
    (s.core 0 0).xs.find? (fun x => x.t == ⟨0, 0, 0⟩) = some m ∧ m.done ≤ s.cyc ∧ m.instr = .tapclr {} 1 ∧ (0 : Nat) < 64
      ∧ isNan32 0x7FC00000 = true ∧ Cond.fp .lt 0xBF800000 0 = true ∧ Cond.fp .gt 0x3F800000 0 = true :=
  ⟨by decide, by decide, rfl, by decide, by decide, by decide, by decide⟩

/-! Witnesses of the clauses that wait, of losses, and of what two parties do at once. -/

/-- A module that has the page of context 0's tables on its way to another module, so that every walk of the context waits (R252). -/
def leaving : State := mapped.modStation 0 fun x => { x with migr := [{ page := 0, st := .leaving, module_ := 3 }] }

/-- A tap word under way of the thread that runs in `at_`. -/
def tapWord : XCmd := { t := ⟨0, 0, 0⟩, seq := 0, base := 0, instr := .tapclr {} 1, done := 8 }

theorem witness_TrapWords_busy :
    let b := at_ .s { top with ctx := 15 } {} ((State.reset.setCb 0 0x1A90 0x8000).modCore 0 0 fun k => { k with xs := [tapWord] })
    b.CanRun {} {} (thOf b) ∧ (b.cb 0 0x1A90).getLsbD 15 = true ∧ (∃ x ∈ (b.core 0 0).xs, x.t = b.cur.1) ∧ ∀ r, (thOf b).preq = some r → r.seen ≤ b.cyc :=
  ⟨can rfl (by decide) rfl, by decide, by decide, nofun⟩

/-- An operation of an earlier word that is about to end. -/
def early : MemOp := { id := 1, kind := .load, e := { seq := 0 }, stage := .done }

theorem witness_FenceWords_waits :
    let e : Entry := { seq := 1 }
    let b : SbEntry := { id := 0, e := { seq := 0 }, va := 0x1008, size := 8, v := 7, pa := some 0x4008 }
    let a (th : Thread) (s : State) := at_ .s th e s
    let s0 (s : State) := s.setThread s.cur.1 (thOf s)
    let rel (s : State) (w : Scope) := (s.ctx {} e).release (s0 s) e w
    let st := a { top with sb := [b] } mapped
    let ld := a { top with ops := [early] } mapped
    let cs := a { top with pend := [⟨9, 0, 0, .s, [.cs 0 1]⟩] } mapped
    let iv := at_ .s { top with acq := [⟨.station, 70, .s⟩] } { stage := 2 }
    let cm := at_ .s (rs (rs top 1 0x9080) 2 1) {} leaving
    (st.CanRun {} e (thOf st) ∧ (rel st .core).1 = false ∧ (rel st .station).1 = false)
      ∧ (ld.CanRun {} e (thOf ld) ∧ (rel ld .core).1 = true ∧ ¬ (∀ o ∈ ((rel ld .core).2.2.thread ld.cur.1).ops, 1 ≤ o.e.seq) ∧ ¬ (∀ o ∈ (thOf ld).ops, 1 ≤ o.e.seq))
      ∧ (cs.CanRun {} e (thOf cs) ∧ ((rel cs .station).2.2.thread cs.cur.1).csLanded 1 = false)
      ∧ (iv.CanRun {} { stage := 2 } (thOf iv) ∧ ∃ y ∈ (thOf iv).acq, y.q = .s)
      ∧ (cm.CanRun {} {} (thOf cm) ∧ ((s0 cm).cmoPages ⟨0, 0, 0⟩ 0 .supervisor .flush true (0x9080 + 1) (pagesOf 0x9080 1)).1 = some fWait) :=
  ⟨⟨can rfl (by decide) rfl, by decide +kernel, by decide +kernel⟩, ⟨can rfl (by decide) rfl, by decide +kernel, by decide +kernel, by decide +kernel⟩, ⟨can rfl (by decide) rfl, by decide +kernel⟩,
    ⟨can rfl (by decide) rfl, _, List.mem_singleton.2 rfl, rfl⟩, can rfl (by decide) rfl, by decide +kernel⟩

theorem witness_AtomicWords_dirty :
    let s := mapped.modCore 0 0 fun c => { c with lines := [line0], fifo := [.line 0x4000] }
    OpKind.atHome .cas = true ∧ (s.core 0 0).line? (0x4008 / 128 * 128) = some line0 ∧ line0.mask ≠ 0 ∧ line0.mask.getLsbD 8 = true := by decide +kernel

theorem witness_BarrierWait_waits :
    let w := at_ .s { rs top 1 0x1000 with slots := [(0, { bound := true, addr := 0x1000 })] } {} mapped
    let h := at_ .s (rs top 1 0x9000) {} leaving
    let s0 (s : State) := s.setThread s.cur.1 (thOf s)
    (w.CanRun {} {} (thOf w) ∧ (s0 w).walkWaits w.cur.1 0 0x1000 = false ∧ ((s0 w).targetFill w.cur.1 0 .supervisor 0x1000 .atomic 16).1 = .at_ 0x4000 false
        ∧ (((s0 w).targetFill w.cur.1 0 .supervisor 0x1000 .atomic 16).2.bobj 0x4000).phase = ((thOf w).bslot 0).phase
        ∧ ((((s0 w).targetFill w.cur.1 0 .supervisor 0x1000 .atomic 16).2.thread w.cur.1).head .s).isSome = true)
      ∧ h.CanRun {} {} (thOf h) ∧ (s0 h).walkWaits h.cur.1 0 0x9000 = true :=
  ⟨⟨can rfl (by decide) rfl, by decide +kernel⟩, can rfl (by decide) rfl, by decide +kernel⟩

theorem witness_RowWords_commit :
    let a := at_ .s { jobTh with qc := { es := [{ seq := 0 }] } } { seq := 1 } withJob
    a.CanRun {} { seq := 1 } (thOf a) ∧ (a.setThread a.cur.1 (thOf a)).copiesDone a.cur.1 1 = false ∧ 0 < (thOf a).rows ∧ (thOf a).rowLive 0 = true :=
  ⟨can rfl (by decide) rfl, by decide, by decide, by decide⟩

/-- The control registers that FRZRD and FRZWR name; a thread to be killed that is a member of a barrier. -/
theorem witness_FrozenWords_state :
    let b (m : Bool) : BSlot := { bound := true, addr := 0x1000, member := m }
    let s (c : State) := (c.setThread ⟨0, 1, 0⟩ { hdr := fullHeader, status := .frozen, slots := [(0, b true)] }).modCore 0 1 fun k => { k with mutlb := [leaf0] }
    (CReg.ofNumber 0x3FF = none ∧ CReg.ofNumber 0x009 = some .bud ∧ CReg.ofNumber 0x010 = some .rm ∧ (10 < 11))
      ∧ ((b true).bound = true ∧ (b true).member = true ∧ (b false).member = false
        ∧ (s mapped).xlateFull ⟨0, 1, 0⟩ ((s mapped).thread ⟨0, 1, 0⟩).ctx ((s mapped).thread ⟨0, 1, 0⟩).priv 0x1000 .atomic = .pa 0x4000 false)
      ∧ (s mapped).walkWaits ⟨0, 1, 0⟩ 0 0x9000 = false ∧ (s leaving).walkWaits ⟨0, 1, 0⟩ 0 0x9000 = true := by decide +kernel

/-- Rows that the trap steps meet: one without a skip, one that a skip has taken, one that a trap has. -/
theorem witness_SequenceTrapAndHalt_rows :
    let w (skipped byTrap : Bool) : Row := { va := 0x1000, pa := 0x4000, skipped := skipped, byTrap := byTrap }
    let s (r : Row) : State := (State.reset.modStation 0 fun x => { x with jobs := [{ job0 with rows := [r] }] }).setThread ⟨0, 0, 0⟩ jobTh
    (∀ a b, (s (w a b)).rowBlock ⟨0, 0, 0⟩ 0 = some (w a b)) ∧ ({ jobTh with trapped := 1 } : Thread).trapped.getLsbD 0 = true ∧ 0 < 64 :=
  ⟨by decide, by decide, by decide⟩

/-- A conversion that DTH admits, one that it does not admit, one that is inexact, one that is exact. -/
theorem witness_VectorLaneForms_modes :
    Fmt.admitsDither .e4m3 .fp32 = true ∧ Fmt.admitsDither .fp32 .i32 = false ∧ Fmt.precision .fp32 < Fmt.precision .i32 ∧ ¬ Fmt.precision .fp32 < Fmt.precision .i8
      ∧ (let c : Ctl := { mods := some { type := .fp32, rnd := .dth } }; c.type.isFp = true ∧ ∃ m, c.mods = some m ∧ m.rnd = .dth) := by decide

theorem witness_StreamPins_waits :
    let a := at_ .m (rs four 1 64) {} leaving
    let s0 := a.setThread a.cur.1 (thOf a)
    a.CanRun {} {} (thOf a) ∧ s0.pinWaits a.cur.1 (cleanRecord (rec1 1 0x9000)).1 = true ∧ s0.pinWaits a.cur.1 (cleanRecord (rec1 0 0)).1 = false :=
  ⟨can rfl (by decide) rfl, by decide +kernel, by decide⟩

/-- MMC of one row of an E4M3 product, and nests of one pass, of a second pass beyond the core store, and of a row beyond the window. -/
theorem witness_VatPlans_products :
    let g : Cells 64 := Cells.setAll [] [(1, 2), (9, 2)]
    let th (v : Word) (n : Cells 64) : Thread := rs { four with hdr := BitVec.ofNat 64 (4 * 2 ^ 52 + 65 * 2 ^ 40 + 2 ^ 30), g := g, nest := n } 1 v
    let s (v : Word) (n : Cells 64) : State := State.reset.setThread ⟨0, 0, 0⟩ (th v n)
    let e4 : Ctl := { mods := some { type := .e4m3 } }
    let one : Cells 64 := [(0, 1)]
    let two : Cells 64 := [(0, 1), (1, BitVec.ofNat 64 (2 + 5000 * 2 ^ 32))]
    let G := Stream.of ((th 0 []).stream 0)
    let P (n : Cells 64) (b : Nat) := nestProducts (nestLevels n) b G G
    let ok (i : Instr) (v : Word) (n : Cells 64) : Bool := match ((s v n).vatPlan ⟨0, 0, 0⟩ 0 i).1 with
      | .ok _ => true
      | .error _ => false
    (ok (.mmc e4 0 1 true) 0x100000000 [] = true ∧ ok (.mmc e4 0 1 true) 0 [] = false ∧ ok (.mmc e4 0 1 true) 0x100000041 [] = false
        ∧ ok (.mmc e4 0 1 true) 0x100410000 [] = false ∧ (vatKc G.fmt .e4m3).isSome = true ∧ G.nk = 1 ∧ G.nl = 1)
      ∧ (nestLevels one ≠ [] ∧ nestLevels [] = [] ∧ ok (.mmm {} 0 1 1 true true) 0 one = true ∧ ok (.mmm {} 0 1 1 true true) 0 two = false ∧ ok (.mmm {} 0 1 1 true true) 65 one = false)
      ∧ (((s 0 one).usePin ⟨0, 0, 0⟩ 0).1.toOption = some none ∧ (P one 0).all (fun p => (p.g.inside (th 0 one) (fun _ => false) none).isNone && (p.h.inside (th 0 one) (fun _ => false) none).isNone) = true)
      ∧ ((P two 0).length = 2 ∧ ((P two 0)[1]?.bind fun p => p.g.inside (th 0 two) (fun _ => false) none) = some (fOver 2)
        ∧ (P one 65).any (fun p => decide ((th 0 one).accRows < p.row + 1)) = true) := by decide +kernel

/-- Commands as they stand before they complete: a product, a chained product, conversions; a landed write that beats ARD's. -/
theorem witness_VatLeaseSteps_products :
    let cmd (i : Instr) (ops : List Nat) (rows : List (Nat × Nat)) (n : Cells 64) : VatCmd :=
      { id := 0, t := ⟨0, 0, 0⟩, seq := 0, base := 0, instr := i, ops := ops, rows := rows, acc := 0, gs := [rec1 0 0, rec1 0 64], nest := n }
    let e4 : Ctl := { mods := some { type := .e4m3 } }
    let p := nestProducts (nestLevels [(0, 1)]) 0 (Stream.of (rec1 0 0)) (Stream.of (rec1 0 64))
    let s : State := { State.reset.setThread ⟨0, 0, 0⟩ { top with landed := [⟨1, 1, 5, .v, [.z 7 2]⟩] } with cyc := 3 }
    let m := cmd (.ard {} 0 0 1) [0, 0] [] []
    ((cmd (.mmm {} 0 1 1 true false) [] [(3, 1)] []).rows.length = 1 ∧ (cmd (.mmm {} 0 1 1 true true) [] [(3, 1)] [(0, 1)]).rows.length = p.length)
      ∧ ((cmd (.mmc e4 0 1 true) [0, 1, 1] [(3, 1)] []).ops = [0, 1, 1] ∧ e4.type = .e4m3)
      ∧ ((cmd (.awr e4 1 2 3) [0, 2] [(3, 64)] []).rows = [(3, 64)] ∧ e4.type ≠ .dflt ∧ e4.type ≠ .fp32 ∧ m.ops = [0, (0 : Fin 4).val] ∧ m.abandoned = false)
      ∧ (s.beaten m (.z 7 9) = true ∧ s.beaten m (.z 8 9) = false ∧ (s.station 0).uncorr = []) := by decide +kernel

theorem witness_VatProduct_streams :
    let g := Stream.of (rec1 0 0)
    0 < 4 ∧ 0 * 4 < g.nk ∧ 0 < g.nl ∧ g.fmt.width ≠ 4 ∧ Fmt.group .q4g32 ≠ 0 ∧ 0 < ([0] : List Word32).length := by decide

/-- A segment that left the core with a load: it stands in its frame still, or another has come. -/
theorem witness_LoadSteps_segments :
    let pa := 2 ^ 52 + 5 * 2 ^ 22 + 256
    let r : Resident := { arriveSlot := 3, arrive := 65000, expiry := 82280 }
    let o (g : Option Resident) : MemOp := { id := 2, kind := .load, e := {}, va := 0x1008, pa := some pa, stage := .send, since := 65600, seg := g }
    let s (slot c : Nat) : State := { (under (o (some r))).modStation 0 (fun x => { x with frames := [(5, { r with arriveSlot := slot })] }) with cyc := c }
    (r.arrive + 8 + (256 + 8 - 1) / 6400 ≤ (s 3 65700).cyc ∧ 65600 + 32 ≤ r.expiry ∧ (s 3 65700).hasFrame 0 5 = true ∧ ((s 3 65700).frame 0 5).arriveSlot = r.arriveSlot
        ∧ ((s 67 65700).frame 0 5).arriveSlot ≠ r.arriveSlot ∧ (s 3 65007).cyc < r.arrive + 8 + (256 + 8 - 1) / 6400)
      ∧ ((o none).seg = none ∧ (under (o none)).frameHas 0 5 256 8 = false)
      ∧ (let w : MemOp := { id := 2, kind := .load, e := {}, va := 0x9008 }
        w.stage = .walk ∧ (leaving.setThread ⟨0, 0, 0⟩ { top with ops := [w] }).walkWaits ⟨0, 0, 0⟩ 0 0x9008 = true) := by decide +kernel

theorem witness_HomeUpdates_page :
    let o : MemOp := { id := 2, kind := .enq, e := {}, va := 0x1000, pa := some 0x4000, size := 64, stage := .send }
    let q : State := { under o with mem := Memory.writeBytes [] 0x4000 (leBytes 8 0x1100 ++ leBytes 8 1 ++ leBytes 8 5 ++ leBytes 8 6) }
    q.pageHeld 0x4000 = false ∧ (q.xlateTo ⟨0, 0, 0⟩ 0 .supervisor 0x1108 8 .atomic).1 = .pa 0x4108 false ∧ paModule 0x4108 = paModule 0x4000 := by decide +kernel

/-- A save whose record is due in two cycles, is due, and is due where a write has been lost. -/
theorem witness_DrainSteps_record :
    let t : Tid := ⟨0, 0, 0⟩
    let th (d : Drain) (save : Option Nat) : Thread :=
      { jobTh with drain := some d, saveAt := save, drainE := some (.s, {}), rel := some { scope := .system, mark := some 1 } }
    let s (d : Drain) (save : Option Nat) (lost : Bool) : State := { (withJob.setThread t (th d save)).modCore 0 0 (fun k => { k with lost := lost }) with cyc := 5 }
    let done (s : State) := s.release t 0 { scope := .system, mark := some 1 }
    ((s .forced none false).drained t = true ∧ ((s .forced none false).thread t).saveAt = none ∧ ((s .forced (some 7) false).thread t).saveAt = some 7
        ∧ (s .forced (some 7) false).cyc < 7 ∧ 5 ≤ (s .forced (some 5) false).cyc)
      ∧ ((done (s .forced (some 5) false)).1 = true ∧ ((done (s .forced (some 5) false)).2.2.core 0 0).lost = false ∧ ((done (s .yield_ (some 5) true)).2.2.core 0 0).lost = true
        ∧ ((s .yield_ (some 5) true).thread t).drainE = some (.s, {})) := by decide +kernel

/-- A context with one dispatch entry that matches every payload segment of model 0; the context halted; the segment poisoned. -/
theorem witness_SlateSteps_entries :
    let s : State := { (((mapped.setCb 0 0x2008 (BitVec.ofNat 64 (2 ^ 63))).setCb 0 0x400 0x1000).setCb 0 0x438 1) with mem := Memory.writeBytes [] 0x4000 (leBytes 8 (2 ^ 63)) }
    s.dispatches 0 0 = true ∧ (s.findEntry 0 0 {} 1024 0).2 = 0 ∧ (s.findEntry 0 0 {} 1024 0).1.isSome = true ∧ s.halted 0 0 = false ∧ (s.setCb 0 0x2C18 1).halted 0 0 = true ∧ (({} : Resident).setPoison true).poison = true := by
  decide +kernel

/-- A halt that waits for a tap word; a thread that a debugger saves; one that is being restored. -/
theorem witness_DebugSteps_busy :
    let t : Tid := ⟨0, 0, 0⟩
    let s (th : Thread) : State := ((State.reset.setThread t th).modCore 0 0 fun k => { k with xs := [tapWord] }).setCb 0 0x1A90 1
    let th : Thread := { top with halted := true }
    ((∃ x ∈ ((s top).core 0 0).xs, x.t = t) ∧ ((s top).cb 0 0x1A90).toNat.testBit top.ctx = true ∧ ({ top with halting := true } : Thread).halting = true)
      ∧ (th.restoring = none ∧ th.kind ≠ .handler ∧ th.newFault = none ∧ ({ th with restoring := some (0, 0) } : Thread).restoring ≠ none) := by decide

/-- Two requests for the lease in one source period. -/
theorem witness_ControlBlockWrites_lease :
    let w : CbWrite := { st := 3, off := 0x2C18, size := 8, val := 1, priv := .firmware }
    let c : LeaseCell := State.reset.leaseCell
    let s : State := { State.reset with cbw := some w, leaseNow := some (c, [(1, true), (7, false)]) }
    s.cbw = some w ∧ s.leaseNow = some (c, [(1, true), (7, false)]) ∧ ([(1, true), (7, false)] : List (Nat × Bool)).Pairwise (fun a b => a.1 ≤ b.1) := by decide

/-- Operations of the host that are taken and those that are refused; a station that has failed; a queue whose page is under migration. -/
theorem witness_HostSteps_roce :
    let f := State.reset.modStation 0 fun x => { x with lost := true }
    (1024 = 1024 ∨ 1024 = 2048) ∧ ¬ (512 = 1024 ∨ 512 = 2048 ∨ 512 = 4096) ∧ (f.station 0).lost = true
      ∧ (leaving.modStation 0 fun x => { x with migr := [{ page := 4, st := .leaving, module_ := 3 }] }).pageHeld 0x4040 = true := by decide

/-- 65 CRC errors of lane 2 within the window, and 64. -/
theorem witness_FabricSteps_lane :
    let es (n : Nat) : List (Nat × Nat) := (2, 100) :: List.replicate n (2, 50)
    let p : Port := { lanes := [1, 2], up := true, crc := List.replicate 64 (2, 50) }
    2 ∈ p.lanes ∧ 64 < (es 64).countP (·.1 == 2) ∧ ¬ 64 < (es 63).countP (·.1 == 2)
      ∧ (mapped.engHeld 1 (mapped.engCell 1 0) = false ∧ (mapped.engineOf 1).waits = false ∧ ({ waits := true } : TWalk).waits = true) := by decide +kernel

/-- An attestation with a station's image to measure, a die at its limit, a row that failed before. -/
theorem witness_FirmwareSteps_reset :
    let r : List Byte := List.replicate 44 0
    let s : State := { State.reset with inReset := true, badRows := [(0, 5)], inputs := [.release] }
    44 ≤ r.length ∧ 125 ≤ 125 ∧ ¬ 124 ≥ 125 ∧ s.badRows = [(0, 5)] ∧ s.inputs = .release :: [] := by decide

/-- TAPEVAL's rows and counters, TAPSTR's entry that is steered, skipped or not named, and TAPDOT's residual snapshot. -/
theorem witness_TapWords_rows :
    let m : XCmd := { t := ⟨0, 0, 0⟩, seq := 0, base := 0, instr := .tapstr {} 0 1 0, ops := [0], rows := 1, done := 8, mem0 := Memory.writeBytes [] 0x4108 (leBytes 8 0x1000) }
    let s : State := { mapped with mem := Memory.writeBytes [] 0x4220 (leBytes 8 0x1000) }
    let v := ({ m with mem0 := s.mem } : XCmd).view s
    v.homeN (0x4000 + 0x220) 8 = 0x1000 ∧ (v.homeN (0x4100 + 0x220) 8 = 0)
      ∧ ((s.xlateRange ⟨0, 0, 0⟩ 0 .supervisor 0x1000 256 .write).1.toOption = some [(.pa 0x4000 false, 256)] ∧ s.paKind 0x4000 ≠ .control ∧ s.paKind 0x4000 ≠ .bad)
      ∧ (∃ f, (s.xlateRange ⟨0, 0, 0⟩ 0 .supervisor 0x9000 256 .write).1 = .error f)
      ∧ ((List.replicate 64 (0 : Word32)).length = 64 ∧ (2 ^ 63 + 2 ^ 32).testBit 63 = true ∧ (2 ^ 63 + 2 ^ 32).testBit (32 + 0) = true ∧ (2 ^ 63).testBit (32 + 0) = false) :=
  ⟨by decide +kernel, by decide +kernel, by decide +kernel, ⟨_, rfl⟩, by decide⟩

/-! The spec's own worked examples. -/

/-- Encodings that the spec prints beside their assembly: R56, R83, R97, R116, R158, R196 to R206, R225, R294. -/
theorem test_spec_words : decodeAll [
    ([0x008487FB], .cmpi {} 2 3 0x1FB .lt), ([0x00324000], .getc {} 9 .cyc),
    ([0x206C48A4], .vfma {} ⟨3, .row, 1⟩ ⟨1, .row, 1⟩ ⟨2, .col, 0⟩), ([0x40612025], .mmm {} 1 2 5 true false),
    ([0x0159C802], .ld {} .d 7 4 2), ([0x017AEA00], .st {} .d 11 21 0), ([0x01D08004], .fence {} .rel .modul),
    ([0x01E00C76], .cmo {} 6 7 .flush true), ([0x01E84802], .pref {} true 4 2), ([0x01A94C70], .amo {} true 5 6 7 .add),
    ([0x01B94C70], .cas {} true 5 6 7), ([0x01C14C70], .enq {} 5 6 7), ([0x60900009], .cwait {} true 1),
    ([0x0158D600, 0xE8000540], .ld { mods := some { scope := .domain, ord := .acquire } } .d 3 11 0)] = true := by decide

/-- The table of R294. -/
theorem test_spec_words_progress : decodeAll [
    ([0x80200000], .yield_ {}), ([0x80294000], .pchk {} 5), ([0x80300800], .budg {} 4), ([0x80380C00], .segwait {} 6),
    ([0x80400850], .accept {} 4 5), ([0x80480800], .commit {} 4), ([0x80500E01], .timewait {} 7 true), ([0x80580850], .ttarm {} 4 5),
    ([0x80600005], .syscall {} 5), ([0x80680003], .trap {} 3), ([0x80700802], .sqtrap {} 4 2), ([0x80780850], .telm {} 4 5)] = true := by decide

/-- The tables of R335 and R356, and HALTX. -/
theorem test_spec_words_taps_frozen : decodeAll [
    ([0xA0065000], .tapsel {} 3 5), ([0xA0266020], .tapstr {} 3 6 2), ([0xA04663A0], .tapdot {} 3 6 7 2), ([0xA0667401], .tapeval {} 3 7 8 1),
    ([0xA0807000], .tapclr {} 7), ([0xA0A69500], .taprd {} 3 9 10), ([0xA0C64280], .tapprb {} 3 4 5), ([0xA0E04280], .tapstv {} 4 5),
    ([0x80814800], .frzinfo {} 5 4), ([0x808A4800], .frzrd {} 9 4 0), ([0x80900860], .frzwr {} 4 6 0), ([0x80994860], .frzld {} 5 4 6),
    ([0x80A14860], .frzst {} 5 4 6), ([0x80A80860], .frzarv {} 4 6), ([0x80B00800], .frzres {} 4 0), ([0x80B80800], .frzkil {} 4),
    ([0x80C00800], .haltx {} 4)] = true := by decide

/-- The program of R96: LI, LOOP with ROT, guarded words, LOOPEND of -6. -/
theorem test_spec_words_loop : decodeAll [
    ([0x0079C003], .li {} 7 3), ([0x00CA0E01], .loop {} 8 7 false true),
    ([0x01160A00, 0xE800A000], .lds { mods := some { gen := true, gp := 4 } } .w 24 5 0),
    ([0x00018D90, 0xE800A800], .add { mods := some { gen := true, gp := 5 } } 6 6 25), ([0x00D07FFA], .loopend {} 0x7FFA)] = true := by decide

/-- FP32 0x3E99999A to E4M3 (the worked conversions of spec/03_numbers.md): RNE, and DTH with d = 0, 224 and 128. -/
theorem test_e4m3 :
    let v := (readAs .fp32 false 0x3E99999A).1
    let go (m : RMode) (d : Nat) := writeAs .e4m3 { mode := m, d := d } v
    go .rne 0 = (0x2A, flNX) ∧ (go .dth 0).1 = 0x2A ∧ (go .dth 224).1 = 0x29 ∧ (go .dth 128).1 = 0x2A ∧ ditherD 1 2 0 = 224 ∧ ditherD 0 0 0x13 = 96 := by
  decide

/-- 464, 480 and infinity to E4M3; the two ties to BF16; an FP16 subnormal under FIN. -/
theorem test_conversions :
    let e4 (b : Nat) := writeAs .e4m3 {} (readAs .fp32 false b).1
    let bf (b : Nat) := writeAs .bf16 {} (readAs .fp32 false b).1
    e4 0x43E80000 = (0x7E, flNX) ∧ e4 0x43F00000 = (0x7E, flOF ||| flNX ||| flSATD) ∧ e4 0x7F800000 = (0x7E, flSATD)
      ∧ bf 0x3F808000 = (0x3F80, flNX) ∧ bf 0x3F818000 = (0x3F82, flNX)
      ∧ (readAs .fp16 true 1).2 = flFI ∧ (readAs .fp16 false 1).2 = 0 := by decide

/-- The records of R62 and R123: s = 0.0625, zp = 8. -/
theorem test_groups :
    let s := (fp16.input false 0x2C00).1
    let f (b : Nat) := (fp32.read b)
    let q (b : Nat) := quant 4 8 (f b) s
    (round32 {} (dequant 15 8 s)).1 = 0x3EE00000 ∧ (round32 {} (dequant 3 8 s)).1 = 0xBEA00000 ∧ (round32 {} (dequant 2 8 s)).1 = 0xBEC00000
      ∧ q 0x3EE00000 = (15, 0) ∧ q 0xBEB33333 = (2, flNX) ∧ q 0x3F800000 = (15, flSATD ||| flNV) := by decide

/-- log2 8 = 3 and 2^-3 = 0.125, exact and without NX (R118). -/
theorem test_exact_functions :
    round32 {} (Val.log2 (fp32.read 0x41000000)) = (0x40400000, 0) ∧ round32 {} (Val.exp2 (fp32.read 0xC0400000)) = (0x3E000000, 0)
      ∧ round32 {} (Val.rcp (fp32.read 0x40800000)) = (0x3E800000, 0) ∧ round32 {} (Val.rsq (fp32.read 0x40800000)) = (0x3F000000, 0) := by decide +kernel

/-- What one thread's pending writes are after its head word has issued. -/
def wrote (o : Outcome State Fault Refusal) : List (Nat × List RegW) :=
  match o with
  | .next s => (s.thread s.cur.1).pend.map fun w => (w.land, w.ws)
  | _ => []

/-- VIMAX.IDX S5, Z1.c[K2], S6 with lanes 3 and 7 at 2.5, a NaN in lane 10, the others -1.0, lanes 0 to 15 enabled (R125). -/
theorem test_vimaxIdx :
    let z : Cells 32 := Cells.setAll [] ((List.range 16).map fun i => (4096 + 64 * i, if i = 3 ∨ i = 7 then 0x40200000 else if i = 10 then 0x7FC00000 else 0xBF800000))
    wrote (exec (.vimaxIdx {} 5 ⟨1, .col, 2⟩ 6) (at_ .v { top with z := z, l := [(0, 0xFFFF)] })) = [(4, [.s 5 3, .s 6 0x40200000])] := by decide +kernel

/-- DIV of −2^63 by −1, REM by zero with IDZ (R79). -/
theorem test_div_corners :
    wrote (exec (.div {} 3 1 2) (at_ .s (rs (rs top 1 (BitVec.intMin 64)) 2 (BitVec.allOnes 64)))) = [(9, [.s 3 (BitVec.intMin 64)])]
      ∧ wrote (exec (.rem {} 3 1 2) (at_ .s (rs top 1 7))) = [(9, [.s 3 7, .flags flIDZ])] := by decide

/-- SAR by 65 shifts by 1; MULHI of −1 and 2; a write to S0 is discarded (R31, R78). -/
theorem test_scalar_edges :
    wrote (exec (.sar {} 3 1 2) (at_ .s (rs (rs top 1 (BitVec.intMin 64)) 2 65))) = [(1, [.s 3 0xC000000000000000])]
      ∧ wrote (exec (.mulhi {} 3 1 2) (at_ .s (rs (rs top 1 (BitVec.allOnes 64)) 2 2))) = [(3, [.s 3 (BitVec.allOnes 64)])]
      ∧ wrote (exec (.add {} 0 1 1) (at_ .s top)) = [] := by decide

/-- STS.D at 20,472 of 20,480 bytes is allowed, at 20,480 an overreach of resource 2; the header of R56 that declares them (the table of
spec/18_isolation.md). -/
theorem test_core_store_limit :
    let th : Thread := { top with hdr := 0x0140400141200000 }
    let cause (o : Outcome State Fault Refusal) : Option FRec := match o with
      | .next s => (s.thread s.cur.1).newFault
      | _ => none
    let go (a : Word) := cause (exec (.sts {} .d 5 1 0) (at_ .s (rs th 1 a)))
    th.planes = 4 ∧ th.accRows = 64 ∧ th.csBytes = 20480 ∧ th.barriers = 1 ∧ th.tokenCount = 2 ∧ go 20472 = none ∧ (go 20480).map (fun f => (f.cause, f.sub)) = some (4, 2) := by
  decide

/-- LDP.D of the last doubleword of PW2 and of the one behind it, which is 0 with PWBOUND (R104). -/
theorem test_ldp :
    let s := at_ .s (rs { top with pw := [(2, List.replicate 56 0 ++ [1, 2, 0, 0, 0, 0, 0, 0])] } 4 48)
    wrote (exec (.ldp {} .d 7 4 2 1) s) = [(2, [.s 7 0x201])] ∧ wrote (exec (.ldp {} .d 7 4 2 2) s) = [(2, [.s 7 0, .flags flPWBOUND])] := by decide

/-- VMOV Z4.r[K0], Z0.r[K0] under RRB.BASE = 1 names physical plane 7 (the table of spec/18_isolation.md). -/
theorem test_rotated_plane : physZ 1 4 = 7 ∧ physS 1 24 = 31 ∧ physP 1 4 = 7 := by decide

/-- The handle 0x5450_0007_0000_001A: INSPECT passes, KILL fails, a thread of another context fails (the example of R327). -/
theorem test_handle :
    let e : CapE := { valid := true, gen := 7, kind := 1, rights := 15, hctx := 9 }
    let s (c : Nat) := (State.reset.setThread ⟨5, 0, 4⟩ { priv := .supervisor, ctx := c }).modStation 5 fun x => { x with caps := [(0x1A, e)] }
    let ok (c right : Nat) := ((s c).capCheck ⟨5, 0, 4⟩ 0x545000070000001A [1] right).isSome
    ok 9 0 = true ∧ ok 9 2 = true ∧ ok 9 3 = false ∧ ok 10 0 = false := by decide

/-- EXPECT 3, ARRIVED 1: two more arrivals flip the phase once (R209). -/
theorem test_barrier :
    let b : BObj := { phase := 0xFFFF, expect := 3, arrived := 1, ovf := false, xbytes := 0, rbytes := 0 }
    (b.arrive 1 0).flip = (b.arrive 1 0, false) ∧ ((b.arrive 2 0).flip).2 = true ∧ ((b.arrive 2 0).flip).1.phase = 0 ∧ ((b.arrive 2 0).flip).1.arrived = 0 := by
  decide

/-- PLIMIT 8,000 W with 20 jobs forecast at every station (a = 960): k = 2 (the example of R406). -/
theorem test_power :
    let s : State := { State.reset with
      pcb := Cells.set State.reset.pcb 0x4000 (BitVec.ofNat 64 (8000 * 2 ^ 16 + 1400))
      stations := (List.range 48).map fun i => (i, { cb := [(0x3C8, 20 * 2 ^ 8)] }) }
    (match exec .powerDecision s with
      | .next t => t.kNext
      | _ => 99) = 2 := by decide +kernel

/-- A false guard: the word leaves its queue and writes nothing, its delay applies (R33). -/
theorem test_guard :
    let c : Ctl := { v := 0, d := 3, mods := some { gen := true, gneg := true, gp := 0 } }
    let s := match exec (.add c 3 1 2) (at_ .s top) with
      | .next s => s
      | _ => State.reset
    (thOf s).pend = [] ∧ ((thOf s).queue .s).es = [] ∧ ((thOf s).queue .s).ready = 4 := by decide

/-- SYSCALL 5 leaves the splitter at its fault; FAULT_DETECT then stops the thread with cause 0x0B and code 5 at the word (R306, R350). -/
theorem test_syscall :
    let s := match exec (.syscall {} 5) (at_ .s top { pc := 0x2040 }) with
      | .next s => s
      | _ => State.reset
    let u := match exec (.faultDetect ⟨0, 0, 0⟩) s with
      | .next s => s
      | _ => State.reset
    (thOf u).status = .freezing ∧ ((thOf u).fault.map fun f => (f.cause, f.code, f.pc)) = some (0x0B, 5, 0x2040) ∧ (thOf u).slotHeld = false := by decide

end Sys2Proof.Tests
end

section
/-! PROOFS. What a word whose body always lets it issue leaves, and the scalar ALU words: shared rules for words, then the
results of ALU groups 0 and 1. -/

namespace Sys2Proof.Machine

open Host

@[simp] theorem State.modThread_setThread (s : State) (t : Tid) (th : Thread) (f : Thread → Thread) :
    (s.setThread t th).modThread t f = s.setThread t (f th) := by
  simp [State.modThread]

section
variable {s : State} {c : Ctl} {e : Entry} {th : Thread}

/-- A word whose body always lets it issue. -/
theorem State.issue_always (h : s.CanRun c e th) (u : ModUse) (extra : Nat) (g : Ctx → State → State) :
    s.issue c u extra (fun x s => .done (g x s)) = s.issued (g (s.ctx c e) (s.setThread s.cur.1 th)) c u e extra :=
  State.issue_done h u extra (fun x s => .done (g x s)) rfl

theorem Ctx.write_setThread (lat : Nat) (ws : List RegW) :
    (s.ctx c e).write (s.setThread s.cur.1 th) lat ws = s.setThread s.cur.1 (th.write s.tcyc lat e.seq s.cur.2 ws) := by
  simp [Ctx.write]

theorem State.alu2_wrote (h : s.CanRun c e th) (lat : Nat) (d a b : SReg) (f : Word → Word → Word) :
    s.alu2 c lat d a b f = s.wrote c e th lat 0 (wrS e.base d (f (th.readS e.base a) (th.readS e.base b))) := by
  simp [State.alu2, State.scalar_wrote h]

theorem State.alu1_wrote (h : s.CanRun c e th) (d a : SReg) (f : Word → Word) :
    s.alu1 c d a f = s.wrote c e th 1 0 (wrS e.base d (f (th.readS e.base a))) := by
  simp [State.alu1, State.scalar_wrote h]

theorem State.aluDiv_wrote (h : s.CanRun c e th) (d a b : SReg) (f : Word → Word → Word) :
    s.aluDiv c d a b f = s.wrote c e th 9 8 (wrS e.base d (f (th.readS e.base a) (th.readS e.base b)) ++
      if th.readS e.base b = 0 then [.flags flIDZ] else []) := by
  simp [State.aluDiv, State.scalar_wrote h]

end

/-! R78: the operations of ALU groups 0 and 1 by their results. -/

theorem mulhiS_eq (a b : Word) : mulhiS a b = BitVec.ofInt 64 (a.toInt * b.toInt / 2 ^ 64) := rfl

theorem minS_eq (a b : Word) : minS a b = if a.toInt ≤ b.toInt then a else b := by
  simp [minS, BitVec.sle_iff_toInt_le]

theorem maxS_eq (a b : Word) : maxS a b = if a.toInt ≤ b.toInt then b else a := by
  simp [maxS, BitVec.sle_iff_toInt_le]

theorem minU_eq (a b : Word) : minU a b = if a.toNat ≤ b.toNat then a else b := by
  simp [minU, BitVec.ule_iff_toNat_le]

theorem maxU_eq (a b : Word) : maxU a b = if a.toNat ≤ b.toNat then b else a := by
  simp [maxU, BitVec.ule_iff_toNat_le]

/-! R79: the divisions, at a divisor of zero and at any other. -/

@[simp] theorem divS_zero (a : Word) : divS a 0 = BitVec.allOnes 64 := rfl
@[simp] theorem divU_zero (a : Word) : divU a 0 = BitVec.allOnes 64 := rfl
@[simp] theorem remS_zero (a : Word) : remS a 0 = a := rfl
@[simp] theorem remU_zero (a : Word) : remU a 0 = a := rfl

theorem divS_of_ne {a b : Word} (h : b ≠ 0) : divS a b = BitVec.ofInt 64 (a.toInt.tdiv b.toInt) := if_neg h
theorem divU_of_ne {a b : Word} (h : b ≠ 0) : divU a b = BitVec.ofNat 64 (a.toNat / b.toNat) := if_neg h
theorem remS_of_ne {a b : Word} (h : b ≠ 0) : remS a b = BitVec.ofInt 64 (a.toInt.tmod b.toInt) := if_neg h
theorem remU_of_ne {a b : Word} (h : b ≠ 0) : remU a b = BitVec.ofNat 64 (a.toNat % b.toNat) := if_neg h

theorem divS_intMin_allOnes : divS (BitVec.intMin 64) (BitVec.allOnes 64) = BitVec.intMin 64 := by decide
theorem remS_intMin_allOnes : remS (BitVec.intMin 64) (BitVec.allOnes 64) = 0 := by decide

/-! R78: CLZ, POPC and BREV by the bits of their operand. -/

/-- The leading zeros are the zeros above the highest one: at 63 less the logarithm, or all 64. -/
theorem clzW_spec (a : Word) : ∃ n, clzW a = BitVec.ofNat 64 n ∧ n ≤ 64 ∧ (∀ k, k < n → a.getLsbD (63 - k) = false) ∧
    (n < 64 → a.getLsbD (63 - n) = true) := by
  by_cases ha : a = 0
  · exact ⟨64, by simp [clzW, ha], le_rfl, by simp [ha], by simp⟩
  · have hne : a.toNat ≠ 0 := fun h => ha (BitVec.eq_of_toNat_eq h)
    have htop : a.toNat.log2 < 64 := (Nat.log2_lt hne).mpr a.isLt
    refine ⟨63 - a.toNat.log2, by simp only [clzW, if_neg ha], by omega, fun k hk => ?_, fun _ => ?_⟩
    · have hlt : a.toNat < 2 ^ (63 - k) := (Nat.log2_lt hne).mp (by omega)
      rw [← BitVec.testBit_toNat, Nat.testBit_lt_two_pow hlt]
    · rw [show 63 - (63 - a.toNat.log2) = a.toNat.log2 by omega, ← BitVec.testBit_toNat, Nat.testBit_log2 hne]

theorem popcW_eq (a : Word) : popcW a = BitVec.ofNat 64 ((List.range 64).filter fun k => a.getLsbD k).length := by
  rw [popcW, List.countP_eq_length_filter]

/-- Bits shifted in from the right one by one stand in reverse order: the first of `m` is the highest. -/
theorem testBit_foldl_shiftIn (f : Nat → Bool) (m k : Nat) (hk : k < m) :
    ((List.range m).foldl (fun n i => 2 * n + if f i then 1 else 0) 0).testBit (m - 1 - k) = f k := by
  induction m with
  | zero => omega
  | succ m ih =>
    rw [List.range_succ, List.foldl_append, List.foldl_cons, List.foldl_nil]
    generalize (List.range m).foldl _ 0 = n at ih ⊢
    have hbit : (2 * n + if f m then 1 else 0) = Nat.bit (f m) n := by cases f m <;> rfl
    rw [hbit]
    rcases Nat.lt_succ_iff_lt_or_eq.mp hk with hlt | rfl
    · rw [show m + 1 - 1 - k = (m - 1 - k).succ by omega, Nat.testBit_bit_succ, ih hlt]
    · rw [Nat.add_sub_cancel, Nat.sub_self, Nat.testBit_bit_zero]

theorem getLsbD_brevW (a : Word) {k : Nat} (hk : k < 64) : (brevW a).getLsbD (63 - k) = a.getLsbD k := by
  rw [brevW, BitVec.getLsbD_ofNat, testBit_foldl_shiftIn _ 64 k hk]
  simp [show 63 - k < 64 by omega]

/-- Settles O1: each word is one shared operation, whose write `State.alu2_wrote` and its like give, at a function whose value
the equations above give. -/
theorem scalarArithmetic : Obligations.ScalarArithmetic := by
  refine ⟨fun s c e th d a b h => ?_, fun s c e th d a h => ?_⟩
  · intro A B put quo
    have alu (lat : Nat) (f : Word → Word → Word) : .next (s.alu2 c lat d a b f) = put lat (f A B) := by
      rw [State.alu2_wrote h]
    have alu_eq (lat : Nat) {f : Word → Word → Word} {v : Word} (hf : f A B = v) : .next (s.alu2 c lat d a b f) = put lat v :=
      hf ▸ alu lat f
    have div_eq {f : Word → Word → Word} {v : Word} (hf : f A B = v) : .next (s.aluDiv c d a b f) = quo v := by
      rw [State.aluDiv_wrote h, ← hf]
    refine ⟨alu 1 _, alu 1 _, alu 2 _, alu_eq 3 (mulhiS_eq A B), alu 3 mulhiU, fun hB => ?_, fun hB => ?_, fun hA hB => ?_,
      alu 1 _, alu 1 _, alu 1 _, alu 1 fun x y => x &&& ~~~ y, alu 1 shlW, alu 1 shrW, alu 1 sarW, alu 1 rolW,
      alu_eq 1 (minS_eq A B), alu_eq 1 (maxS_eq A B), alu_eq 1 (minU_eq A B), alu_eq 1 (maxU_eq A B)⟩
    · exact ⟨div_eq (f := divS) (hB ▸ divS_zero A), div_eq (f := divU) (hB ▸ divU_zero A),
        div_eq (f := remS) (hB ▸ remS_zero A), div_eq (f := remU) (hB ▸ remU_zero A)⟩
    · exact ⟨div_eq (divS_of_ne hB), div_eq (divU_of_ne hB), div_eq (remS_of_ne hB), div_eq (remU_of_ne hB)⟩
    · exact ⟨div_eq (f := divS) (by rw [hA, hB, divS_intMin_allOnes]), div_eq (f := remS) (by rw [hA, hB, remS_intMin_allOnes])⟩
  · intro A put
    have alu (f : Word → Word) : .next (s.alu1 c d a f) = put (f A) := by rw [State.alu1_wrote h]
    obtain ⟨n, hn, spec⟩ := clzW_spec A
    exact ⟨⟨n, hn ▸ alu clzW, spec⟩, popcW_eq A ▸ alu popcW, brevW A, alu brevW, fun k => getLsbD_brevW A⟩

end Sys2Proof.Machine
end

section
/-! PROOFS. Immediates, comparisons and predicate logic. -/

namespace Sys2Proof.Machine

open Host

section
variable {s : State} {c : Ctl} {e : Entry} {th : Thread}

theorem State.plog_wrote (h : s.CanRun c e th) (d a b : PReg) (f : Bool → Bool → Bool) :
    s.plog c d a b f = s.wrote c e th 1 0 (wrP e.base d (f (th.readP e.base a) (th.readP e.base b))) := by
  simp [State.plog, State.scalar_wrote h]

theorem execSel_wrote (h : s.CanRun c e th) (d a b : SReg) (n : Bool) (p : PReg) :
    execSel c d a b n p s = .next (s.wrote c e th 1 0
      (wrS e.base d (if (th.readP e.base p ^^ n) = true then th.readS e.base a else th.readS e.base b))) := by
  simp [execSel, State.scalar_wrote h]

theorem execLi_wrote (h : s.CanRun c e th) (d : SReg) (i : Fin 16384) :
    execLi c d i s = .next (s.wrote c e th 1 0 (wrS e.base d (BitVec.ofInt 64 (immS 14 i c.imms)))) := by
  simp [execLi, State.scalar_wrote h, ofInt64]

theorem execCmp_wrote (h : s.CanRun c e th) (p : PReg) (a b : SReg) (cc : Cond) :
    execCmp c p a b cc s = .next (s.wrote c e th 1 0 (wrP e.base p (cc.holds (th.readS e.base a) (th.readS e.base b)))) := by
  simp [execCmp, State.scalar_wrote h]

theorem execCmpi_wrote (h : s.CanRun c e th) (p : PReg) (a : SReg) (i : Fin 512) (cc : Cond) :
    execCmpi c p a i cc s = .next (s.wrote c e th 1 0 (wrP e.base p (cc.holds (th.readS e.base a) (cmpImm cc i c.imms)))) := by
  simp [execCmpi, State.scalar_wrote h]

end

/-- R83: what each condition says of two doublewords. -/
theorem condHolds_eq (cc : Cond) (u v : Word) : cc.holds u v = match cc with
    | .eq => decide (u = v) | .ne => decide (u ≠ v)
    | .lt => decide (u.toInt < v.toInt) | .ge => decide (v.toInt ≤ u.toInt)
    | .le => decide (u.toInt ≤ v.toInt) | .gt => decide (v.toInt < u.toInt)
    | .ltn => decide (u.toNat < v.toNat) | .gen => decide (v.toNat ≤ u.toNat)
    | .len => decide (u.toNat ≤ v.toNat) | .gtn => decide (v.toNat < u.toNat) := by
  cases cc with
  | eq => exact Bool.beq_eq_decide_eq u v
  | ne => simp only [Cond.holds, bne, Bool.beq_eq_decide_eq, decide_not, ne_eq]
  | lt | ge => simp only [Cond.holds, BitVec.slt_eq_decide, ← decide_not, not_lt]
  | le | gt => simp only [Cond.holds, BitVec.sle_eq_decide, ← decide_not, not_le]
  | ltn | gen => simp only [Cond.holds, BitVec.ult_eq_decide, ← decide_not, not_lt]
  | len | gtn => simp only [Cond.holds, BitVec.ule_eq_decide, ← decide_not, not_le]

/-- R83: the immediate of CMPI is zero-extended for the unsigned conditions. -/
theorem cmpImm_eq (cc : Cond) (i : Nat) (xs : List (Fin (2 ^ 27))) : cmpImm cc i xs = match cc with
    | .ltn | .gen | .len | .gtn => BitVec.ofNat 64 (immZ 9 i xs)
    | _ => BitVec.ofInt 64 (immS 9 i xs) := by
  cases cc <;> rfl

/-- Settles O2: the immediate forms are ALU words of one register, SEL, LI, CMP and CMPI have their own write lemmas, and the
conditions are those of `condHolds_eq`. -/
theorem scalarImmediates : Obligations.ScalarImmediates := by
  refine ⟨fun s c e th d a b i j sh n p h => ?_, fun s c e th p a b i cc x y h => ?_⟩
  · intro A B put
    have imm (f : Word → Word) : .next (s.alu1 c d a f) = put (f A) := by rw [State.alu1_wrote h]
    have lea (f : Word → Word → Word) : .next (s.alu2 c 1 d a b f) = put (f A B) := by rw [State.alu2_wrote h]
    exact ⟨imm (· + ofInt64 (immS 9 i c.imms)), imm (· &&& ofInt64 (immS 9 i c.imms)), imm _, imm _,
      imm (· <<< (i.val % 64)), imm (· >>> (i.val % 64)), imm (·.sshiftRight (i.val % 64)),
      execLi_wrote h d j, lea _, execSel_wrote h d a b n p⟩
  · intro A B I holds put P Q
    have plog (a b : PReg) (f : Bool → Bool → Bool) :
        .next (s.plog c p a b f) = put (f (th.readP e.base a) (th.readP e.base b)) := by rw [State.plog_wrote h]
    have hholds (u v : Word) : cc.holds u v = holds u v := condHolds_eq cc u v
    have hI : cmpImm cc i c.imms = I := cmpImm_eq cc i c.imms
    have cmp : execCmp c p a b cc s = put (holds A B) := by rw [execCmp_wrote h, hholds]
    have cmpi : execCmpi c p a i cc s = put (holds A I) := by rw [execCmpi_wrote h, hI, hholds]
    exact ⟨cmp, cmpi, plog x y and, plog x y or, plog x y xor, plog x x fun u _ => !u⟩

end Sys2Proof.Machine
end

section
/-! PROOFS. Control transfer and loops. -/

namespace Sys2Proof.Machine

open Host

/-! R27, R85: the splitter behind a control transfer. -/

theorem Splitter.after_of_stop {sp : Splitter} {seq : Nat} (h : sp.stop = .transfer seq) (now : Nat) :
    sp.after seq now = { sp with stop := .run, resumeAt := now + 2 } := by
  simp [Splitter.after, h]

@[simp] theorem Thread.leave_spl (th : Thread) (e : Entry) (q : QName) (c : Ctl) (now extra : Nat) :
    (th.leave e q c now extra).spl = th.spl.after e.seq now := rfl

/-- A splitter that stands behind a word goes on two thread cycles after the word has issued. -/
theorem State.spl_issued {s : State} {y : Thread} {e : Entry} (h : y.spl.stop = .transfer e.seq) (c : Ctl) (u : ModUse) (extra : Nat) :
    ((s.issued (s.setThread s.cur.1 y) c u e extra).thread s.cur.1).spl =
      { y.spl with stop := .run, resumeAt := s.tcyc + 2 } := by
  simp [State.thread_issued, Splitter.after_of_stop h]

/-! R85 to R88: one lemma for each word that transfers control. -/

/-- The thread once a word at `e` has put its writes in flight, with latency 1, and left its splitter at `sp`. -/
def Thread.sent (th : Thread) (s : State) (e : Entry) (ws : List RegW) (sp : Splitter) : Thread :=
  { th.write s.tcyc 1 e.seq s.cur.2 ws with spl := sp }

section
variable {s : State} {c : Ctl} {e : Entry} {th : Thread}

theorem Ctx.branch_setThread (pc : Word) :
    (s.ctx c e).branch (s.setThread s.cur.1 th) pc = s.setThread s.cur.1 (th.sent s e [] { th.spl with pc := pc }) := by
  simp [Ctx.branch, Thread.sent, Thread.write]

theorem execBr_eq (h : s.CanRun c e th) (disp : Fin 32768) :
    execBr c disp s = .next (s.issued (s.setThread s.cur.1
      (th.sent s e [] { th.spl with pc := branchTarget e.pc disp c.imms })) c {} e 0) := by
  rw [execBr, State.issue_always h, Ctx.branch_setThread, State.ctx_pc]

theorem execBrc_eq (h : s.CanRun c e th) (p : PReg) (n : Bool) (disp : Fin 32768) :
    execBrc c p n disp s = .next (if (th.readP e.base p ^^ n) = true
      then s.issued (s.setThread s.cur.1 (th.sent s e [] { th.spl with pc := branchTarget e.pc disp c.imms })) c {} e 0
      else s.issued (s.setThread s.cur.1 th) c {} e 0) := by
  rw [execBrc, State.issue_always h, Ctx.branch_setThread, State.ctx_p, State.ctx_pc, apply_ite (s.issued · c {} e 0)]

theorem execCall_eq (h : s.CanRun c e th) (disp : Fin 32768) :
    execCall c disp s = .next (s.issued (s.setThread s.cur.1
      (th.sent s e [.s 23 e.next] { th.spl with pc := branchTarget e.pc disp c.imms })) c {} e 0) := by
  rw [execCall, State.issue_always h, Ctx.write_setThread, Ctx.branch_setThread, Thread.write_spl, State.ctx_next, State.ctx_pc]
  rfl

theorem execRet_aligned (h : s.CanRun c e th) (a : SReg) (ha : (th.readS e.base a).toNat % 4 = 0) :
    execRet c a s = .next (s.issued (s.setThread s.cur.1
      (th.sent s e [] { th.spl with pc := th.readS e.base a })) c {} e 0) := by
  rw [execRet, State.issue_pass h]
  simp only [State.ctx_s, ha, ne_eq, not_true_eq_false, if_false, Ctx.branch_setThread]

theorem execRet_misaligned (h : s.CanRun c e th) (a : SReg) (ha : (th.readS e.base a).toNat % 4 ≠ 0) :
    execRet c a s = .next ((s.setThread s.cur.1 th).raise s.cur.1
      { fAlign (th.readS e.base a) with pc := e.pc, q := s.cur.2 }) := by
  rw [execRet, State.issue_pass h]
  simp only [State.ctx_s, if_pos ha]

theorem execJtab_eq (h : s.CanRun c e th) (a b : SReg) :
    execJtab c a b s = .next (s.issued (s.setThread s.cur.1 (th.sent s e [] { th.spl with pc := e.pc + 4 * (1 +
      if (th.readS e.base a).toNat < (th.readS e.base b).toNat then th.readS e.base a else th.readS e.base b) })) c {} e 0) := by
  dsimp only [execJtab]
  rw [State.issue_always h]
  simp only [Ctx.branch_setThread, State.ctx_s, State.ctx_pc, BitVec.ult_eq_decide, decide_eq_true_eq]

end

/-! R90, R95: LOOP. -/

@[simp] theorem Thread.passStart_spl (th : Thread) (seq : Nat) : (th.passStart seq).spl = { th.spl with pass := 0 } := rfl

theorem Thread.queue_setQueue_eq (th : Thread) (q r : QName) (v : Queue) :
    (th.setQueue q v).queue r = if r = q then v else th.queue r := by
  split
  case isTrue h => rw [h, Thread.queue_setQueue]
  case isFalse h => rw [Thread.queue_setQueue_other _ _ _ _ h]

theorem Thread.queue_spl (th : Thread) (sp : Splitter) (q : QName) : { th with spl := sp }.queue q = th.queue q := by
  cases q <;> rfl

theorem Thread.queue_passStart (th : Thread) (seq : Nat) (q : QName) :
    ((th.passStart seq).queue q).es = (th.queue q).es.map fun r => if seq < r.seq then { r with pass := 0 } else r := by
  simp only [Thread.passStart, QName.all, List.foldl_cons, List.foldl_nil]
  cases q <;> simp only [Thread.queue_setQueue_eq, reduceCtorEq, if_true, if_false, Thread.queue_spl]

/-- What a LOOP writes: LC from `A`, EC from `D` and, with ROT, the stage predicates. -/
def loopWrites (base A D : Nat) (ki rot : Bool) : List RegW :=
  [.ctl crLC (BitVec.ofNat 64 (A % 2 ^ 32)),
    .ctl crEC (BitVec.ofNat 64 (D % 256 + (if rot then 256 else 0) + if ki then 512 else 0))]
  ++ if rot then wrP base 4 true ++ wrP base 5 false ++ wrP base 6 false ++ wrP base 7 false else []

theorem execLoop_eq {s : State} {c : Ctl} {e : Entry} {th : Thread} (h : s.CanRun c e th) (d a : SReg) (ki rot : Bool) :
    execLoop c d a ki rot s = .next (s.issued (s.setThread s.cur.1 ((th.write s.tcyc 1 e.seq s.cur.2
      (loopWrites e.base (th.readS e.base a).toNat (th.readS e.base d).toNat ki rot)).passStart e.seq)) c {} e 0) := by
  have hrot : 256 * rot.toNat = if rot then 256 else 0 := by cases rot <;> rfl
  have hki : 512 * ki.toNat = if ki then 512 else 0 := by cases ki <;> rfl
  dsimp only [execLoop]
  rw [State.issue_always h]
  simp only [Ctx.write_setThread, State.modThread_setThread, State.ctx_t, State.ctx_s, State.ctx_base, State.ctx_seq,
    hrot, hki, loopWrites]

/-! R91 to R94: LOOPEND. -/

/-- R94, log 95: the body counts the LOOPEND's own EXT words. -/
theorem Entry.inLoopBuffer_iff (e : Entry) (target : Word) : e.inLoopBuffer target = true ↔
    target.toNat < e.pc.toNat ∧ (e.pc + BitVec.ofNat 64 (4 * (1 + e.exts.length))).toNat - target.toNat ≤ 4 * 128 := by
  simp [Entry.inLoopBuffer, Entry.next]

theorem loopStep_again {lc : Nat} (h : lc ≠ 0) (n : Nat) : loopStep lc n = ⟨true, lc - 1, n, true⟩ := if_pos h

theorem loopStep_epilogue {lc n : Nat} (h : lc = 0) (hn : 1 < n) : loopStep lc n = ⟨true, lc, n - 1, false⟩ := by
  simp [loopStep, h, hn]

theorem loopStep_through {lc n : Nat} (h : lc = 0) (hn : n ≤ 1) : loopStep lc n = ⟨false, lc, 0, false⟩ := by
  simp [loopStep, h, Nat.not_lt.mpr hn]

@[simp] theorem State.ctx_inLoopBuffer (s : State) (c : Ctl) (e : Entry) (target : Word) :
    (s.ctx c e).e.inLoopBuffer target = e.inLoopBuffer target := rfl

/-- LC and EC.COUNT as a LOOPEND writes them. -/
def Thread.loopPut (th : Thread) (lc k : Nat) : List RegW :=
  [.ctl crLC (BitVec.ofNat 64 lc), .ctl crEC (BitVec.ofNat 64 ((th.creg crEC).toNat - (th.creg crEC).toNat % 256 + k))]

/-- The rotation base behind a LOOPEND that is taken: with EC.ROT the next one. -/
def Thread.loopBase (th : Thread) : Nat :=
  if (th.creg crEC).toNat / 256 % 2 = 1 then (th.spl.base + 1) % 8 else th.spl.base

/-- With EC.ROT a LOOPEND that is taken also writes RRB and the predicate that enters the rotation. -/
def Thread.loopTurn (th : Thread) (p4 : Bool) : List RegW :=
  if (th.creg crEC).toNat / 256 % 2 = 1 then
    [wrRrb ((th.spl.base + 1) % 8), .p (physP ((th.spl.base + 1) % 8) 4) p4] else []

/-- The splitter behind a LOOPEND that is taken: from the loop buffer it goes on at once. -/
def Thread.loopBack (th : Thread) (e : Entry) (target : Word) (now : Nat) : Splitter :=
  if e.inLoopBuffer target then
    { th.spl with pc := target, base := th.loopBase, pass := th.spl.pass + 1, stop := .run, resumeAt := now }
  else { th.spl with pc := target, base := th.loopBase, pass := th.spl.pass + 1 }

section
variable {s : State} {c : Ctl} {e : Entry} {th : Thread}

theorem execLoopend_taken (h : s.CanRun c e th) (disp : Fin 32768) {lc k : Nat} {p4 : Bool}
    (hst : loopStep (th.creg crLC).toNat ((th.creg crEC).toNat % 256) = ⟨true, lc, k, p4⟩) :
    execLoopend c disp s = .next (s.issued (s.setThread s.cur.1 (th.sent s e (th.loopPut lc k ++ th.loopTurn p4)
      (th.loopBack e (branchTarget e.pc disp c.imms) s.tcyc))) c {} e 0) := by
  dsimp only [execLoopend]
  rw [State.issue_always h]
  have hrot : tbit (th.creg crEC).toNat 8 = decide ((th.creg crEC).toNat / 256 % 2 = 1) := Bool.beq_eq_decide_eq _ _
  simp only [State.ctx_th, hst, Ctx.write_setThread]
  by_cases hr : (th.creg crEC).toNat / 256 % 2 = 1 <;>
    simp [hrot, hr, Thread.sent, Thread.loopPut, Thread.loopTurn, Thread.loopBase, Thread.loopBack]

/-- Log 96: a LOOPEND that falls through sets the pass count to 0. -/
theorem execLoopend_through (h : s.CanRun c e th) (disp : Fin 32768) {lc k : Nat} {p4 : Bool}
    (hst : loopStep (th.creg crLC).toNat ((th.creg crEC).toNat % 256) = ⟨false, lc, k, p4⟩) :
    execLoopend c disp s = .next (s.issued (s.setThread s.cur.1
      (th.sent s e (th.loopPut lc k) { th.spl with pass := 0 })) c {} e 0) := by
  dsimp only [execLoopend]
  rw [State.issue_always h]
  simp [hst, Ctx.write_setThread, Thread.sent, Thread.loopPut]

end

/-- Settles O4: a word's equation gives its writes and where its splitter stands, `State.spl_issued` when that splitter goes on. -/
theorem controlTransfer : Obligations.ControlTransfer := by
  refine ⟨fun s c e th disp p n a b h => ?_, fun s c e th d a ki rot h => ?_, Entry.inLoopBuffer_iff,
    fun s c e th disp h _ => ?_⟩
  · intro A B go stay target
    refine ⟨execBr_eq h disp, execBrc_eq h p n disp, execCall_eq h disp, execRet_aligned h a, execRet_misaligned h a,
      execJtab_eq h a b, fun hs ws pc => ⟨?_, ?_⟩⟩
    · exact State.spl_issued (s := s) (y := th.sent s e ws { th.spl with pc := pc }) hs c {} 0
    · exact State.spl_issued hs c {} 0
  · intro A D ws n
    refine ⟨execLoop_eq h d a ki rot, ?_, fun q => ?_⟩
    · rw [Thread.passStart_spl, Thread.write_spl]
    · rw [Thread.queue_passStart, Thread.queue_write]
  · intro LC EC n target wr put turn base' back
    have taken {lc k : Nat} {p4 : Bool} (hst : loopStep LC n = ⟨true, lc, k, p4⟩) :
        exec (.loopend c disp) s = .next (wr (put lc k ++ turn p4) back) := execLoopend_taken h disp hst
    have through {lc k : Nat} {p4 : Bool} (hst : loopStep LC n = ⟨false, lc, k, p4⟩) :
        exec (.loopend c disp) s = .next (wr (put lc k) { th.spl with pass := 0 }) := execLoopend_through h disp hst
    exact ⟨fun hl => taken (loopStep_again hl n), fun hl hn => taken (loopStep_epilogue hl hn),
      fun hl hn => through (loopStep_through hl hn)⟩

end Sys2Proof.Machine
end

section
/-! PROOFS. Plane operands and lane-wise words: the cells of a line, what a lane-wise word puts in flight, and the overreach of a
plane that is not declared. -/

namespace Sys2Proof.Machine

open Host

/-! R95, R105 to R107: a line from its plane's physical number and its cursor's value. -/

theorem tbit_toNat (v : Word) (i : Nat) : tbit v.toNat i = v.getLsbD i := by
  rw [← BitVec.testBit_toNat, Nat.testBit_eq_decide_div_mod_eq, tbit, Bool.beq_eq_decide_eq]

theorem Thread.cursor_eq (th : Thread) (pass : Nat) (k : KReg) : th.cursor pass k =
    if (th.creg crEC).getLsbD 9 = true
    then ((Cells.get th.k k.val).toNat + pass * ((th.creg crKINC).toNat / 2 ^ (6 * k.val) % 64)) % 64
    else (Cells.get th.k k.val).toNat := by
  rw [← tbit_toNat]; rfl

theorem Thread.cursor_lt (th : Thread) (pass : Nat) (k : KReg) : th.cursor pass k < 64 := by
  rw [Thread.cursor_eq]
  split
  · exact Nat.mod_lt _ (by decide)
  · exact (Cells.get th.k k.val).isLt

theorem physZ_of_lt (base : Nat) {z : Nat} (h : z < 4) : physZ base z = z := if_pos h

theorem physZ_of_le (base : Nat) {z : Nat} (h : 4 ≤ z) (hz : z < 8) :
    (physZ base z + base) % 4 = z % 4 ∧ 4 ≤ physZ base z ∧ physZ base z < 8 := by
  rw [physZ, if_neg (Nat.not_lt.mpr h)]
  omega

@[simp] theorem Thread.length_line (th : Thread) (base pass : Nat) (o : PlaneOp) : (th.line base pass o).length = 64 := by
  simp [Thread.line]

theorem Thread.getElem?_line (th : Thread) (base pass : Nat) (o : PlaneOp) {i : Nat} (h : i < 64) : (th.line base pass o)[i]? =
    some (zKey (physZ base o.z.val) (lineAt o.dir (th.cursor pass o.k) i).1 (lineAt o.dir (th.cursor pass o.k) i).2) := by
  simp [Thread.line, List.getElem?_range h]

/-! R29, R75, R109, R111, R342: the writes of a lane-wise word. -/

/-- A write of the list is one lane's: an enabled lane of a row that no trap has taken. -/
theorem Thread.mem_laneWrites (th : Thread) (keys : List Nat) (mask : Word) (vs : List Word32) (w : RegW) :
    w ∈ th.laneWrites keys mask vs ↔ ∃ i key v, i < 64 ∧ keys[i]? = some key ∧ vs[i]? = some v ∧ mask.getLsbD i = true ∧
      th.trapped.getLsbD (keyRow key) = false ∧ w = .z key v := by
  simp only [Thread.laneWrites, Thread.rowWritable, List.mem_filterMap, Prod.exists, List.mem_iff_getElem? (a := (_, _)),
    List.getElem?_zip_eq_some, Option.ite_none_right_eq_some, Bool.and_eq_true, Bool.not_eq_true', Option.some.injEq]
  constructor
  · rintro ⟨key, v, i, ⟨j, ⟨hkey, hv⟩, hj⟩, ⟨hmask, hrow⟩, rfl⟩
    obtain ⟨hlt, rfl⟩ := List.getElem?_eq_some_iff.mp hj
    rw [List.length_range] at hlt
    rw [List.getElem_range] at hmask
    exact ⟨j, key, v, hlt, hkey, hv, hmask, hrow, rfl⟩
  · rintro ⟨i, key, v, hi, hkey, hv, hmask, hrow, rfl⟩
    exact ⟨key, v, i, ⟨i, ⟨hkey, hv⟩, List.getElem?_range hi⟩, ⟨hmask, hrow⟩, rfl⟩

/-- Each lane's bits and event flags: a disabled lane sets no flag. -/
def laneResults (mask : Word) (f : Nat → Flagged Word32) : List (Flagged Word32) :=
  (List.range 64).map fun i => if mask.getLsbD i then f i else (0, 0)

theorem getElem?_laneResults (mask : Word) (f : Nat → Flagged Word32) {i : Nat} (hi : i < 64) (hmask : mask.getLsbD i = true) :
    (laneResults mask f)[i]? = some (f i) := by
  simp [laneResults, List.getElem?_range hi, hmask]

/-- The union of the lanes' flags. -/
def unionFlags (rs : List (Flagged Word32)) : Word := rs.foldl (fun a r => a ||| r.2) 0

theorem getLsbD_foldl_flags (rs : List (Flagged Word32)) (a : Word) (b : Nat) :
    (rs.foldl (fun a r => a ||| r.2) a).getLsbD b = true ↔ a.getLsbD b = true ∨ ∃ r ∈ rs, r.2.getLsbD b = true := by
  induction rs generalizing a with
  | nil => simp
  | cons r rs ih => simp [ih, or_assoc]

theorem getLsbD_unionFlags_laneResults (mask : Word) (f : Nat → Flagged Word32) (b : Nat) :
    (unionFlags (laneResults mask f)).getLsbD b = true ↔
      ∃ i, i < 64 ∧ mask.getLsbD i = true ∧ (f i).2.getLsbD b = true := by
  have hlane (i : Nat) : (if mask.getLsbD i then f i else (0#32, 0#64)).2.getLsbD b = true ↔
      mask.getLsbD i = true ∧ (f i).2.getLsbD b = true := by split <;> simp [*]
  simp [unionFlags, getLsbD_foldl_flags, laneResults, hlane]

theorem unionFlags_laneResults_ne_zero {mask : Word} {f : Nat → Flagged Word32} {i : Nat} (hi : i < 64)
    (hmask : mask.getLsbD i = true) (hf : (f i).2 ≠ 0) : unionFlags (laneResults mask f) ≠ 0 := by
  intro h0
  refine hf (BitVec.eq_of_getLsbD_eq fun b _ => Bool.eq_iff_iff.mpr ⟨fun hb => ?_, by simp⟩)
  rw [← h0, getLsbD_unionFlags_laneResults]
  exact ⟨i, hi, hmask, hb⟩

/-- What a lane-wise word puts in flight: its lanes' cells, and the union of their flags where it is not empty. -/
def Ctx.lanePuts (x : Ctx) (s : State) (d : PlaneOp) (f : Nat → Flagged Word32) : List RegW :=
  let rs := laneResults (x.mask s) f
  (s.thread x.t).laneWrites (x.line s d) (x.mask s) (rs.map Prod.fst) ++ if unionFlags rs = 0 then [] else [.flags (unionFlags rs)]

section
variable (x : Ctx) (s : State) (d : PlaneOp) (f : Nat → Flagged Word32)

theorem Ctx.eachLane_eq (lat : Nat) : x.eachLane s lat d f =
    s.setThread x.t ((s.thread x.t).write s.tcyc lat x.e.seq x.q (x.lanePuts s d f)) := rfl

theorem Ctx.mem_lanePuts (w : RegW) : w ∈ x.lanePuts s d f ↔
    (∃ i key, i < 64 ∧ (x.line s d)[i]? = some key ∧ (x.mask s).getLsbD i = true ∧
      (s.thread x.t).trapped.getLsbD (keyRow key) = false ∧ w = .z key (f i).1) ∨
    (unionFlags (laneResults (x.mask s) f) ≠ 0 ∧ w = .flags (unionFlags (laneResults (x.mask s) f))) := by
  rw [Ctx.lanePuts, List.mem_append, Thread.mem_laneWrites]
  refine or_congr ⟨?_, ?_⟩ (by split <;> simp_all)
  · rintro ⟨i, key, v, hi, hkey, hv, hmask, hrow, rfl⟩
    rw [List.getElem?_map, getElem?_laneResults _ _ hi hmask, Option.map_some, Option.some.injEq] at hv
    exact ⟨i, key, hi, hkey, hmask, hrow, hv ▸ rfl⟩
  · rintro ⟨i, key, hi, hkey, hmask, hrow, rfl⟩
    refine ⟨i, key, (f i).1, hi, hkey, ?_, hmask, hrow, rfl⟩
    rw [List.getElem?_map, getElem?_laneResults _ _ hi hmask, Option.map_some]

theorem Ctx.z_mem_lanePuts (key : Nat) (v : Word32) : .z key v ∈ x.lanePuts s d f ↔
    ∃ i, i < 64 ∧ (x.line s d)[i]? = some key ∧ (x.mask s).getLsbD i = true ∧
      (s.thread x.t).trapped.getLsbD (keyRow key) = false ∧ v = (f i).1 := by
  rw [Ctx.mem_lanePuts]
  constructor
  · rintro (⟨i, key', hi, hkey, hmask, hrow, hw⟩ | ⟨_, hw⟩)
    · cases hw; exact ⟨i, hi, hkey, hmask, hrow, rfl⟩
    · cases hw
  · rintro ⟨i, hi, hkey, hmask, hrow, rfl⟩
    exact .inl ⟨i, key, hi, hkey, hmask, hrow, rfl⟩

end

/-! R108: a word that names a plane at or beyond the declared ones. -/

/-- A V word with such a plane among its own takes the fault before its body runs. -/
theorem State.vword_overreach {s : State} {c : Ctl} {e : Entry} {th : Thread} (h : s.CanRun c e th) (u : ModUse)
    {planes : List PlaneOp} (body : Ctx → State → Act) (ho : ∃ o ∈ planes, th.planes ≤ physZ e.base o.z.val) :
    s.vword c u planes body = (s.setThread s.cur.1 th).raise s.cur.1 { cause := 0x04, sub := 0, pc := e.pc, q := s.cur.2 } := by
  refine State.issue_fault h u 0 _ (fOver 0) (if_pos ?_)
  simpa [Ctx.noPlane] using ho

/-- Settles O17: a line's elements are those of `lineAt`, a lane-wise word's writes are its `Ctx.lanePuts`, and every word listed
is a `State.vword` of the planes that it names. -/
theorem planeLines : Obligations.PlaneLines := by
  refine ⟨fun th base pass o i hi => ?_, fun x s lat d f => ?_, fun s c e th d a b r t p m y cc src g op unit h => ?_⟩
  · intro k K rc
    refine ⟨th.length_line base pass o, ?_, th.cursor_lt pass o.k, th.cursor_eq pass o.k, physZ_of_lt base,
      fun hz => physZ_of_le base hz o.z.isLt⟩
    have hrc : rc = lineAt o.dir k i := by cases hd : o.dir <;> simp only [rc, hd, lineAt]
    rw [th.getElem?_line base pass o hi, hrc, zKey]
  · refine ⟨x.lanePuts s d f, x.eachLane_eq s d f lat, x.z_mem_lanePuts s d f, fun w hw => ?_, ?_⟩
    · obtain ⟨i, key, -, -, -, -, rfl⟩ | ⟨-, rfl⟩ := (x.mem_lanePuts s d f w).mp hw
      · exact .inl ⟨key, _, rfl⟩
      · exact .inr ⟨_, rfl, getLsbD_unionFlags_laneResults (x.mask s) f⟩
    · rintro ⟨i, hi, hmask, hf⟩
      exact ⟨_, (x.mem_lanePuts s d f _).mpr (.inr ⟨unionFlags_laneResults_ne_zero hi hmask hf, rfl⟩)⟩
  · intro three two one out stops
    have stop {i : Instr} {u : ModUse} {planes : List PlaneOp} {body : Ctx → State → Act} (ho : ∃ o ∈ planes, out o)
        (hi : exec i s = .next (s.vword c u planes body)) : stops i :=
      hi.trans (congrArg _ (State.vword_overreach h u body ho))
    refine ⟨fun ho => ?three, fun ho => ?two, fun ho => ?one, fun ho => ?perm⟩
    case three | two | one =>
      rw [← List.forall_iff_forall_mem]
      and_intros <;> exact stop (by simpa using ho) rfl
    case perm =>
      have hbit : tbit y.val 6 = true ↔ y.val / 64 % 2 = 1 := beq_iff_eq
      rw [← hbit] at ho
      refine stop (planes := if tbit y.val 6 then [d, a, b] else [d, a]) ?_ rfl
      split
      case isTrue hy => simpa [hy] using ho
      case isFalse hy => simpa [hy] using ho

end Sys2Proof.Machine
end

section
/-! PROOFS. Translation: the addresses that no table translates, the walk of the page tables from the root down, and what the leaf
where it ends gives an access. -/

namespace Sys2Proof.Machine

/-! R174, R175: addresses that no table translates. -/

theorem inSegRegion_iff {va : Nat} (h : va < 2 ^ 57) : inSegRegion va = true ↔ va / 2 ^ 48 = 511 := by
  simp only [inSegRegion, Bool.and_eq_true, decide_eq_true_eq]
  rw [segBase]
  omega

theorem preXl_of_nonCanonical {va : Nat} (h : 2 ^ 57 ≤ va) (acc : Access) : preXl va acc = some (.fault 4 4) := if_pos h

theorem preXl_of_lt_segBase {va : Nat} (h : va / 2 ^ 48 < 511) (acc : Access) : preXl va acc = none := by
  have hva : va < 2 ^ 57 := by omega
  rw [preXl.eq_def, if_neg (Nat.not_le.mpr hva), if_neg]
  rw [inSegRegion_iff hva]
  exact h.ne

theorem preXl_segRegion_of_ne_read {va : Nat} {acc : Access} (hva : va < 2 ^ 57) (h : va / 2 ^ 48 = 511) (hacc : acc ≠ .read) :
    preXl va acc = some (.fault 2 0) := by
  rw [preXl.eq_def, if_neg (Nat.not_le.mpr hva), if_pos ((inSegRegion_iff hva).mpr h)]
  cases acc with
  | read => exact absurd rfl hacc
  | write | atomic | fetch => rfl

theorem preXl_segRegion_read {va : Nat} (hva : va < 2 ^ 57) (h : va / 2 ^ 48 = 511) :
    preXl va .read = some (if 64 * 2 ^ 22 ≤ va % 2 ^ 48 then .fault 1 4 else if 2304000 ≤ va % 2 ^ 22 then .fault 1 0
      else .seg (va % 2 ^ 48 / 2 ^ 22) (va % 2 ^ 22)) := by
  have hoff : va - segBase = va % 2 ^ 48 := by rw [segBase]; omega
  have hbyte : va % 2 ^ 48 % 2 ^ 22 = va % 2 ^ 22 := Nat.mod_mod_of_dvd va (by decide)
  simp only [preXl, if_neg (Nat.not_le.mpr hva), (inSegRegion_iff hva).mpr h, hoff, hbyte, if_true, apply_ite some]

section
variable {s : State} {t : Tid} {ctx va : Nat} {priv : Priv} {acc : Access}

theorem State.xlateFull_of_preXl {x : Xl} (h : preXl va acc = some x) (hx : x ≠ .miss) : s.xlateFull t ctx priv va acc = x := by
  have hxl : s.xlate t ctx priv va acc = x := by rw [State.xlate, h]
  cases x with
  | miss => exact absurd rfl hx
  | pa | seg | fault => rw [State.xlateFull, hxl]

theorem State.xlate_of_uncached (hpre : preXl va acc = none) (hc : s.cached t ctx va = none) :
    s.xlate t ctx priv va acc = .miss := by
  rw [State.xlate, hpre, hc]

theorem State.xlateFull_of_walk_fault (hpre : preXl va acc = none) (hc : s.cached t ctx va = none) {sub level : Nat}
    {wcs : List WcEntry} (hw : s.walk t.st ctx va = .fault sub level wcs) : s.xlateFull t ctx priv va acc = .fault sub level := by
  rw [State.xlateFull, State.xlate_of_uncached hpre hc, hw]

theorem State.xlateFull_of_walk_leaf (hpre : preXl va acc = none) (hc : s.cached t ctx va = none) {l : Leaf}
    {wcs : List WcEntry} {b : Bool} (hw : s.walk t.st ctx va = .leaf l wcs b) :
    s.xlateFull t ctx priv va acc = l.xl va acc priv := by
  rw [State.xlateFull, State.xlate_of_uncached hpre hc, hw]

/-! R179, R185: without a walk-cache entry a walk starts at the root. -/

theorem State.walkStart_of_wc_nil {st : Nat} (h : (s.station st).wc = []) :
    s.walkStart st ctx va = if s.inStations (s.root st ctx) then some (4, s.root st ctx) else none := by
  rw [State.walkStart, h]
  rfl

theorem State.walk_of_rootOutside {st : Nat} (h : (s.station st).wc = []) (hr : s.paKind (s.root st ctx) ≠ .own) :
    s.walk st ctx va = .fault 6 4 [] := by
  rw [State.walk, State.walkStart_of_wc_nil h, if_neg (by simpa [State.inStations] using hr)]

theorem State.walk_of_rootOwn {st : Nat} (h : (s.station st).wc = []) (hr : s.paKind (s.root st ctx) = .own) :
    s.walk st ctx va = s.walkFrom ctx va 4 (s.root st ctx) [] := by
  rw [State.walk, State.walkStart_of_wc_nil h, if_pos (by simpa [State.inStations] using hr)]

end

/-! R181, R182: one level of a walk, by what its entry holds. -/

/-- The entry for an address that a walk reads in the table of a level. -/
def State.entryAt (s : State) (va level tab : Nat) : Nat := s.homeN (tab + 8 * bits va (12 + 9 * level) 9) 8

/-- Whether an entry of a level is a leaf, and not a pointer to the table below. -/
def IsLeaf (e level : Nat) : Prop := level = 0 ∨ (level = 1 ∧ tbit e 1 = true)

/-- The page that an entry names: the next table, or the first page of a leaf. -/
def pageOf (e : Nat) : Nat := bits e 12 40 * 4096

/-- Whether a leaf lies in one region of the map of R176, and that region is there. -/
def State.LeafInRange (s : State) (l : Leaf) : Prop :=
  s.paKind l.pa ≠ .bad ∧ s.paKind l.pa ≠ .gone ∧ s.paKind (l.pa + l.span - 1) = s.paKind l.pa

section
variable {s : State} {ctx va level tab : Nat} {wcs : List WcEntry}

theorem State.walkFrom_invalid (hv : tbit (s.entryAt va level tab) 0 = false) :
    s.walkFrom ctx va level tab wcs = .fault 1 level wcs := by
  rw [State.entryAt] at hv
  rw [State.walkFrom]
  simp [hv]

theorem State.walkFrom_reserved (hv : tbit (s.entryAt va level tab) 0 = true)
    (hr : reservedBits (s.entryAt va level tab) level = true) : s.walkFrom ctx va level tab wcs = .fault 3 level wcs := by
  rw [State.entryAt] at hv hr
  rw [State.walkFrom]
  simp [hv, hr]

theorem State.walkFrom_pointerOutside (hv : tbit (s.entryAt va level tab) 0 = true)
    (hr : reservedBits (s.entryAt va level tab) level = false) (hl : ¬ IsLeaf (s.entryAt va level tab) level)
    (ht : s.paKind (pageOf (s.entryAt va level tab)) ≠ .own) : s.walkFrom ctx va level tab wcs = .fault 6 level wcs := by
  rw [State.walkFrom]
  simp only [State.entryAt, IsLeaf, pageOf] at hv hr hl ht
  simp [hv, hr, hl, ht, State.inStations]

theorem State.walkFrom_pointer (hv : tbit (s.entryAt va (level + 1) tab) 0 = true)
    (hr : reservedBits (s.entryAt va (level + 1) tab) (level + 1) = false)
    (hl : ¬ IsLeaf (s.entryAt va (level + 1) tab) (level + 1))
    (ht : s.paKind (pageOf (s.entryAt va (level + 1) tab)) = .own) :
    ∃ wcs', s.walkFrom ctx va (level + 1) tab wcs = s.walkFrom ctx va level (pageOf (s.entryAt va (level + 1) tab)) wcs' := by
  rw [State.walkFrom]
  simp only [State.entryAt, IsLeaf, pageOf] at hv hr hl ht ⊢
  simp only [hv, hr, hl, ht, State.inStations]
  exact ⟨_, rfl⟩

theorem State.walkFrom_leafOutOfRange (hv : tbit (s.entryAt va level tab) 0 = true)
    (hr : reservedBits (s.entryAt va level tab) level = false) (hl : IsLeaf (s.entryAt va level tab) level)
    (hp : ¬ s.LeafInRange (leafOf ctx (s.entryAt va level tab) va level)) :
    s.walkFrom ctx va level tab wcs = .fault 5 level wcs := by
  rw [State.walkFrom]
  simp only [State.entryAt, IsLeaf, State.LeafInRange, not_and_or, not_not] at hv hr hl hp
  simp [hv, hr, hl, hp]

theorem State.walkFrom_leaf (hv : tbit (s.entryAt va level tab) 0 = true)
    (hr : reservedBits (s.entryAt va level tab) level = false) (hl : IsLeaf (s.entryAt va level tab) level)
    (hp : s.LeafInRange (leafOf ctx (s.entryAt va level tab) va level))
    (hc : level = 0 → tbit (s.entryAt va level tab) 6 = false) :
    s.walkFrom ctx va level tab wcs = .leaf (s.narrow (leafOf ctx (s.entryAt va level tab) va level)) wcs false := by
  rw [State.walkFrom]
  simp only [State.entryAt, IsLeaf, State.LeafInRange] at hv hr hl hp hc ⊢
  obtain ⟨hbad, hgone, hlast⟩ := hp
  have hhint : ¬ (level = 0 ∧ tbit (s.homeN (tab + 8 * bits va (12 + 9 * level) 9) 8) 6 = true) :=
    fun ⟨h0, h6⟩ => Bool.false_ne_true ((hc h0).symm.trans h6)
  simp [hv, hr, hl, hbad, hgone, hlast, hhint]

/-- The walk goes down the tables `tab`, for as long as their entries are valid pointers to tables of this module's stations. -/
theorem State.walkFrom_down {tab : Nat → Nat} {top : Nat} (hle : level ≤ top)
    (hown : ∀ k, level ≤ k → k ≤ top → s.paKind (tab k) = .own)
    (hptr : ∀ k, level < k → k ≤ top → tbit (s.entryAt va k (tab k)) 0 = true ∧
      reservedBits (s.entryAt va k (tab k)) k = false ∧ ¬ IsLeaf (s.entryAt va k (tab k)) k ∧
      tab (k - 1) = pageOf (s.entryAt va k (tab k))) :
    ∃ wcs', s.walkFrom ctx va top (tab top) wcs = s.walkFrom ctx va level (tab level) wcs' := by
  refine Nat.decreasingInduction' (P := fun k => ∃ wcs', s.walkFrom ctx va top (tab top) wcs = s.walkFrom ctx va k (tab k) wcs')
    (fun k hk hlk ih => ?_) hle ⟨wcs, rfl⟩
  obtain ⟨w, hw⟩ := ih
  obtain ⟨hv, hr, hl, hnext⟩ := hptr (k + 1) (Nat.lt_succ_of_le hlk) hk
  rw [Nat.add_sub_cancel] at hnext
  obtain ⟨w', hw'⟩ := State.walkFrom_pointer (ctx := ctx) (wcs := w) hv hr hl (hnext ▸ hown k hlk hk.le)
  exact ⟨w', by rw [hw, hw', hnext]⟩

end

/-! R178, R181, R182: the leaf of an entry, and what it gives an access. -/

/-- The reserved bits 20:12 keep a leaf of 2 MiB aligned. -/
theorem leafOf_pa {ctx e va level : Nat} (hr : reservedBits e level = false) (hl : IsLeaf e level) :
    (leafOf ctx e va level).pa = pageOf e := by
  obtain rfl | ⟨rfl, h1⟩ := hl
  · exact Nat.div_mul_cancel (Nat.dvd_mul_left _ _)
  · obtain ⟨-, hlow, -⟩ : _ ∧ bits e 12 9 = 0 ∧ _ := by simpa [reservedBits, h1] using hr
    simp only [leafOf, pageOf, bits, if_true] at hlow ⊢
    omega

/-- Narrowing takes the write right or raises the least privilege, and leaves all else of a leaf. -/
theorem State.narrow_eq (s : State) (l : Leaf) : ∃ w mp, s.narrow l = { l with w := w, mp := mp } := by
  simp only [State.narrow]
  split_ifs <;> exact ⟨_, _, rfl⟩

theorem State.narrow_leafOf_xl (s : State) {ctx e va level : Nat} (hr : reservedBits e level = false) (hl : IsLeaf e level)
    (acc : Access) (priv : Priv) :
    (s.narrow (leafOf ctx e va level)).xl va acc priv = if (s.narrow (leafOf ctx e va level)).permits acc priv = true
      then .pa (pageOf e + va % (leafOf ctx e va level).span) (tbit e 8) else .fault 2 level := by
  obtain ⟨w, mp, hn⟩ := s.narrow_eq (leafOf ctx e va level)
  have hlevel : (if (leafOf ctx e va level).span = 2 ^ 21 then 1 else 0) = level := by
    obtain rfl | ⟨rfl, -⟩ := hl <;> rfl
  have hoff : va - (leafOf ctx e va level).va = va % (leafOf ctx e va level).span := Nat.mod_eq_sub_div_mul.symm
  simp only [Leaf.xl, hn, leafOf_pa hr hl, hlevel, hoff]
  rfl

/-- Settles O56: `State.walkFrom_down` brings the walk to the table of level `lvl`, whose entry decides how it ends. -/
theorem translation : Obligations.Translation := by
  intro s t ctx va priv acc
  refine ⟨fun h => ?nonCanonical, fun hva h => ⟨fun hacc => ?segNoRead, ?segRead⟩, fun h hcached hwc => ?walked⟩
  case nonCanonical => exact State.xlateFull_of_preXl (preXl_of_nonCanonical h acc) nofun
  case segNoRead => exact State.xlateFull_of_preXl (preXl_segRegion_of_ne_read hva h hacc) nofun
  case segRead =>
    rintro rfl
    exact State.xlateFull_of_preXl (preXl_segRegion_read hva h) (by split_ifs <;> nofun)
  case walked =>
    have hpre := preXl_of_lt_segBase h acc
    refine ⟨fun hroot => State.xlateFull_of_walk_fault hpre hcached (State.walk_of_rootOutside hwc hroot), ?_⟩
    intro tab lvl hlvl htab hown e pa leaf hptr span l inRange
    obtain ⟨wcs, hdown⟩ := State.walkFrom_down (ctx := ctx) (wcs := []) hlvl hown hptr
    have hroot : s.root t.st ctx = tab 4 := htab.symm
    have hwalk : s.walk t.st ctx va = s.walkFrom ctx va lvl (tab lvl) wcs := by
      rw [State.walk_of_rootOwn hwc (hroot ▸ hown 4 hlvl le_rfl), hroot, hdown]
    have hfault {sub : Nat} (hw : s.walkFrom ctx va lvl (tab lvl) wcs = .fault sub lvl wcs) :
        s.xlateFull t ctx priv va acc = .fault sub lvl :=
      State.xlateFull_of_walk_fault hpre hcached (hwalk.trans hw)
    have hleaf (hr : reservedBits (e lvl) lvl = false) (hl : leaf lvl) : leafOf ctx (e lvl) va lvl = l := by
      change _ = { leafOf ctx (e lvl) va lvl with pa := pageOf (e lvl) }
      rw [← leafOf_pa hr hl]
    have hrange (hr : reservedBits (e lvl) lvl = false) (hl : leaf lvl) :
        s.LeafInRange (leafOf ctx (e lvl) va lvl) ↔ inRange := by rw [hleaf hr hl]; rfl
    refine ⟨fun hv => ?invalid, fun hv hr => ?reserved, fun hv hr hl hp => ?outside, fun hv hr hl hp => ?outOfRange,
      fun hv hr hl hp hc => ?leaf⟩
    case invalid => exact hfault (State.walkFrom_invalid hv)
    case reserved => exact hfault (State.walkFrom_reserved hv hr)
    case outside => exact hfault (State.walkFrom_pointerOutside hv hr hl hp)
    case outOfRange => exact hfault (State.walkFrom_leafOutOfRange hv hr hl (mt (hrange hr hl).mp hp))
    case leaf =>
      rw [State.xlateFull_of_walk_leaf hpre hcached (hwalk.trans (State.walkFrom_leaf hv hr hl ((hrange hr hl).mpr hp) hc)),
        ← hleaf hr hl]
      exact s.narrow_leafOf_xl hr hl acc priv

end Sys2Proof.Machine
end
